-- ==== Sys2Proof/Word.lean ====
section
/-! DEFINITION. The word types of the SB-64 (00 R4-R8, data units table) and their plainest arithmetic. -/

namespace Sys2Proof

/-- 8 bits. -/
abbrev Byte := BitVec 8
/-- 16 bits (half-word). -/
abbrev Half := BitVec 16
/-- 32 bits. -/
abbrev Word := BitVec 32
/-- A 44-bit physical address (03 R69). -/
abbrev PAddr := BitVec 44
/-- A line address: physical address bits [43:6]. -/
abbrev LineAddr := BitVec 38
/-- The 64 data bytes of a line, byte k in bits [8k+7:8k] (20 R438). -/
abbrev LineData := BitVec 512
/-- An engine E0-E63. -/
abbrev Eng := Fin 64
/-- An Ibfel or memory port number. -/
abbrev PortNo := Fin 4
/-- An instance I0-I63. -/
abbrev InstNo := Fin 64
/-- A message channel. -/
abbrev ChanNo := Fin 1024

end Sys2Proof
end

