-- ==== Sys2Proof/Config.lean ====
section
/-! DEFINITION. What the manual leaves open. The bodies are opaque: no proof sees a value. -/

namespace Sys2Proof.Config

/-- The bytes of the values the manual leaves open, by the number of the free value: what an interrupted NVM command leaves (19 R432,
17 R389), fields of log records, NACKs and responses that no rule states. The list is log 5. -/
opaque freeByte : Nat → Byte

/-- `TAP_MFR[10:0]`, the manufacturer identity that the integrator ties (20 R454). -/
opaque tapMfr : BitVec 11

end Sys2Proof.Config
end

