-- ==== Sys2Proof/Syntax.lean ====
section
/-! DEFINITION. The commands of the SB-64 block: the 311 rows of spec/opcode_table.json, and the types of their operands. -/

namespace Sys2Proof

/-- The place and operand of a short syllable (04 R84): first or second of its word, with its 8 operand bits. A first syllable
comes with bits [15:0] of its word, since the whole word is judged before either syllable performs (04 R97). -/
inductive Syl where
  | first (o : BitVec 8) (rest : BitVec 16)
  | second (o : BitVec 8)
  deriving DecidableEq, Repr

/-- An instruction that has a long word form and a short syllable form (04 R87, R90). -/
inductive Form where
  | long (o : BitVec 24)
  | first (o : BitVec 8) (rest : BitVec 16)
  | second (o : BitVec 8)
  deriving DecidableEq, Repr

/-- A control transfer: a long word, or a short syllable, which is legal only in the second place (04 R94). -/
inductive BForm where
  | long (o : BitVec 24)
  | second (o : BitVec 8)
  deriving DecidableEq, Repr

/-- The operand fields of a vector word besides FUNC, which the row's mnemonic fixes (04 R88). -/
structure VFields where
  /-- bits [23:20], reserved -/
  hi : BitVec 4 := 0
  m : Bool
  vb : BitVec 5
  va : BitVec 5
  vd : BitVec 5
  deriving DecidableEq, Repr

/-- A block-repeat word's operand field, with the number of iterations that run before the next boundary is offered (06 R149). -/
structure BlockOp where
  bits : BitVec 24
  n : Nat
  deriving DecidableEq, Repr

/-- A vector memory word's fields, with the number of elements that perform before the next boundary is offered (07 R168). -/
structure VMemOp where
  v : VFields
  n : Nat
  deriving DecidableEq, Repr

/-- Who makes an I/O access (21 R462). -/
inductive IoSrc where
  | engine (e : Eng)
  | host
  | tap
  deriving DecidableEq, Repr

/-- The kind of an access that translation checks (11 R251). -/
inductive AccKind where
  | read | write | fetch
  deriving DecidableEq, Repr

/-- Which cache a line fill is for (11 R259). -/
inductive CacheSide where
  | data | instr
  deriving DecidableEq, Repr

/-- What the Gatherer meets while an entry's cycles 1-9 run (10 R232, R236): a presentation to the engine, a withdrawal that is due, a
write of `EVG.PEND.CLR`, a write of a source's configuration word, or a wire's level. -/
inductive EntryWhat where
  | present | withdraw
  | clear (id : BitVec 9)
  | config (id : BitVec 9) (field : BitVec 2) (v : Word)
  | wire (wire : BitVec 8) (level : Bool)
  deriving DecidableEq, Repr

/-- A happening that reaches the engine in entry cycle `cycle` + 1 (10 R236). -/
structure EntryEvent where
  cycle : Fin 9
  what : EntryWhat
  deriving DecidableEq, Repr

/-- What a FAULT_ENTRY command takes: the boundary's pending fault of 09 R209, a word in a reserved encoding that commits
(04 R96), or the fetch of the word at the PC (11 R258). -/
inductive EntryCause where
  | boundary
  | illegal (word : Word)
  | fetch
  deriving DecidableEq, Repr

/-- What the ECC of a word shows when it is read (12 R270). -/
inductive Ecc where
  | good | corrected | uncorrectable
  deriving DecidableEq, Repr

/-- A request that a master presents to a scratchpad bank (12 R269): its master ID, the 8-byte word's index (offset bits
[23:3]), read or byte-masked write, the channel it acts for (12 R274), the lot of a channel-engine message (16 R377), and the request
of 12 R471 that it is part of: the offset of the request's first byte, and which of the 64 bytes from there it names; none named: the
access is a request of its own. -/
structure SpReq where
  mst : BitVec 8
  word : BitVec 21
  write : Bool
  mask : BitVec 8
  data : BitVec 64
  chan : ChanNo
  lot : BitVec 16
  ecc : Ecc
  start : BitVec 24 := 0
  bytes : BitVec 64 := 0
  deriving DecidableEq, Repr

/-- A unit that corrected errors are counted against (17 R397). -/
inductive CeUnit where
  | engine (e : Eng)
  | bank (b : Fin 64)
  deriving DecidableEq, Repr

/-- Where an uncorrectable or parity error arose (17 R397). -/
inductive UeWhat where
  /-- a scratchpad word becomes bad (12 R270) -/
  | scratchpad (word : BitVec 21)
  /-- I-cache line, frame set*4+way (11 R261) -/
  | icache (e : Eng) (frame : Fin 512)
  /-- D-cache line (11 R261) -/
  | dcache (e : Eng) (frame : Fin 512)
  /-- stack cache, return-stack cache, banks, locals, vector registers, gate store -/
  | engineSram (e : Eng)
  /-- TLB entry: which TLB (0 I, 1 D, 2 second level) and its place -/
  | tlb (e : Eng) (which : Fin 3) (place : Fin 1024)
  /-- direction predictor or target buffer entry -/
  | predictor (e : Eng) (target : Bool) (place : Fin 4096)
  /-- engine datapath parity -/
  | enginePath (e : Eng)
  /-- parity of the fabric between a bank and a master that was served last -/
  | bankPath (bank : Fin 64) (mst : BitVec 8)
  /-- parity of the crossbar between a memory port (4: the host initiator) and the master of a transaction -/
  | portPath (port : Fin 5) (id : BitVec 8)
  /-- an on-chip ledger entry -/
  | ledger (group : BitVec 6) (key : BitVec 64)
  /-- an Ibfel retry buffer -/
  | retry (p : PortNo)
  /-- an NVM word, byte offset div 8 -/
  | nvm (word : BitVec 17)
  deriving DecidableEq, Repr

/-- Why a bank word moves to a spare word (17 R401). -/
inductive SpareCause where
  | twoScrubs
  | rewritten
  | bist
  deriving DecidableEq, Repr

/-- The strap levels (20 R436). -/
structure Straps where
  devid : BitVec 12
  boot : BitVec 2
  twin : BitVec 2
  ratio : BitVec 3
  safe : Bool
  test : Bool
  deriving DecidableEq, Repr

/-- A failing SRAM that BIST found (19 R422). -/
inductive BistFail where
  | word (w : BitVec 21)
  | engine (e : Eng)
  | retry (p : PortNo)
  | other
  deriving DecidableEq, Repr

/-- What the AON domain sees in deep idle (10 R240, R243). -/
inductive WakeWhat where
  | edge (wire : BitVec 8) (rising : Bool)
  | level (wire : BitVec 8) (level : Bool)
  | tick
  deriving DecidableEq, Repr

/-- A clock (20 R447). -/
inductive ClockName where
  | eclk | fclk | mpclk (p : PortNo) | hpclk | pclk (p : PortNo) | mgclk | aonclk | tck
  deriving DecidableEq, Repr

/-- A channel whose beats transfer under VALID and READY (20 R439, R444, R445). -/
inductive BusChan where
  | mpReq (p : PortNo) | mpData (p : PortNo) | hpReq | hpData | hpTrsp
  deriving DecidableEq, Repr

/-- The commands of the block: one constructor for each row of spec/opcode_table.json, in the table's order. -/
inductive Instr where
  /-- LIT (R100). Pushes a sign-extended literal from the long or short form. -/
  | lit (e : Eng) (f : Form)
  /-- LITHI (R100). Replaces bits [31:24] of S0 with the operand byte. -/
  | lithi (e : Eng) (o : BitVec 24)
  /-- LEA (R100). Pushes the word address plus a signed byte offset. -/
  | lea (e : Eng) (o : BitVec 24)
  /-- ADDI (R100). Adds a signed immediate to S0 modulo 2^32 and never raises OVERFLOW. -/
  | addi (e : Eng) (f : Form)
  /-- NOP (R101). Does nothing. -/
  | nop (e : Eng) (y : Syl)
  /-- DUP (R101). Pushes a copy of S0. -/
  | dup (e : Eng) (y : Syl)
  /-- DROP (R101). Pops S0. -/
  | drop (e : Eng) (y : Syl)
  /-- SWAP (R101). Exchanges S0 and S1. -/
  | swap (e : Eng) (y : Syl)
  /-- OVER (R101). Pushes a copy of S1. -/
  | over (e : Eng) (y : Syl)
  /-- ROT (R101). Rotates the top three cells. -/
  | rot (e : Eng) (y : Syl)
  /-- PICK (R60). Pushes a copy of S(n), read from the cache or from the spill area without filling. -/
  | pick (e : Eng) (y : Syl)
  /-- ADD (R103). Pushes a + b modulo 2^32. -/
  | add (e : Eng) (y : Syl)
  /-- SUB (R103). Pushes a − b modulo 2^32. -/
  | sub (e : Eng) (y : Syl)
  /-- ADDV (R81). Adds with an OVERFLOW report after the word when OVE is set. -/
  | addv (e : Eng) (y : Syl)
  /-- SUBV (R81). Subtracts with an OVERFLOW report after the word when OVE is set. -/
  | subv (e : Eng) (y : Syl)
  /-- NEG (R80). Negates S0 and checks 0x8000_0000 for OVERFLOW. -/
  | neg (e : Eng) (y : Syl)
  /-- AND (R103). Bitwise AND of a and b. -/
  | and_ (e : Eng) (y : Syl)
  /-- OR (R103). Bitwise OR of a and b. -/
  | or_ (e : Eng) (y : Syl)
  /-- XOR (R103). Bitwise XOR of a and b. -/
  | xor_ (e : Eng) (y : Syl)
  /-- NOT (R103). Bitwise complement of S0. -/
  | not_ (e : Eng) (y : Syl)
  /-- SHL (R80). Shifts a left by b places, giving 0 when b is 32 or more. -/
  | shl (e : Eng) (y : Syl)
  /-- SHR (R80). Shifts a right with zero fill, giving 0 when b is 32 or more. -/
  | shr (e : Eng) (y : Syl)
  /-- SAR (R80). Shifts a right with sign fill. -/
  | sar (e : Eng) (y : Syl)
  /-- ROL (R80). Rotates a left by b mod 32. -/
  | rol (e : Eng) (y : Syl)
  /-- ROR (R80). Rotates a right by b mod 32. -/
  | ror (e : Eng) (y : Syl)
  /-- SHLI (R103). Shifts left by an immediate count. -/
  | shli (e : Eng) (y : Syl)
  /-- SHRI (R103). Shifts right with zero fill by an immediate count. -/
  | shri (e : Eng) (y : Syl)
  /-- SARI (R103). Shifts right with sign fill by an immediate count. -/
  | sari (e : Eng) (y : Syl)
  /-- RORI (R103). Rotates right by an immediate count. -/
  | rori (e : Eng) (y : Syl)
  /-- SEQ (R103). Pushes 1 when a equals b, else 0. -/
  | seq (e : Eng) (y : Syl)
  /-- SLT (R103). Pushes 1 when a < b as signed values, else 0. -/
  | slt (e : Eng) (y : Syl)
  /-- SLTU (R103). Pushes 1 when a < b as unsigned values, else 0. -/
  | sltu (e : Eng) (y : Syl)
  /-- SEXTB (R103). Sign-extends the low byte. -/
  | sextb (e : Eng) (y : Syl)
  /-- SEXTH (R103). Sign-extends the low half-word. -/
  | sexth (e : Eng) (y : Syl)
  /-- ZEXTB (R103). Zero-extends the low byte. -/
  | zextb (e : Eng) (y : Syl)
  /-- ZEXTH (R103). Zero-extends the low half-word. -/
  | zexth (e : Eng) (y : Syl)
  /-- LDL (R104). Pushes local Ln. -/
  | ldl (e : Eng) (y : Syl)
  /-- STL (R104). Pops into local Ln. -/
  | stl (e : Eng) (y : Syl)
  /-- LDB (R105). Loads a sign-extended byte. -/
  | ldb (e : Eng) (f : Form)
  /-- LDBU (R105). Loads a zero-extended byte. -/
  | ldbu (e : Eng) (f : Form)
  /-- LDH (R105). Loads a sign-extended half-word. -/
  | ldh (e : Eng) (f : Form)
  /-- LDHU (R105). Loads a zero-extended half-word. -/
  | ldhu (e : Eng) (f : Form)
  /-- LDW (R105). Loads a word, or an SB-1 word in SB1 mode. -/
  | ldw (e : Eng) (f : Form)
  /-- STB (R105). Stores a byte through the store buffer. -/
  | stb (e : Eng) (f : Form)
  /-- STH (R105). Stores a half-word through the store buffer. -/
  | sth (e : Eng) (f : Form)
  /-- STW (R105). Stores a word, or an SB-1 word in SB1 mode, through the store buffer. -/
  | stw (e : Eng) (f : Form)
  /-- IN (R108). Reads an I/O word at an absolute address once every earlier access has performed. -/
  | inAbs (e : Eng) (o : BitVec 24)
  /-- INR (R108). Reads an I/O word at base plus offset. -/
  | inr (e : Eng) (o : BitVec 24)
  /-- OUT (R108). Writes an I/O word at an absolute address. -/
  | outAbs (e : Eng) (o : BitVec 24)
  /-- OUTR (R108). Writes an I/O word at base plus offset; SEND is this form. -/
  | outr (e : Eng) (o : BitVec 24)
  /-- IO_ACCESS_COMPLETE (R109). An IN's data or an OUT's write acknowledgement returns and releases the ordering hold. -/
  | ioAccessComplete (e : Eng)
  /-- BEQ (R111). Branches when a equals b. -/
  | beq (e : Eng) (b : BForm)
  /-- BNE (R111). Branches when a differs from b. -/
  | bne (e : Eng) (b : BForm)
  /-- BLT (R111). Branches when a < b, signed. -/
  | blt (e : Eng) (b : BForm)
  /-- BGE (R111). Branches when a ≥ b, signed. -/
  | bge (e : Eng) (b : BForm)
  /-- BLTU (R111). Branches when a < b, unsigned. -/
  | bltu (e : Eng) (b : BForm)
  /-- BGEU (R111). Branches when a ≥ b, unsigned. -/
  | bgeu (e : Eng) (b : BForm)
  /-- BZ (R111). Branches when the popped cell is 0. -/
  | bz (e : Eng) (b : BForm)
  /-- BNZ (R111). Branches when the popped cell is not 0. -/
  | bnz (e : Eng) (b : BForm)
  /-- JMP (R111). Transfers unconditionally; BR is the short form. -/
  | jmp (e : Eng) (b : BForm)
  /-- CALL (R63). Sets LNK to A + 4 and transfers to the target. -/
  | call (e : Eng) (b : BForm)
  /-- RET (R63). Transfers to LNK, raising ALIGN when LNK is misaligned. -/
  | ret (e : Eng) (b : BForm)
  /-- JMPS (R111). Transfers to the popped target. -/
  | jmps (e : Eng) (o : BitVec 24)
  /-- CALLS (R111). Sets LNK to A + 4 and transfers to the popped target. -/
  | calls (e : Eng) (o : BitVec 24)
  /-- PUSHL (R64). Pushes LNK onto the return stack. -/
  | pushl (e : Eng) (y : Syl)
  /-- POPL (R64). Pops the return stack into LNK. -/
  | popl (e : Eng) (y : Syl)
  /-- TO_RS (R64). Moves S0 onto the return stack (>RS). -/
  | toRs (e : Eng) (y : Syl)
  /-- FROM_RS (R64). Moves the return-stack top onto the operand stack (RS>). -/
  | fromRs (e : Eng) (y : Syl)
  /-- TRAP (R114). Reads the gate descriptor and enters gate 32 + n whatever MASK holds. -/
  | trap (e : Eng) (o : BitVec 24)
  /-- GETC (R115). Pushes a special register. -/
  | getc (e : Eng) (o : BitVec 24)
  /-- SETC (R115). Writes a special register after the privilege and reserved-value checks. -/
  | setc (e : Eng) (o : BitVec 24)
  /-- SYNC (R116). Waits for retirement and drain, applies pending SYNC writes, loads the gate store and refetches. -/
  | sync (e : Eng) (o : BitVec 24)
  /-- FENCE (R117). Holds later issue until earlier loads, stores, maintenance and I/O have completed. -/
  | fence (e : Eng) (o : BitVec 24)
  /-- LFENCE (R118). Holds later issue until earlier long operations retire and reports their faults precisely. -/
  | lfence (e : Eng) (o : BitVec 24)
  /-- RETI (R219). Checks depth, then restores the interrupted context or tail-chains. -/
  | reti (e : Eng) (o : BitVec 24)
  /-- STATE_STACK_REFILL (R219). Reads a spilled frame back into the freed bank in the background. -/
  | stateStackRefill (e : Eng)
  /-- MSK (R120). Sets MASK to the operand level. -/
  | msk (e : Eng) (o : BitVec 24)
  /-- WAITE (R121). Sleeps until a claimable event is presented or a fault becomes pending. -/
  | waite (e : Eng) (o : BitVec 24)
  /-- BRK (R122). Raises BREAKPOINT with its 24-bit code. -/
  | brk (e : Eng) (o : BitVec 24)
  /-- DCM_CLEAN (R123). Writes back a dirty D-cache line by address or set/way. -/
  | dcmClean (e : Eng) (way : Bool) (hi : BitVec 21)
  /-- DCM_INVALIDATE (R123). Invalidates a D-cache line without write-back. -/
  | dcmInvalidate (e : Eng) (way : Bool) (hi : BitVec 21)
  /-- DCM_CLEAN_INVALIDATE (R123). Writes back a dirty D-cache line and invalidates it. -/
  | dcmCleanInvalidate (e : Eng) (way : Bool) (hi : BitVec 21)
  /-- ICM_INVALIDATE (R123). Invalidates an I-cache line and a matching line-buffer entry. -/
  | icmInvalidate (e : Eng) (way : Bool) (hi : BitVec 21)
  /-- MOVB (R146). Copies BCNT bytes from BSRC to BDST in line-bounded iterations. -/
  | movb (e : Eng) (o : BlockOp)
  /-- FILLB (R146). Fills BCNT bytes at BDST with the operand byte. -/
  | fillb (e : Eng) (o : BlockOp)
  /-- CMPB (R147). Compares two ranges and stops at the first difference. -/
  | cmpb (e : Eng) (o : BlockOp)
  /-- SCANB (R147). Scans a range and stops at the first matching byte. -/
  | scanb (e : Eng) (o : BlockOp)
  /-- MUL (R138). Starts a signed 64-bit product into MHI:MLO. -/
  | mul (e : Eng) (o : BitVec 24)
  /-- MULU (R138). Starts an unsigned 64-bit product into MHI:MLO. -/
  | mulu (e : Eng) (o : BitVec 24)
  /-- MULV (R145). Starts a signed product checked for 32-bit overflow as a long operation. -/
  | mulv (e : Eng) (o : BitVec 24)
  /-- PRODUCT_LANDS (R138). A started product writes MLO and MHI four cycles after issue. -/
  | productLands (e : Eng)
  /-- DIV (R142). Starts a signed division that reserves its result cell. -/
  | div (e : Eng) (o : BitVec 24)
  /-- DIVU (R142). Starts an unsigned division that reserves its result cell. -/
  | divu (e : Eng) (o : BitVec 24)
  /-- REM (R142). Starts a signed remainder that reserves its result cell. -/
  | rem (e : Eng) (o : BitVec 24)
  /-- REMU (R142). Starts an unsigned remainder that reserves its result cell. -/
  | remu (e : Eng) (o : BitVec 24)
  /-- DIVIDE_RESULT_WRITE (R142). The divider writes its result into the reserved cell L cycles after issue and reports any fault. -/
  | divideResultWrite (e : Eng)
  /-- CRCB (R131). Advances a CRC over one byte. -/
  | crcb (e : Eng) (o : BitVec 24)
  /-- CRCH (R131). Advances a CRC over two bytes. -/
  | crch (e : Eng) (o : BitVec 24)
  /-- CRCW (R131). Advances a CRC over four bytes. -/
  | crcw (e : Eng) (o : BitVec 24)
  /-- PAR (R132). Pushes the parity of S0. -/
  | par (e : Eng) (o : BitVec 24)
  /-- BREV (R132). Reverses bit order within bytes, half-words or the word. -/
  | brev (e : Eng) (o : BitVec 24)
  /-- CKD (R133). Performs one mod-10 doubling check-digit step. -/
  | ckd (e : Eng) (o : BitVec 24)
  /-- EXTU (R134). Extracts an unsigned bit field. -/
  | extu (e : Eng) (o : BitVec 24)
  /-- EXTS (R134). Extracts a signed bit field. -/
  | exts (e : Eng) (o : BitVec 24)
  /-- INS (R135). Inserts a bit field into x. -/
  | ins (e : Eng) (o : BitVec 24)
  /-- CLZ (R136). Counts leading zeros. -/
  | clz (e : Eng) (o : BitVec 24)
  /-- BPERM (R137). Permutes the bytes of S0 by a 16-bit selector. -/
  | bperm (e : Eng) (o : BitVec 24)
  /-- VADD (R159). Element-wise vector add. -/
  | vadd (e : Eng) (v : VFields)
  /-- VSUB (R159). Element-wise vector subtract. -/
  | vsub (e : Eng) (v : VFields)
  /-- VMIN (R159). Element-wise signed minimum. -/
  | vmin (e : Eng) (v : VFields)
  /-- VMINU (R159). Element-wise unsigned minimum. -/
  | vminu (e : Eng) (v : VFields)
  /-- VMAX (R159). Element-wise signed maximum. -/
  | vmax (e : Eng) (v : VFields)
  /-- VMAXU (R159). Element-wise unsigned maximum. -/
  | vmaxu (e : Eng) (v : VFields)
  /-- VAND (R159). Element-wise AND. -/
  | vand (e : Eng) (v : VFields)
  /-- VOR (R159). Element-wise OR. -/
  | vor (e : Eng) (v : VFields)
  /-- VXOR (R159). Element-wise XOR. -/
  | vxor (e : Eng) (v : VFields)
  /-- VSHL (R159). Element-wise shift left. -/
  | vshl (e : Eng) (v : VFields)
  /-- VSHR (R159). Element-wise logical shift right. -/
  | vshr (e : Eng) (v : VFields)
  /-- VSAR (R159). Element-wise arithmetic shift right. -/
  | vsar (e : Eng) (v : VFields)
  /-- VWMUL (R160). Signed widening multiply. -/
  | vwmul (e : Eng) (v : VFields)
  /-- VWMULU (R160). Unsigned widening multiply. -/
  | vwmulu (e : Eng) (v : VFields)
  /-- VDOT8 (R161). Signed 8-bit dot product accumulated into 32-bit lanes. -/
  | vdot8 (e : Eng) (v : VFields)
  /-- VDOT8U (R161). Unsigned 8-bit dot product accumulated into 32-bit lanes. -/
  | vdot8u (e : Eng) (v : VFields)
  /-- VDOT16 (R161). Signed 16-bit dot product accumulated into 32-bit lanes. -/
  | vdot16 (e : Eng) (v : VFields)
  /-- VDOT16U (R161). Unsigned 16-bit dot product accumulated into 32-bit lanes. -/
  | vdot16u (e : Eng) (v : VFields)
  /-- VRSUM (R162). Pushes the sum of the active elements. -/
  | vrsum (e : Eng) (v : VFields)
  /-- VRMIN (R162). Pushes the signed minimum of the active elements. -/
  | vrmin (e : Eng) (v : VFields)
  /-- VRMINU (R162). Pushes the unsigned minimum of the active elements. -/
  | vrminu (e : Eng) (v : VFields)
  /-- VRMAX (R162). Pushes the signed maximum of the active elements. -/
  | vrmax (e : Eng) (v : VFields)
  /-- VRMAXU (R162). Pushes the unsigned maximum of the active elements. -/
  | vrmaxu (e : Eng) (v : VFields)
  /-- VRAND (R162). Pushes the AND of the active elements. -/
  | vrand (e : Eng) (v : VFields)
  /-- VROR (R162). Pushes the OR of the active elements. -/
  | vror (e : Eng) (v : VFields)
  /-- VMV (R163). Copies the active elements, or merges them under the mask. -/
  | vmv (e : Eng) (v : VFields)
  /-- VBCAST (R163). Broadcasts the popped cell to the active elements. -/
  | vbcast (e : Eng) (v : VFields)
  /-- VEXT (R163). Pushes one element chosen by the popped index. -/
  | vext (e : Eng) (v : VFields)
  /-- VSEQ (R164). Sets mask bits for equal elements. -/
  | vseq (e : Eng) (v : VFields)
  /-- VSNE (R164). Sets mask bits for unequal elements. -/
  | vsne (e : Eng) (v : VFields)
  /-- VSLT (R164). Sets mask bits for signed less-than. -/
  | vslt (e : Eng) (v : VFields)
  /-- VSLTU (R164). Sets mask bits for unsigned less-than. -/
  | vsltu (e : Eng) (v : VFields)
  /-- VSLE (R164). Sets mask bits for signed less-or-equal. -/
  | vsle (e : Eng) (v : VFields)
  /-- VSLEU (R164). Sets mask bits for unsigned less-or-equal. -/
  | vsleu (e : Eng) (v : VFields)
  /-- VECTOR_ARITH_COMPLETE (R157). A queued vector arithmetic instruction completes and writes its registers or its reserved cell. -/
  | vectorArithComplete (e : Eng)
  /-- VLD (R166). Unit-stride vector load, element by element. -/
  | vld (e : Eng) (v : VMemOp)
  /-- VLDS (R166). Strided vector load. -/
  | vlds (e : Eng) (v : VMemOp)
  /-- VLDX (R166). Indexed vector gather. -/
  | vldx (e : Eng) (v : VMemOp)
  /-- VST (R166). Unit-stride vector store. -/
  | vst (e : Eng) (v : VMemOp)
  /-- VSTS (R166). Strided vector store. -/
  | vsts (e : Eng) (v : VMemOp)
  /-- VSTX (R166). Indexed vector scatter. -/
  | vstx (e : Eng) (v : VMemOp)
  /-- SETVL (R154). Grants min(request, VLMAX) elements, sets VL and clears VSTART. -/
  | setvl (e : Eng) (v : VFields)
  /-- VSAVE (R170). Writes the vector state header and the dirty registers to a save image. -/
  | vsave (e : Eng) (v : VFields)
  /-- VRESTORE (R170). Reloads vector state from a save image. -/
  | vrestore (e : Eng) (v : VFields)
  /-- MISPREDICT_UNDO (R184). A transfer resolves against its prediction, younger work is discarded and the checkpoint is restored. -/
  | mispredictUndo (e : Eng)
  /-- RUN_AHEAD_ENTRY (R187). A load or fill miss starts run-ahead with the missing instruction, which waits for `line`, as anchor. -/
  | runAheadEntry (e : Eng) (line : LineAddr)
  /-- RUN_AHEAD_END (R189). Run-ahead ends, its instructions are discarded and the anchor reissues. -/
  | runAheadEnd (e : Eng)
  /-- LINE_FILL_LANDS (R259). A requested cache line arrives from its memory port and fills the cache. -/
  | lineFillLands (e : Eng) (side : CacheSide) (line : LineAddr)
  /-- STORE_BUFFER_DRAIN (R192). The oldest committed store-buffer entry writes the D-cache or its scratchpad words. -/
  | storeBufferDrain (e : Eng)
  /-- TRANSLATION_WALK (R252). A miss in both TLBs walks the stage-1 and stage-2 tables and fills the TLBs. `ecc` is what
  the first scratchpad word that the walk reads now shows. -/
  | translationWalk (e : Eng) (acc : AccKind) (va : Word) (ecc : Ecc)
  /-- EVENT_ENTRY (R235). Claims a presented event at a boundary and enters its gate in exactly 24 ECLK cycles. -/
  | eventEntry (e : Eng) (during : List EntryEvent)
  /-- FAULT_ENTRY (R214). A fault at commit or boundary enters its gate, banking the interrupted context. -/
  | faultEntry (e : Eng) (cause : EntryCause)
  /-- SPILL_BUFFER_DRAIN (R216). The spilled 128-byte frame drains to memory as two line writes. -/
  | spillBufferDrain (e : Eng)
  /-- LAST_RESORT_ENTRY (R222). Waits for drains, writes the record and enters the last-resort bank at LRVEC. -/
  | lastResortEntry (e : Eng)
  /-- LATE_BUS_ERROR (R208). An error response for a committed store, write-back or frame becomes pending or merges into the first error. -/
  | lateBusError (e : Eng)
  /-- ENG_XINV_GO (R257). Invalidates the TLB entries OP names at the engine's next boundary and clears GO after the drain. -/
  | engXinvGo (e : Eng) (op : BitVec 2) (inst : BitVec 6)
  /-- EV_IN_EDGE (R228). A qualifying edge on an external occurrence source counts as one occurrence. -/
  | evInEdge (wire : BitVec 8) (rising : Bool)
  /-- EV_IN_LEVEL_CHANGE (R230). A level source asserts to become pending, or deasserts to leave service. -/
  | evInLevelChange (wire : BitVec 8) (level : Bool)
  /-- INTERNAL_OCCURRENCE (R228). An internal producer signals one occurrence per FCLK cycle from its carry count. -/
  | internalOccurrence (s : BitVec 9)
  /-- BATCH_TIMER_EXPIRY (R229). A batch timer reaching CTIME releases the batch. -/
  | batchTimerExpiry (s : BitVec 9)
  /-- PRESENTATION (R231). Resolution offers the highest eligible release to an engine and reserves it. -/
  | presentation (e : Eng)
  /-- WITHDRAWAL (R232). The Gatherer withdraws a presentation that is no longer eligible. -/
  | withdrawal (e : Eng)
  /-- CLAIM_REPORT (R232). A CONSUMED or RELEASED report reaches the Gatherer and settles the release. -/
  | claimReport (e : Eng)
  /-- MASK_SHADOW_UPDATE (R233). A MASK change reaches the Gatherer's shadow and may withdraw a presentation. -/
  | maskShadowUpdate (e : Eng)
  /-- START_UP_LATCH_EDGE (R241). An asynchronous latch catches an EV_IN edge before the Weave is loaded. -/
  | startUpLatchEdge (wire : BitVec 8) (rising : Bool)
  /-- EVG_SWRAISE (R245). Raises one occurrence of the named occurrence source. -/
  | evgSwraise (v : Word)
  /-- EVG_PEND_CLR (R245). Clears a source's COUNT, ACC and timer and withdraws its presentations. -/
  | evgPendClr (s : BitVec 9)
  /-- EVG_PEND_EOI (R230). Takes a level source out of service. -/
  | evgPendEoi (s : BitVec 9)
  /-- EVG_SOURCE_CONFIG_WRITE (R229). A write to a source's CFG, CTIME or TARGET applies at once and may release a batch or withdraw. -/
  | evgSourceConfigWrite (src : IoSrc) (s : BitVec 9) (field : BitVec 2) (v : Word)
  /-- EVG_EVOUT_WRITE (R244). Writes the EV_OUT levels. -/
  | evgEvoutWrite (v : Word)
  /-- EVG_EVOUTSET (R244). Sets the EV_OUT bits written 1. -/
  | evgEvoutset (v : Word)
  /-- EVG_EVOUTCLR (R244). Clears the EV_OUT bits written 1. -/
  | evgEvoutclr (v : Word)
  /-- INTERVAL_TIMER_EXPIRY (R242). An engine timer reloads, sets TEXP and raises source 257 + n. -/
  | intervalTimerExpiry (e : Eng)
  /-- WATCHDOG_FIRST_EXPIRY (R242). Sets WD1 and raises WATCHDOG on the engine. -/
  | watchdogFirstExpiry (e : Eng)
  /-- WATCHDOG_SECOND_EXPIRY (R242). Sets WD2 and raises source 257 + n, repeating each period. -/
  | watchdogSecondExpiry (e : Eng)
  /-- TMR_PERIOD_WRITE (R246). Sets an interval timer period and restarts its count. -/
  | tmrPeriodWrite (e : Eng) (v : Word)
  /-- TMR_WDKICK (R242). Reloads the watchdog and returns it to its first stage. -/
  | tmrWdkick (e : Eng)
  /-- TMR_WDPERIOD_WRITE (R242). Sets the watchdog period and acts as a kick. -/
  | tmrWdperiodWrite (e : Eng) (v : Word)
  /-- TMR_GTIMELO_READ (R246). Reads global time bits [31:0] and captures bits [63:32]. -/
  | tmrGtimeloRead
  /-- COMPARATOR_MATCH (R243). Global time reaching a comparator value raises source 377 + k once. -/
  | comparatorMatch (k : Fin 4)
  /-- TMR_MBOX_WRITE (R243). Stores a mailbox word and raises source 381 + k. -/
  | tmrMboxWrite (k : Fin 4) (v : Word)
  /-- WEAVE_LOAD (R34). Reads and checks an image from its source, falling back or waiting on failure. -/
  | weaveLoad
  /-- WVL_CTL_LOAD (R53). Starts a new load in state WAIT or MINIMAL. -/
  | wvlCtlLoad (v : Word)
  /-- WVL_DATA_WRITE (R53). Delivers the next image word from the host port or Ibfel. -/
  | wvlDataWrite (v : Word)
  /-- WEAVE_LOAD_TIMEOUT (R34). A gap longer than WVL.TIMEOUT between data words ends the load with SOURCE. -/
  | weaveLoadTimeout
  /-- CPX_COMMIT_WRITE (R48). Queues a commit group for the next or following warp boundary. -/
  | cpxCommitWrite (v : Word)
  /-- COMMIT_GROUP_APPLY (R50). At a warp boundary, checks each queued group and applies it or records it as failed. -/
  | commitGroupApply
  /-- FALLBACK_PLAN_APPLY (R44). A matching plan's slot records, SUBST changes and transmit frames become active at a warp boundary. -/
  | fallbackPlanApply
  /-- FALLBACK_PLAN_READ (R401). Reads a matching plan from NVM after a retirement or narrowing. -/
  | fallbackPlanRead (ok : Bool)
  /-- SCRATCHPAD_ACCESS (R269). A master's 8-byte word access is served in a warp slot on a bank port. -/
  | scratchpadAccess (bank : Fin 64) (reqs : List SpReq)
  /-- SCRUB_ACCESS (R271). An idle bank-port slot reads a word and schedules a corrected write-back. -/
  | scrubAccess (bank : Fin 64) (portB : Bool) (ecc : Ecc)
  /-- SCRUB_WRITE (R271). Writes a corrected word back in the next idle slot of the same port. -/
  | scrubWrite (bank : Fin 64) (portB : Bool)
  /-- MESSAGE_ARRIVAL (R290). The channel engine checks an arriving message and allocates its buffers. -/
  | messageArrival
  /-- LEDGER_PROBE (R298). A request's key is looked up, and when it misses on chip its memory bucket is read and it is classified.
  `bucket` and `store` are what the first word of the bucket and of the stored reply show when they lie in the scratchpad. -/
  | ledgerProbe (buf : BitVec 16) (bucket : Ecc) (store : Ecc)
  /-- MESSAGE_POST (R292). Once the ledger decision and the payload write complete, appends a descriptor and raises the channel source. -/
  | messagePost (buf : BitVec 16)
  /-- CHE_RECV_READ (R293). Removes and returns the oldest descriptor of source k. -/
  | cheRecvRead (src : IoSrc) (k : Fin 15)
  /-- CHE_ALLOC_READ (R302). Allocates one owned buffer for channel c or returns 0xFFFF. -/
  | cheAllocRead (src : IoSrc) (c : ChanNo)
  /-- CHE_FREE (R303). Releases an owned or open chain, removing an open request's ledger entry. -/
  | cheFree (src : IoSrc) (v : Word)
  /-- CHE_SEND (R304). Accepts a send, checks it and fills the reply fields. -/
  | cheSend (src : IoSrc) (v : Word)
  /-- MESSAGE_TRANSMIT (R305). Reads a sending chain from the scratchpad and passes its flits to the transmit queue, aborting on a broken chain. -/
  | messageTransmit
  /-- REPLY_RELEASE (R306). An acknowledged reply is released, its copies are sent and its ledger store is written. -/
  | replyRelease
  /-- REQUEST_TIMEOUT (R308). A queued or open request times out, NACKs with TIMEOUT and records the NACK as its reply. -/
  | requestTimeout (buf : BitVec 16)
  /-- FLIT_RECEIVE (R326). The link layer classifies a received flit by its check word, accepts or discards it, or enters NAKSENT. -/
  | flitReceive (p : PortNo) (broken : Bool) (fchk : Word) (payload : LineData)
  /-- CODEWORD_DECODE (R318). Deskews and FEC-decodes a codeword, counting corrected symbols. -/
  | codewordDecode (p : PortNo) (sigs : List (BitVec 8 × BitVec 8)) (rxd : List (BitVec 512))
  /-- CONTROL_STATUS (R327). A STATUS link control flit returns RXNEXT and credits. -/
  | controlStatus (p : PortNo)
  /-- CONTROL_NAK (R330). A NAK frees acknowledged entries and starts a replay. -/
  | controlNak (p : PortNo)
  /-- CONTROL_REPLAY (R330). A REPLAY resets R and leaves NAKSENT. -/
  | controlReplay (p : PortNo)
  /-- CONTROL_INIT (R333). An INIT sets the credit base, the peer number and the resume point. -/
  | controlInit (p : PortNo)
  /-- ABORT (R336). An ABORT marker ends the message in progress on its lane. -/
  | abortMark (p : PortNo)
  /-- RETRY_TIMEOUT (R331). RXNEXT not advancing for IBF.RTMO cycles triggers a replay or retrain. -/
  | retryTimeout (p : PortNo)
  /-- TRANSMIT_SLOT (R43). A transmit-frame slot sends the owner's or lend-to lane's flit, or link control. -/
  | transmitSlot (p : PortNo)
  /-- MESSAGE_FORWARD (R338). The transport layer routes a message for another device to its primary or alternate port. -/
  | messageForward (p : PortNo) (lane : Fin 4)
  /-- LANE_LOCK (R321). Two valid alignment markers lock a receive lane. -/
  | laneLock (p : PortNo) (phys : Fin 8) (m1 m2 : BitVec 120)
  /-- LANE_LOSS_OF_LOCK (R321). Two marker positions without a valid marker unlock a lane. -/
  | laneLossOfLock (p : PortNo) (phys : Fin 8)
  /-- TRAINING_COMPLETE (R321). Both ends READY with agreed width make the port ACTIVE. -/
  | trainingComplete (p : PortNo)
  /-- PLAN_DECISION (R324). A narrower width settled in PLAN is applied by a plan or takes the port DOWN. -/
  | planDecision (p : PortNo)
  /-- TRAIN_TIMEOUT (R321). IBF.TRAINTMO expiring sets TRAINFAIL. -/
  | trainTimeout (p : PortNo)
  /-- LANE_FAILURE (R323). A failed lane in ACTIVE is retired and the port retrains. -/
  | laneFailure (p : PortNo) (lane : Fin 8)
  /-- LANE_THRESHOLD_WINDOW (R323). At the end of IBF.LANEWIN, corrected symbols above IBF.LANETHR are reported. -/
  | laneThresholdWindow (p : PortNo)
  /-- IBF_CTL_EN (R320). Writing EN turns a port OFF or starts training. -/
  | ibfCtlEn (p : PortNo) (en : Bool)
  /-- IBF_CTL_RETRAIN (R344). Sends an ACTIVE port to TRAIN. -/
  | ibfCtlRetrain (p : PortNo)
  /-- IBF_CTL_UP (R344). Sends a DOWN port to TRAIN. -/
  | ibfCtlUp (p : PortNo)
  /-- IBF_MGTXCTL_GO (R342). Originates the management message held in IBF.MGTX. -/
  | ibfMgtxctlGo (p : PortNo)
  /-- IBF_MGRXCTL_POP (R344). Removes the oldest queued received management message. -/
  | ibfMgrxctlPop (p : PortNo)
  /-- WREQ (R341). A remote write of up to 32 scratchpad bytes, answered by WRSP. -/
  | wreq (p : PortNo)
  /-- WRSP (R341). A write response queued in IBF.MGRX. -/
  | wrsp (p : PortNo)
  /-- RREQ (R341). A remote read of up to 32 scratchpad bytes, answered by RRSP. -/
  | rreq (p : PortNo)
  /-- RRSP (R341). A read response queued in IBF.MGRX. -/
  | rrsp (p : PortNo)
  /-- WEAVE (R341). Writes the carried image words to WVL.DATA. -/
  | weave (p : PortNo)
  /-- HEALTH (R341). A health message queued in IBF.MGRX. -/
  | health (p : PortNo)
  /-- LOADCTL (R341). From the direct peer, writes WVL.CTL to start a load. -/
  | loadctl (p : PortNo)
  /-- JOURNAL_FLIT_FORM (R354). Forms a RECORD, COPY or LOT flit from numbered entries and queues it. -/
  | journalFlitForm
  /-- HEARTBEAT_SEND (R354). Queues a HEARTBEAT each 1,000 FCLK cycles. -/
  | heartbeatSend
  /-- ACK_SEND (R354). Forms an ACK 8 FCLK cycles after a recorded flit crosses. -/
  | ackSend
  /-- RECORD (R355). A received RECORD is recorded when the apply queue has room. -/
  | record
  /-- COPY (R355). A received COPY is recorded for masked application. -/
  | copy
  /-- LOT (R356). A received LOT entry is recorded to set a shadowed instance's dye lot. -/
  | lot
  /-- ACK (R357). A received ACK advances TWN.ACKNEXT, frees entries and releases replies. -/
  | ack
  /-- HEARTBEAT (R364). A received HEARTBEAT updates sync state and the partner's role. -/
  | heartbeat
  /-- JOURNAL_APPLY (R356). The apply engine writes a recorded entry's bytes in sequence order. `map` is what the word of
  the resynchronisation map shows when it lies in the scratchpad. -/
  | journalApply (seq : BitVec 48) (map : Ecc)
  /-- HEARTBEAT_PERIOD_END (R358). At each 1 µs period end, MISS is cleared or increased, and the eighth miss promotes or fences. -/
  | heartbeatPeriodEnd
  /-- PROMOTION (R360). After applying recorded entries, shadowed instances become owned and the channels open. -/
  | promotion
  /-- TWN_CTL_START (R364). Starts capture and optionally the copy of the outgoing regions. -/
  | twnCtlStart (copy : Bool)
  /-- COPY_ENTRY_READ (R364). Reads an outgoing-region word and numbers it as a COPY entry. `ecc` is what it shows when it lies in the
  scratchpad. -/
  | copyEntryRead (ecc : Ecc)
  /-- TWN_CTL_SOLO (R361). Sets ROLE none, clears fencing and reopens the channels. -/
  | twnCtlSolo
  /-- TWN_CTL_ROLE_WRITE (R363). Writing ROLE moves the twin state to NONE or WAIT and clears ALIAS. -/
  | twnCtlRoleWrite (role : BitVec 2)
  /-- INS_CMD_RESET (R375). Queues an instance reset for a warp boundary. -/
  | insCmdReset (i : InstNo)
  /-- INSTANCE_RESET_APPLY (R378). At the boundary, raises the dye lot and abandons the instance's filling and queued work. -/
  | instanceResetApply (i : InstNo)
  /-- INS_CMD_SWEEP (R379). Requests the release of stale chains at the next boundary. -/
  | insCmdSweep (i : InstNo)
  /-- SWEEP_APPLY (R379). Releases owned and open chains with an old lot. -/
  | sweepApply (i : InstNo)
  /-- INS_CMD_SWITCH (R383). Requests a dirty-bitmap switch at the next boundary. -/
  | insCmdSwitch (i : InstNo)
  /-- BITMAP_SWITCH_APPLY (R383). Toggles SEL and clears SWITCH once earlier marks are written. -/
  | bitmapSwitchApply (i : InstNo)
  /-- DIRTY_MARK (R381). The log writer sets a frame's bitmap bit and appends a ring entry. `ecc` is what the bitmap's word
  shows when it lies in the scratchpad. -/
  | dirtyMark (ecc : Ecc)
  /-- STORE (R392). The mordant command writes the settings shadow to the next settings sector. -/
  | store
  /-- ERASE (R389). Erases one NVM sector. -/
  | erase
  /-- PROGRAM (R389). Programs NVM from the scratchpad. -/
  | program
  /-- READ (R389). Copies NVM bytes to the scratchpad. -/
  | read
  /-- TAGW (R394). Writes one tag entry into a new tag image. -/
  | tagw
  /-- LOCK (R396). Locks the NVM key area. -/
  | lock
  /-- NVM_COMMAND_COMPLETE (R389). An NVM command ends, clears BUSY, sets DONE and ERR and raises source 362. -/
  | nvmCommandComplete (verify : Bool)
  /-- NVC_SET_WRITE (R392). Writes a word of the settings shadow. -/
  | nvcSetWrite (w : Fin 1024) (v : Word)
  /-- TAG_REQUEST_POLL (R395). Every 65,536 FCLK cycles, performs the granted instances' tag slot requests. -/
  | tagRequestPoll
  /-- HEALTH_LOG_APPEND (R402). Writes a 32-byte record to the health log ring. -/
  | healthLogAppend (ok : Bool)
  /-- CORRECTED_ERROR (R399). A corrected error count reaches the health logic and may cross a threshold or retire an engine. -/
  | correctedError (unit : CeUnit)
  /-- UNCORRECTABLE_ERROR (R397). An uncorrectable or parity error takes the outcome of its structure. -/
  | uncorrectableError (what : UeWhat)
  /-- HEALTH_WINDOW_END (R399). Corrected-error counts restart at each HLT.CEWIN window. -/
  | healthWindowEnd
  /-- ENGINE_RETIREMENT (R400). An engine is retired, stopped, withdrawn from events and keyed for a plan. -/
  | engineRetirement (e : Eng)
  /-- HLT_RETIRE (R400). A manager write retires the named engine. -/
  | hltRetire (v : Word)
  /-- BANK_WORD_RETIREMENT (R401). A failing bank word moves to a spare word. -/
  | bankWordRetirement (word : BitVec 21) (cause : SpareCause)
  /-- HLT_CTL_CLEAR (R406). Returns the health state from FADING to FAST. -/
  | hltCtlClear
  /-- PMU_CNTLO_READ (R412). Reads counter bits [31:0] and captures the high bits for the reader. -/
  | pmuCntloRead (src : IoSrc) (c : Fin 640)
  /-- PMU_CNTLO_WRITE (R412). Sets a counter from the staging register and the written value. -/
  | pmuCntloWrite (src : IoSrc) (c : Fin 640) (v : Word)
  /-- PMU_CNTHI_WRITE (R412). Stages counter bits [47:32] for the writing master. -/
  | pmuCnthiWrite (src : IoSrc) (c : Fin 640) (v : Word)
  /-- BANDWIDTH_WINDOW_END (R411). Meters copy their counts to PMU.BW, update peaks and restart. -/
  | bandwidthWindowEnd
  /-- FREEZE (R414). Copies every counter to the swatch shadow, or counts a drop. -/
  | freeze
  /-- SWATCH_WRITE (R416). The dump writer writes a swatch and advances HEAD, or abandons it. -/
  | swatchWrite (err : Bool)
  /-- PORESET_N (R418). A power-on reset restarts the start-up order. -/
  | poresetN (straps : Straps)
  /-- WRESET_N (R419). A warm reset restarts the order and keeps the listed state. -/
  | wresetN (straps : Straps)
  /-- START_UP_NVM_READ (R420). Step 2 reads the settings, tags, key area and log position. -/
  | startUpNvmRead
  /-- BIST (R422). Marches every SRAM and retires failing units. -/
  | bist (fails : List BistFail)
  /-- CPX_BOOTCTL_CONT (R421). Ends TESTHOLD and continues with step 4. -/
  | cpxBootctlCont
  /-- ENGINE_RELEASE (R426). At A + 257, enabled engines start at BOOT in the boot state. -/
  | engineRelease
  /-- CPX_IDLE_REQ (R427). Requests or withdraws deep idle. -/
  | cpxIdleReq (req : Bool)
  /-- DEEP_IDLE_ENTRY (R427). Gates FCLK and ECLK 256 cycles after every idle condition holds. -/
  | deepIdleEntry
  /-- WAKE (R429). A wake request crosses to FCLK and the domains resume with the warp at slot 0. -/
  | wake
  /-- AON_WAKE_REQUEST (R240). In deep idle, a sampled event or comparator step requests wake and is retained. -/
  | aonWakeRequest (what : WakeWhat)
  /-- ENG_RUNCTL_STOP (R430). Stops an engine and raises source 361. -/
  | engRunctlStop (e : Eng)
  /-- ENG_RUNCTL_RESTART (R431). Restarts a stopped engine at ENG.RESTARTPC. -/
  | engRunctlRestart (e : Eng)
  /-- MEMORY_PORT_RESPONSE (R441). A memory-port response completes a transaction, with error, discard or late handling. -/
  | memoryPortResponse (p : PortNo) (id : BitVec 8) (write : Bool) (err : BitVec 2) (late : Bool) (data : LineData)
  /-- MEMORY_PORT_TIMEOUT (R441). No response within MPT.TMO completes the transaction as an error. -/
  | memoryPortTimeout (p : PortNo) (id : BitVec 8)
  /-- HOST_TARGET_REQUEST (R444). A host target request reaches the manager view or the scratchpad and is answered in order. -/
  | hostTargetRequest (write : Bool) (addr : BitVec 20) (mask : Word) (id : BitVec 4) (data : BitVec 256) (ecc : Ecc)
  /-- HOST_INITIATOR_RESPONSE (R445). A two-beat host initiator response completes a transaction. -/
  | hostInitiatorResponse (id : BitVec 8) (write : Bool) (err : BitVec 2) (late : Bool) (data : BitVec 256)
  /-- HOST_INITIATOR_TIMEOUT (R445). No response within HPT.TMO completes the transaction as an error. -/
  | hostInitiatorTimeout (id : BitVec 8)
  /-- HPT_DOORBELL (R446). Any write raises source 360. -/
  | hptDoorbell (v : Word)
  /-- TAP_DEBUG_ACCESS (R455). Update-DR of DBGDATA starts a manager-view I/O access; the operands are what DBGADDR and DBGDATA hold. -/
  | tapDebugAccess (addr : BitVec 24) (write : Bool) (data : Word)
  /-- CPX_TAPCTL_LOCK (R459). Locks the TAP until the next reset. -/
  | cpxTapctlLock
  /-- UNMAPPED_ACCESS (R465). An access to no register reads 0 and sets and captures UNMAPPED. -/
  | unmappedAccess (src : IoSrc) (addr : BitVec 24) (write : Bool)
  /-- REGISTER_WRITE (R464). A write to a register with no row of its own, with reserved encodings setting CFGERR. -/
  | registerWrite (src : IoSrc) (addr : BitVec 24) (v : Word)
  /-- CLOCK_STOP (R448). A clock that stops after start-up, other than by deep-idle gating, freezes its domain, fills crossings into it and holds every master that needs it. -/
  | clockStop (c : ClockName)
  /-- CLOCK_RESUME (R448). A stopped clock runs again and its held domain, its waiting crossings and any start-up step that waited for it proceed. -/
  | clockResume (c : ClockName)
  /-- POWER_LOSS (R432). Loss of supply cuts short any running NVM command or STORE, leaving the sector in an unknown state and the previous record in force. -/
  | powerLoss
  /-- CHANNEL_TRANSFER (R439). A request, write-data or target-response beat transfers at a rising edge where VALID and READY are both 1, freeing its queue place. -/
  | channelTransfer (ch : BusChan)
  /-- ALIGNMENT_MARKER (R321). A training alignment marker on a locked lane updates RXOK, the peer's fields, the width choice and READY. -/
  | alignmentMarker (p : PortNo) (phys : Fin 8) (m : BitVec 120) (at_ : Nat)
  /-- TEST_LOGIC_RESET (R454). TRST_N low or the TAP state machine entering Test-Logic-Reset selects IDCODE. -/
  | testLogicReset
  deriving DecidableEq, Repr

end Sys2Proof
end

