-- ==== Sys2Proof/Machine/State.lean ====
section
/-! DEFINITION. The state of the SB-64 block as plain data, and its value at reset. Every field's default value is its reset
value; a field the rules give no reset value for says so and names its log entry. -/

namespace Sys2Proof.Machine

/-- A sparse table: pairs (index, value), indices strictly rising, entries equal to the table's default left out. -/
abbrev Tab (α : Type) := List (Nat × α)
/-- A byte memory in the same canonical form. -/
abbrev Mem := List Host.Cell

/-- A cell of the stack cache: a value, or the cell a long operation reserved at issue (06 R144), by the operation's number. -/
inductive Cell where
  | val (w : Word)
  | rsv (id : Nat)
  /-- in run-ahead, a result that derives from the anchor's missing value (08 R188) -/
  | inv
  deriving DecidableEq, Repr

/-- The special registers that no bank holds, with what `SETC` wrote and what is in effect where 03 R77 parts the two. -/
structure Specials where
  dsbase : Word := 0
  dslim : Word := 0
  dslimEff : Word := 0
  rsbase : Word := 0
  rslim : Word := 0
  rslimEff : Word := 0
  b1base : Word := 0
  /-- `ENG.CTL`: bits OVE, DZE, STRICT, VEN, RAE (03 R78) -/
  ctl : BitVec 5 := 0x10#5
  ctlEff : BitVec 5 := 0x10#5
  gtb : Word := 0
  gtbEff : Word := 0
  /-- a `GTB` write waits for the next `SYNC` (03 R77, 09 R203) -/
  gtbPend : Bool := false
  /-- `LRVEC`; ENGINE_RELEASE gives it BOOT (09 R225, 19 R426) -/
  lrvec : Word := 0
  longpc : Word := 0
  lbeaddr : Word := 0
  fcause : Word := 0
  faddr : Word := 0
  crcsel : BitVec 3 := 0
  crcpoly : Word := 0
  vl : BitVec 7 := 0
  vstart : BitVec 6 := 0
  vtype : BitVec 2 := 0
  xlt1 : Word := 0
  xlt1Eff : Word := 0
  xlt2 : Word := 0
  xlt2Eff : Word := 0
  xctl : BitVec 3 := 0
  xctlEff : BitVec 3 := 0
  /-- a write of XLT1, XLT2 or XCTL waits to take effect and then invalidates the TLBs (11 R256) -/
  xltPend : Bool := false
  deriving DecidableEq, Repr

/-- The part of an engine that an undo restores (08 R182): the running context, both stacks, the special registers and the
speculative predictor values. -/
structure Regs where
  pc : Word := 0
  /-- the next syllable is the second of its word (04 R95) -/
  syll : Bool := false
  /-- that place is a position-1 resume point, an instruction boundary (04 R95) -/
  rpt : Bool := false
  /-- the mode of the word issued last, that of the present word after its first syllable (03 R70) -/
  wsb1 : Bool := false
  /-- the entry words of the gate store still to issue, from the word at the PC on: the SB1 mark of each (10 R237) -/
  ent : List Bool := []
  /-- the cached operand-stack cells, S0 first (03 R55) -/
  ds : List Cell := []
  /-- the cached return-stack entries, top first (03 R65) -/
  rs : List Word := []
  /-- L0-L15 (03 R62) -/
  l : Tab Word := []
  lnk : Word := 0
  priv : BitVec 2 := 2
  mask : BitVec 4 := 15
  /-- `STATUS.OVP`: the word's first syllable overflowed (03 R81) -/
  ovp : Bool := false
  dsp : Word := 0
  rsp : Word := 0
  bnk : BitVec 8 := 0
  bsrc : Word := 0
  bdst : Word := 0
  bcnt : Word := 0
  mlo : Word := 0
  mhi : Word := 0
  sp : Specials := {}
  /-- global history (08 R181) -/
  ghist : BitVec 12 := 0
  /-- predicted link and predicted return-stack top, none while invalid (08 R181) -/
  plink : Option Word := none
  prtop : Option Word := none
  /-- the lot stamp; none before the engine's release (16 R376) -/
  stamp : Option Half := none
  deriving DecidableEq, Repr

/-- A context at rest in a bank or a frame (09 R212, R218). -/
structure Ctx where
  l : Tab Word
  lnk : Word
  pc : Word
  syll : Bool
  priv : BitVec 2
  mask : BitVec 4
  ovp : Bool
  dsp : Word
  rsp : Word
  bnk : BitVec 8
  bsrc : Word
  bdst : Word
  bcnt : Word
  mlo : Word
  mhi : Word
  mv : Bool
  /-- 0-3: the state stack its predecessor lies on; 7: resident or absent -/
  prevsel : BitVec 3
  depthx : Word
  rdepthx : Word
  ccnt : Nat
  rcnt : Nat
  /-- the `STATUS` bits SB1, LR, GOVF, OTHER and SBUSY of its image (09 R218) -/
  hw : Word := 0
  /-- what its gate adds to the depth, pushes less pops; none for a context read from a frame (09 R212; log 22) -/
  net : Option Int := none
  stamp : Half
  deriving DecidableEq, Repr

/-- A handler's first two words as the gate-store load fetched them, with the SB1 marks of their pages (10 R237, 03 R70). -/
structure EntryWords where
  w0 : Word
  w1 : Word
  sb1a : Bool
  sb1b : Bool
  deriving DecidableEq, Repr

/-- A gate descriptor held valid (09 R201). -/
structure Gate where
  handler : Word
  priv : BitVec 2
  savemul : Bool
  sb1 : Bool
  masklvl : BitVec 4
  sssel : BitVec 2
  tpop : BitVec 4
  tpush : BitVec 4
  /-- none when absent -/
  words : Option EntryWords := none
  deriving DecidableEq, Repr

/-- A cache line: its address, bytes, and a dirty bit per byte (11 R259). -/
structure CLine where
  line : LineAddr
  data : LineData
  dirty : BitVec 64
  deriving DecidableEq, Repr

/-- A TLB entry (11 R255). `size` is 0 for 4 KiB, 1 for 64 KiB, 2 for 2 MiB; `r w x u` are what stage 1 grants, `s2r s2w
s2x` what stage 2 grants, all true for a stage not consulted. -/
structure TlbEntry where
  va : Word
  pa : PAddr
  size : BitVec 2
  r : Bool
  w : Bool
  x : Bool
  u : Bool
  sb1 : Bool
  /-- `INSTID` at the walk, bit 6 NONE -/
  inst : BitVec 7
  s2r : Bool
  s2w : Bool
  s2x : Bool
  /-- the page of the intermediate address, for `ENG.FIPA` (11 R258) -/
  ia : PAddr
  deriving DecidableEq, Repr

/-- A store-buffer entry (08 R192). -/
structure SbEntry where
  line : LineAddr
  data : LineData
  mask : BitVec 64
  /-- bytes still to be written: an entry to the window leaves word by word -/
  todo : BitVec 64 := mask
  /-- destination: the scratchpad window -/
  win : Bool
  spec : Bool
  link : Bool
  deriving DecidableEq, Repr

/-- A line-fill buffer (11 R259). -/
inductive FillSt where
  | waiting
  | landed (d : LineData)
  | failed
  deriving DecidableEq, Repr

structure Fill where
  line : LineAddr
  side : CacheSide
  prefetch : Bool
  st : FillSt
  deriving DecidableEq, Repr

/-- A write-back awaiting its response (11 R260); `dcm` when a `DCM` made it. -/
structure WriteBack where
  line : LineAddr
  dcm : Bool
  deriving DecidableEq, Repr

/-- A product in flight (06 R138). -/
structure Product where
  val : BitVec 64
  /-- a `MULV` product, which `ENG.CTL.STRICT` holds issue for (06 R145) -/
  mulv : Bool
  /-- a `MULV` product that overflowed with OVE at 1 (03 R80) -/
  ovf : Bool
  /-- its place in issue order among long operations (06 R145 item 5) -/
  id : Nat
  pc : Word
  spec : Bool
  deriving DecidableEq, Repr

/-- The divide in progress (06 R142): its cell's number, its result, the fault it will report. -/
structure Divide where
  id : Nat
  result : Word
  fault : Option (BitVec 5)
  pc : Word
  spec : Bool
  deriving DecidableEq, Repr

/-- A long operation's fault that waits for a boundary (06 R145). -/
structure LongFault where
  id : Nat
  num : BitVec 5
  pc : Word
  /-- made precise by STRICT, or by an `LFENCE` or `SYNC` that waits (items 3 and 4) -/
  precise : Bool
  deriving DecidableEq, Repr

/-- The vector arithmetic operations (07 R159-R164). -/
inductive VOp where
  | add | sub | min | minu | max | maxu | and_ | or_ | xor_ | shl | shr | sar
  | wmul | wmulu
  | dot8 | dot8u | dot16 | dot16u
  | rsum | rmin | rminu | rmax | rmaxu | rand | ror_
  | mv | bcast | ext
  | seq | sne | slt | sltu | sle | sleu
  deriving DecidableEq, Repr

/-- A queued vector arithmetic instruction (07 R156), with the counts it took in program order. -/
structure VqEntry where
  op : VOp
  m : Bool
  vb : Fin 32
  va : Fin 32
  vd : Fin 32
  vl : Nat
  vstart : Nat
  sew : BitVec 2
  /-- the cell popped (`VBCAST`, `VEXT`) -/
  arg : Word
  /-- the cell reserved (reductions, `VEXT`) -/
  id : Nat
  deriving DecidableEq, Repr

/-- A presentation as the engine holds it (10 R232, R236). -/
structure Held where
  src : BitVec 9
  prio : BitVec 4
  deriving DecidableEq, Repr

/-- What an engine sends to the Gatherer in one ordered queue (10 R232, R233). -/
inductive Report where
  | consumed (src : BitVec 9) (mask : BitVec 4)
  | released (src : BitVec 9)
  | mask (m : BitVec 4)
  deriving DecidableEq, Repr

/-- An `IN` whose data, or an `OUT` whose acknowledgement, is on the way (05 R109). -/
structure IoWait where
  isIn : Bool
  data : Word
  deriving DecidableEq, Repr

/-- A transfer found mispredicted but not yet undone: the engine's registers before the transfer, and after it on the correct
path (08 R182, R184, R185). -/
structure Checkpoint where
  before : Regs
  after : Regs
  /-- the outcome of a conditional branch, and whether the target buffer takes the target at commit (08 R181) -/
  cond : Option Bool
  tb : Bool
  /-- uncommitted instructions in the in-flight window, the transfer included (08 R174) -/
  count : Nat := 1
  /-- entries of the speculative-write log in use (08 R182) -/
  logged : Nat := 0
  /-- `VDIRTY` before the first write of it on the path -/
  vdirty : Option Word := none
  deriving DecidableEq, Repr

/-- What run-ahead may have made invalid besides cells (08 R188): a local, `LNK`, a special register, the return-stack entry at a
position from the bottom. -/
inductive RaItem where
  | loc (n : Nat)
  | lnk
  | spec (n : Nat)
  | ret (pos : Nat)
  deriving DecidableEq, Repr

/-- Run-ahead (08 R187-R189): the anchor's registers, the instructions issued since, the anchor included, what is invalid, and
whether run-ahead has ended and only its undo is left. -/
structure RunAhead where
  anchor : Regs
  count : Nat := 0
  /-- entries of the speculative-write log in use (08 R182) -/
  logged : Nat := 0
  bad : List RaItem := []
  ended : Bool := false
  /-- `VDIRTY` before the first write of it in run-ahead -/
  vdirty : Option Word := none
  deriving DecidableEq, Repr

/-- A fault, trap or event on its way to the last-resort entry (09 R221, R222). -/
structure LrReq where
  reason : BitVec 4
  gate : BitVec 10
  /-- `FCAUSE.NUM` of the original; 0 for a trap or event -/
  num : BitVec 5
  fcause : Word
  faddr : Word
  longpc : Word
  lbeaddr : Word
  source : BitVec 9
  resume : Word
  syll : Bool
  /-- DEPTHX of the running context -/
  dx : Nat
  deriving DecidableEq, Repr

/-- The frame in the spill buffer, its address and how many committed stores drain before it (09 R216). -/
structure SpillFrame where
  frame : Ctx
  pa : PAddr
  after : Nat
  /-- 8-byte words written so far, when the frame lies in the scratchpad window (08 R192) -/
  sent : Nat := 0
  deriving DecidableEq, Repr

/-- `ENG.RUNSTAT.STATE` (19 R435). -/
inductive RunState where
  | unreleased | running | sleeping | stopped
  deriving DecidableEq, Repr

/-- A target-buffer entry (08 R181). -/
structure TbEntry where
  tag : BitVec 23
  target : Word
  deriving DecidableEq, Repr

/-- An engine's memories beside its registers: caches, TLBs, predictors, buffers. -/
structure EngMem where
  /-- D-cache and I-cache frames, set * 4 + way; absent: invalid (11 R259) -/
  dc : Tab CLine := []
  /-- ways of each set, most recently used first; the order at reset is DESIGN CHOICE (log 8) -/
  dlru : Tab (List Nat) := []
  ic : Tab CLine := []
  ilru : Tab (List Nat) := []
  /-- the lines of the line buffer, newest first (08 R176) -/
  lbuf : List (LineAddr × LineData) := []
  fills : List Fill := []
  wbs : List WriteBack := []
  sb : List SbEntry := []
  itlb : List TlbEntry := []
  dtlb : List TlbEntry := []
  /-- second-level TLB, by set, most recently used first -/
  tlb2 : Tab (List TlbEntry) := []
  /-- direction predictor (08 R181) -/
  dirp : Tab (BitVec 2) := []
  tbuf : Tab (List TbEntry) := []
  deriving DecidableEq, Repr

/-- One Stolby engine. -/
structure Engine where
  r : Regs := {}
  st : RunState := .unreleased
  retired : Bool := false
  lrstop : Bool := false
  stoppc : Word := 0
  stopcause : Word := 0
  restartpc : Word := 0
  /-- the bank the running context owns: false A, true B (09 R212); A at reset: DESIGN CHOICE (log 8) -/
  bank : Bool := false
  /-- the context suspended in the other bank -/
  other : Option Ctx := none
  lr : Bool := false
  /-- the bank of the context that runs below the last-resort bank (09 R222, R224) -/
  lrCtx : Option Ctx := none
  lrPend : Option LrReq := none
  gates : Tab Gate := []
  govf : Bool := false
  spill : Option SpillFrame := none
  /-- the state stack a refill reads from (09 R219) -/
  refill : Option (BitVec 2) := none
  ssp : Tab PAddr := []
  sslim : Tab PAddr := []
  /-- pending MACHINE_CHECK details, oldest first -/
  mcheck : List (BitVec 8) := []
  wdog : Bool := false
  /-- a pending LATE_BUS_ERROR: its line and MULTI (09 R208) -/
  lbe : Option (LineAddr × Bool) := none
  /-- from a captured error until software writes `FCAUSE` (09 R208) -/
  lbeOpen : Bool := false
  /-- error responses on their way to the engine: line, and whether it was a frame (09 R208) -/
  berrs : List (LineAddr × Bool) := []
  longq : List LongFault := []
  prods : List Product := []
  div : Option Divide := none
  nextId : Nat := 0
  v : Tab (BitVec 512) := []
  vdirty : Word := 0
  vq : List VqEntry := []
  /-- image lines that a `VSAVE` in progress has put in the store buffer (07 R170; log 4) -/
  vprog : Nat := 0
  io : Option IoWait := none
  /-- an access that waits for a walk: kind, address, privilege (11 R253) -/
  walk : Option (AccKind × Word × BitVec 2) := none
  /-- the fault a walk for an access found: detail, and the intermediate address of a stage-2 fault (11 R258) -/
  wfault : Option (AccKind × Word × BitVec 8 × Option Word) := none
  /-- an `LFENCE` (false) or a `SYNC` (true) waits for long operations, which makes their faults precise (06 R145) -/
  fence : Option Bool := none
  /-- a `SYNC` has begun its gate-store load (09 R203, 10 R234) -/
  gload : Bool := false
  /-- lines of the gate table, by their first gate, whose read returned an error in this load (09 R203) -/
  gerr : List Nat := []
  wrong : Option Checkpoint := none
  /-- checkpoints in use (08 R182) -/
  cps : Nat := 0
  /-- the line that a load, a fill or a `PICK` missed and waits for (08 R187) -/
  anchor : Option LineAddr := none
  /-- a load, a fill or a `PICK` has issued and waits for its data (08 R198) -/
  waits : Bool := false
  ra : Option RunAhead := none
  held : Option Held := none
  repq : List Report := []
  xop : BitVec 2 := 0
  xinst : BitVec 6 := 0
  xgo : Bool := false
  /-- `GO` was set and the boundary it acts at has not come (11 R257) -/
  xwait : Bool := false
  /-- committed store-buffer entries that hold GO at 1 (11 R257) -/
  xleft : Nat := 0
  fipa : Word := 0
  /-- MACHINE_CHECKs with detail 1 or 2 so far (17 R399) -/
  mcCount : Nat := 0
  m : EngMem := {}
  deriving DecidableEq, Repr

/-- An event source (10 R228-R231, R245). Its Weave fields are those of the minimal Weave at reset (02 R38). -/
structure Source where
  sense : BitVec 3 := 0
  en : Bool := false
  prio : BitVec 4 := 0
  ccount : BitVec 8 := 0
  inst : BitVec 6 := 0
  ctime : Half := 0
  target : BitVec 64 := 0
  count : Half := 0
  acc : BitVec 8 := 0
  timer : Half := 0
  insvc : Bool := false
  ovf : Bool := false
  /-- the internal producer's carry count -/
  carry : Half := 0
  /-- the engine it was last offered to; E63 at reset so that E0 is first: DESIGN CHOICE (log 9) -/
  last : Nat := 63
  deriving DecidableEq, Repr

/-- The Gatherer's side of one engine (10 R231-R233, R245). -/
structure EvgEng where
  pres : Option (BitVec 9 × BitVec 4) := none
  /-- releases reserved for this engine whose report has not come, the present one included -/
  resv : List (BitVec 9) := []
  shadow : BitVec 4 := 15
  claims : Word := 0
  spur : Half := 0
  deriving DecidableEq, Repr

/-- The Event Gatherer. -/
structure Evg where
  src : Tab Source := []
  eng : Tab EvgEng := []
  cfgerr : Bool := false
  latched : Bool := true
  retained : Bool := false
  evout : Word := 0
  latRise : BitVec 256 := 0
  latFall : BitVec 256 := 0
  /-- the synchronised EV_IN levels; low at reset: DESIGN CHOICE (log 9) -/
  input : BitVec 256 := 0
  /-- the pending-stop bits of source 361 (10 R242) -/
  stops : BitVec 64 := 0
  /-- wires of the qualifying edges recorded in retention in deep idle, oldest first (10 R240) -/
  ret : List (BitVec 8) := []
  /-- wires with an edge in the AONCLK period that runs (10 R240) -/
  retNow : BitVec 256 := 0
  deriving DecidableEq, Repr

/-- An engine's interval timer and watchdog (10 R242, R246). -/
structure Timer where
  period : Word := 0
  count : Word := 0
  wdperiod : Word := 0
  wdcount : Word := 0
  /-- the watchdog is past its first expiry -/
  wdsecond : Bool := false
  texp : Bool := false
  wd1 : Bool := false
  wd2 : Bool := false
  deriving DecidableEq, Repr

structure Tmr where
  t : Tab Timer := []
  gtime : BitVec 64 := 0
  gtimehi : Word := 0
  cmp : Tab (BitVec 64) := []
  /-- comparators whose value the time has reached and that have not raised their source (10 R243) -/
  due : BitVec 4 := 0
  mbox : Tab Word := []
  deriving DecidableEq, Repr

/-- A fallback plan (02 R31). -/
structure Plan where
  retired : List (BitVec 8)
  widths : BitVec 8
  slots : List Word
  txmask : BitVec 4
  frames : List (List (BitVec 8))
  subst : List (BitVec 8)
  /-- its place in the image and its length (17 R401) -/
  off : Nat
  len : Nat
  deriving DecidableEq, Repr

/-- What the applied Weave fixes, and the Weave loader (02). -/
structure Wvl where
  enable : BitVec 64 := 0
  auxsel : BitVec 64 := 0
  vecen : BitVec 64 := 0
  boot : Tab Word := []
  spwin : PAddr := 0
  lrbase : BitVec 24 := 0
  poolbase : BitVec 24 := 0
  poolsize : BitVec 24 := 0
  /-- slot entries LEND:OWNER by table * 256 + slot: the base tables, the active and the staged ones -/
  warpBase : Tab Half := []
  warp : Tab Half := []
  warpStg : Tab Half := []
  /-- transmit-frame slots by port * 512 + slot; `txfUse` is what each port runs, renewed at its frame boundary (02 R44, R48) -/
  txfBase : Tab (BitVec 8) := []
  txf : Tab (BitVec 8) := []
  txfStg : Tab (BitVec 8) := []
  txfUse : Tab (BitVec 8) := []
  routes : Tab Half := []
  routesStg : Tab Half := []
  plans : List Plan := []
  /-- a full image is applied (false: the minimal Weave) -/
  full : Bool := false
  buildid : BitVec 128 := 0
  target : Word := 0
  len : BitVec 19 := 0
  digest : BitVec 256 := 0
  src : BitVec 2 := 0
  load : Bool := false
  state : BitVec 3 := 0
  srcused : BitVec 2 := 0
  unpinned : Bool := false
  retried : Bool := false
  cfgerr : Bool := false
  err : BitVec 4 := 0
  section_ : BitVec 4 := 0
  erraddr : BitVec 19 := 0
  timeout : Half := 0
  plan : BitVec 8 := 0xFF
  slot : BitVec 8 := 0
  frame : BitVec 24 := 0
  slotidx : BitVec 8 := 0
  tabidx : BitVec 8 := 0
  txidx : BitVec 9 := 0
  txport : BitVec 2 := 0
  rtidx : BitVec 12 := 0
  /-- image words received through `WVL.DATA`, newest first, and the time of the newest -/
  words : List Word := []
  wordAt : BitVec 64 := 0
  /-- the plan index that a retirement or narrowing is reading (17 R401), and the one read and awaiting a warp boundary -/
  planRead : Option Nat := none
  planReady : Option Nat := none
  /-- the widths of the key of that plan (02 R44) -/
  planKey : BitVec 8 := 0
  deriving DecidableEq, Repr

/-- Identity, commit, start-up and idle registers (21 R467, 02 R52, 19 R434, 20 R459). -/
structure Cpx where
  cfgerr : Bool := false
  unmapped : Bool := false
  unmulti : Bool := false
  unmaddr : Word := 0
  unmmst : BitVec 8 := 0xFF
  devid : BitVec 12 := 0
  fromset : Bool := false
  /-- queued commit groups; true: due at the boundary after the next (02 R48) -/
  commitq : List (BitVec 12 × Bool) := []
  cerr : Bool := false
  covf : Bool := false
  errgroup : BitVec 12 := 0
  step : BitVec 3 := 0
  testhold : Bool := false
  warm : Bool := false
  bistrun : Bool := false
  bistfail : Bool := false
  wbist : Bool := false
  bisteng : BitVec 64 := 0
  /-- step 3 was completed since the last power-on reset (19 R418) -/
  bistDone : Bool := false
  idleReq : Bool := false
  deepIdle : Bool := false
  /-- a wake was requested and has not been carried out (19 R428) -/
  wakeReq : Bool := false
  straps : Straps := ⟨0, 0, 0, 0, false, false⟩
  taplock : Bool := false
  nvlock : Bool := false
  /-- FCLK and ECLK domains run under an applied full Weave, engines wait for release (19 R426) -/
  releaseDue : Bool := false
  deriving DecidableEq, Repr

/-- A scratchpad region register (12 R274, R283). -/
structure Region where
  base : BitVec 24 := 0
  limit : BitVec 25 := 0
  r : Bool := false
  w : Bool := false
  v : Bool := false
  inst : BitVec 6 := 0
  deriving DecidableEq, Repr

/-- A violation log entry (12 R277, R283). -/
structure VEntry where
  off : BitVec 24 := 0
  mst : BitVec 8 := 0
  acc : BitVec 2 := 0
  region : BitVec 8 := 0
  inst : BitVec 6 := 0
  valid : Bool := false
  deriving DecidableEq, Repr

/-- A request of a master other than an engine whose first word has been served and that the check has granted (12 R471): the words left,
each with the instance it is attributed to (12 R274). -/
structure OpenReq where
  mst : BitVec 8
  write : Bool
  start : BitVec 24
  bytes : BitVec 64
  left : List (Nat × Option Nat)
  deriving DecidableEq, Repr

/-- The regions of the minimal Weave (02 R38): masters 66 and 72 reach the whole scratchpad through region 0. -/
def minRegions : Tab Region :=
  [(16 * 66, { limit := 0x1000000, r := true, w := true, v := true }),
   (16 * 72, { limit := 0x1000000, r := true, w := true, v := true })]

/-- The scratchpad and its registers (12). -/
structure Spc where
  mem : Mem := []
  /-- bad words, by word index -/
  bad : List Nat := []
  /-- words that hold a correctable error: a read has shown it and no write has renewed the word (12 R270; log 10) -/
  soft : List Nat := []
  reg : Tab Region := minRegions
  regStg : Tab Region := minRegions
  /-- what the engines check their accesses against: their copies follow `reg` (12 R275, R276) -/
  regCopy : Tab Region := minRegions
  cfgerr : Bool := false
  coll : Bool := false
  viol : Bool := false
  uncorr : Bool := false
  logovf : Bool := false
  collev : Bool := false
  violev : Bool := false
  scrub : Bool := true
  collcnt : Word := 0
  colladdr : BitVec 24 := 0
  mstA : BitVec 8 := 0xFF
  mstB : BitVec 8 := 0xFF
  cecnt : Word := 0
  ueaddr : BitVec 24 := 0
  vcnt : Word := 0
  vhead : BitVec 3 := 0
  vlog : Tab VEntry := []
  /-- next scrub row of each bank port, bank * 2 + port; starts are DESIGN CHOICE (log 10) -/
  scrubRow : Tab Nat := []
  /-- the word a scrub write is scheduled for, by bank port -/
  scrubFix : Tab Nat := []
  /-- words whose last scrub visit showed a correctable error (17 R401) -/
  scrubHit : List Nat := []
  /-- words whose last two scrub visits both showed one (17 R401) -/
  scrubTwo : List Nat := []
  /-- words that held an uncorrectable error and were then fully rewritten (17 R401) -/
  remade : List Nat := []
  /-- what the last SCRATCHPAD_ACCESS returned to each master served (log 11) -/
  served : List (BitVec 8 × Option (BitVec 64)) := []
  /-- bank and master of reads to come that parity in the bank path will spoil (17 R397) -/
  paths : List (Nat × Nat) := []
  /-- requests that are part performed (12 R471) -/
  reqs : List OpenReq := []
  /-- words that slots have served for accesses that still wait for their other words: master and word (02 R40; log 27) -/
  prog : List (Nat × Nat) := []
  deriving DecidableEq, Repr

/-- The states of a chain (13 R301). -/
inductive ChainSt where
  | filling | queued | opened | owned | sending
  deriving DecidableEq, Repr

/-- What the checks of 13 R290 and the ledger have decided for an arriving message: nothing yet; that the reply stored in a way of a bucket
is sent again, once it is read (13 R299); that the message is posted. -/
inductive Decision where
  | waiting
  | stored (bucket : Nat) (way : BitVec 2)
  | post
  deriving DecidableEq, Repr

/-- A chain, recorded against its first buffer (13 R301, 16 R376). -/
structure Chain where
  chan : ChanNo
  bufs : List Nat
  st : ChainSt
  hdr : BitVec 256
  lot : Half
  /-- the time of its posting (13 R308) -/
  posted : BitVec 64
  dec : Decision
  timedOut : Bool
  /-- an allocation or a write was refused while the ledger decided: the NACK code of 13 R291 -/
  refusal : Option (BitVec 8)
  /-- the on-chip ledger entry of its request, or of the request its reply answers -/
  led : Option Nat
  deriving DecidableEq, Repr

/-- A message of which the channel engine has taken some flits (13 R290, R291). -/
structure PartMsg where
  hdr : BitVec 256
  /-- flits to come, bytes of the message taken -/
  left : Nat
  pos : Nat
  /-- the dye lot of its instance when its first flit came -/
  lot : Half
  /-- the code of the check that it failed -/
  code : Option (BitVec 8)
  bufs : List Nat
  deriving DecidableEq, Repr

/-- The state of an on-chip entry (13 R297). -/
inductive LedgerSt where
  | pending | opened | done
  deriving DecidableEq, Repr

/-- A repeat recorded in a ledger entry (13 R299). -/
structure Repeat where
  dev : BitVec 12
  chan : BitVec 10
  seq : Word
  deriving DecidableEq, Repr

/-- An on-chip ledger entry (13 R297). -/
structure Ledger where
  /-- the model's own number for the entry -/
  id : Nat
  group : BitVec 6
  key : BitVec 64
  time : Word
  st : LedgerSt
  nostore : Bool
  /-- superseded by a newer entry of its key -/
  old : Bool
  /-- its reply is released and its tag write is not yet acknowledged (13 R306) -/
  held : Bool
  repeats : List Repeat
  /-- its bucket way in the memory-resident table -/
  way : BitVec 2
  /-- reply-store writes without a response yet; a write for it failed, so that it is kept on chip only (13 R300, R306) -/
  stores : Nat
  failed : Bool
  deriving DecidableEq, Repr

/-- A message that the channel engine passes to the transport layer (13 R305-R307): its lane, the port it took at its first flit,
the flits not yet passed, and whether the abort marker follows them. `buf` is the chain released after the last. -/
structure OutMsg where
  lane : Fin 4
  port : Option Nat
  flits : List LineData
  abort : Bool
  buf : Option Nat
  deriving DecidableEq, Repr

/-- A send that the channel engine accepted (13 R304): its chain; for a reply, its journal tag (15 R350) and the instance of its
request. -/
structure SendReq where
  buf : Nat
  reply : Bool
  tag : BitVec 48
  inst : Option Nat
  deriving DecidableEq, Repr

/-- The kinds of writes to the memory-resident ledger (13 R296): part of a reply-store entry, a tag that says done, another tag. -/
inductive LedgerWr where
  | store | done | tag
  deriving DecidableEq, Repr

/-- A write to the memory-resident ledger that waits for its memory port or the journal (13 R296): entry, address, bytes. -/
structure CheWrite where
  id : Nat
  chan : ChanNo
  kind : LedgerWr
  pa : PAddr
  bs : List (Option Byte)
  deriving DecidableEq, Repr

/-- The channel engine, the ledger filter and the buffer pool (12 R279-R284, 13). -/
structure Che where
  quota : Tab Word := []
  quotaStg : Tab Word := []
  /-- the channel that holds each buffer; absent: free -/
  owner : Tab ChanNo := []
  peak : Tab Half := []
  badrel : Bool := false
  poolref : Word := 0
  stat : BitVec 6 := 0
  statev : Bool := false
  errcode : BitVec 4 := 0
  errbuf : Half := 0
  ldgbase : PAddr := 0
  log2b : BitVec 5 := 0
  ten : Bool := false
  dupcnt : Word := 0
  nackcnt : Word := 0
  disccnt : Word := 0
  stalecnt : Word := 0
  latecnt : Word := 0
  grp : Tab Word := []
  chcfg : Tab (BitVec 11) := []
  chains : Tab Chain := []
  /-- queued descriptors by first buffer, in posting order -/
  descq : List Nat := []
  /-- on-chip entries, most recently touched first -/
  ledger : List Ledger := []
  sendq : List SendReq := []
  out : List OutMsg := []
  /-- messages for the own device, as flits, awaiting MESSAGE_ARRIVAL (13 R294) -/
  loop : List (List LineData) := []
  /-- the first of them, part received -/
  loopPart : Option PartMsg := none
  /-- chains that wait for the ledger, in order of arrival -/
  probeq : List Nat := []
  wq : List CheWrite := []
  ledNext : Nat := 0
  deriving DecidableEq, Repr

/-- A flit of a lane: payload, or the mark of an ABORT (14 R328). -/
inductive LaneFlit where
  | flit (d : LineData)
  | abort
  deriving DecidableEq, Repr

/-- `IBF.STAT.STATE` (14 R320). -/
inductive PortSt where
  | off | train | plan | active | down
  deriving DecidableEq, Repr

/-- A retry-buffer entry (14 R329): class 0-3 data of that lane, 4 a marker. -/
structure RetryEnt where
  seq : BitVec 12
  cls : BitVec 3
  data : LineData
  deriving DecidableEq, Repr

/-- A flit on its way to the wire (14 R314, R325): its check word, its payload, and whether its slot is slot 0 of a frame. -/
structure TxFlit where
  fchk : Word
  data : LineData
  slot0 : Bool
  deriving DecidableEq, Repr

/-- A flit that the PCS hands to the link layer (14 R314, R318): bad when its framing is broken or a byte of it lay in an uncorrectable
codeword. -/
structure RxFlit where
  bad : Bool
  fchk : Word
  data : LineData
  deriving DecidableEq, Repr

/-- A string of `n` bits, the first one lowest in `v`. -/
structure Bits where
  n : Nat := 0
  v : Nat := 0
  deriving DecidableEq, Repr

/-- The transmitting PCS of a port (14 R312-R317). -/
structure PcsTx where
  /-- flits held, oldest first: up to 4 -/
  fifo : List TxFlit := []
  /-- number of the next transmit frame -/
  frame : BitVec 24 := 0
  scr : BitVec 58 := 0
  /-- bits of blocks that wait for their codeword -/
  acc : Bits := {}
  /-- codewords since the one in which ACTIVE began; AMCNT of the next AM codeword -/
  cw : Nat := 0
  am : BitVec 8 := 0
  /-- TRAIN = 0 has been sent: codewords are striped at the chosen width (14 R321 step 6) -/
  live : Bool := false
  /-- by lane, bits of codewords not yet sent, and the word `TXD` of the present cycle -/
  out : Tab Bits := []
  txd : Tab (BitVec 64) := []
  deriving DecidableEq, Repr

/-- The receiving PCS of a port (14 R312-R318). -/
structure PcsRx where
  /-- `RXD` of the lanes, lane 0 lowest, `RXVALID` and `RXSIG` in the last cycle taken -/
  rxd : BitVec 512 := 0
  valid : BitVec 8 := 0
  sig : BitVec 8 := 0
  /-- cycles taken; by physical lane, consecutive cycles with `RXSIG` low (14 R323), words received, the cycles of the last of them, newest
  first, and the stream's last bits -/
  cyc : Nat := 0
  low : Tab Nat := []
  words : Tab Nat := []
  seen : Tab (List Nat) := []
  inb : Tab Bits := []
  /-- in ACTIVE, by lane, where the next codeword begins in its stream: the deskew by AMCNT (14 R318) -/
  start : Tab Nat := []
  /-- codewords since the one in which ACTIVE began -/
  cw : Nat := 0
  /-- bits of a block that goes on in the next codeword, and whether they came from an uncorrectable one -/
  acc : Bits := {}
  accBad : Bool := false
  scr : BitVec 58 := 0
  /-- a FRAME block has been taken and framing holds; flits since that block, 513 for more than 512 -/
  framed : Bool := false
  slot : Nat := 0
  /-- bytes of the flit being received, and whether it is bad already -/
  part : List Byte := []
  partBad : Bool := false
  /-- whole flits, oldest first, for FLIT_RECEIVE -/
  flits : List RxFlit := []
  deriving DecidableEq, Repr

/-- What a receive lane's markers said (14 R316, R321). -/
structure LaneRx where
  lane : Fin 8
  /-- that of the last marker position -/
  amcnt : BitVec 8
  /-- where the next marker begins in the lane's stream (14 R316) -/
  next : Nat
  /-- when the marker with AMCNT 0 came, in bit times modulo a round of 256 training codewords -/
  zero : Nat
  /-- consecutive marker positions with no valid marker -/
  miss : Nat
  /-- RXOK, WIDTH, BASE, TRAIN, READY, DEVICE of the last marker, and whether the one before agreed -/
  fields : BitVec 28
  agree : Bool
  deriving DecidableEq, Repr

/-- Where a message that a port receives goes (14 R337, R338). -/
inductive RxDest where
  | own
  | drop
  | port (m : Nat)
  deriving DecidableEq, Repr

/-- One Ibfel port (14). -/
structure Ibf where
  en : Bool := true
  retrain : Bool := false
  maxw : BitVec 2 := 0
  st : PortSt := .off
  width : BitVec 2 := 0
  lanes : BitVec 8 := 0
  retired : BitVec 8 := 0
  err : BitVec 13 := 0
  even : BitVec 13 := 0
  peer : BitVec 12 := 0
  peerv : Bool := false
  traintmo : Half := 1000
  rtmo : BitVec 20 := 4096
  retrymax : BitVec 8 := 8
  lanethr : Word := 0
  lanewin : Half := 0
  txnext : BitVec 12 := 0
  /-- E and R of 14 R326 -/
  e : BitVec 12 := 0
  rseq : BitVec 12 := 0
  naksent : Bool := false
  retry : List RetryEnt := []
  /-- sequence of the next entry a replay resends, and a REPLAY waiting for a link control slot (14 R330) -/
  resend : Option (BitVec 12) := none
  replay : Option (BitVec 12) := none
  /-- the START and the time of the last REPLAY sent, the time of the last advance, and replays since (14 R330, R331) -/
  replayFor : Option (BitVec 12) := none
  replayAt : BitVec 64 := 0
  advAt : BitVec 64 := 0
  tries : Nat := 0
  lanecnt : Tab Word := []
  /-- corrected symbols of each lane in the present window (14 R323) -/
  lanewn : Tab Word := []
  uncorr : Word := 0
  badrun : Nat := 0
  badflit : Word := 0
  replays : Word := 0
  dupflit : Word := 0
  hopdrop : Word := 0
  unreach : Word := 0
  lost : Word := 0
  aborts : Word := 0
  /-- per lane: INITCRED and CRED received, flits sent since INIT, flits freed here since INIT -/
  initcred : Tab (BitVec 12) := []
  cred : Tab (BitVec 12) := []
  sent : Tab (BitVec 12) := []
  freed : Tab (BitVec 12) := []
  initSeen : Bool := false
  initSent : Bool := false
  first : Bool := true
  mgtx : Tab Word := []
  mggo : Bool := false
  mgrx : List LineData := []
  /-- management messages that this port originated for this device itself (14 R337) -/
  mgLoop : List LineData := []
  /-- receive buffers by lane, oldest first -/
  rx : Tab (List LaneFlit) := []
  /-- flits that the message the link layer receives on a lane still has (14 R336) -/
  rxLeft : Tab Nat := []
  /-- by lane, the message whose first flit has left the receive buffer: where it goes, flits that it still has -/
  rxMsg : Tab (RxDest × Nat) := []
  /-- by lane, the message for the channel engine that is part received -/
  rxPart : Tab PartMsg := []
  /-- a received marker, and a received link control flit, awaiting its command (14 R327, R328) -/
  mark : Option LineData := none
  ctl : Option LineData := none
  /-- transmit queues by lane, oldest first, 32 flits each -/
  tx : Tab (List LaneFlit) := []
  /-- by lane, the master whose message holds the queue (14 R338) -/
  txHold : Tab Nat := []
  /-- by lane, flits that the message being sent still has after the last one sent (14 R333) -/
  txLeft : Tab Nat := []
  /-- by lane, flits of an abandoned message that are not sent (14 R333) -/
  txSkip : Tab Nat := []
  frameSlot : BitVec 9 := 0
  /-- by lane, the masters whose messages wait for the queue, in the order of their first flits (14 R338) -/
  txWait : Tab (List Nat) := []
  ptx : PcsTx := {}
  prx : PcsRx := {}
  /-- transmit lanes on which a condition of 14 R323 holds -/
  bad : BitVec 8 := 0
  /-- AMCNT of the first marker with TRAIN = 0 (14 R321 step 6) -/
  endAm : Option (BitVec 8) := none
  phys : Tab LaneRx := []
  /-- the peer's fields as last taken (14 R321 step 3) -/
  taken : Option (BitVec 28) := none
  /-- the choice WIDTH, BASE, for how many AM codewords it has held, READY sent (14 R321) -/
  choice : BitVec 5 := 0
  held : Nat := 0
  ready : Bool := false
  /-- the width for which a plan has been applied since TRAIN was entered (14 R324) -/
  planFor : Option (BitVec 2) := none
  /-- AMCNT of the newest AM codeword -/
  amcnt : BitVec 8 := 0
  /-- when TRAIN was entered; none once `IBF.TRAINTMO` has expired -/
  trainAt : Option (BitVec 64) := none
  /-- BIST found its retry buffer bad: held in OFF until power-on (19 R422) -/
  dead : Bool := false
  deriving DecidableEq, Repr

/-- `TWN.STAT.STATE` (15 R363). -/
inductive TwinSt where
  | none_ | wait | sync | paired | promoting | fenced
  deriving DecidableEq, Repr

/-- A journal entry (15 R349, R353). -/
inductive JKind where
  | record | copy | lot
  deriving DecidableEq, Repr

structure JEntry where
  kind : JKind
  seq : BitVec 48
  addr : BitVec 56
  mask : BitVec 8
  data : BitVec 64
  deriving DecidableEq, Repr

/-- An applied entry whose writes are not all answered (15 R356): answers to come, and whether it counts as not applied. -/
structure ApplyOut where
  seq : BitVec 48
  left : Nat
  bad : Bool
  deriving DecidableEq, Repr

/-- A mirror region (15 R348). -/
structure MirrorReg where
  base : PAddr := 0
  limit : PAddr := 0
  en : Bool := false
  dir : Bool := false
  deriving DecidableEq, Repr

/-- The twin engine (15). -/
structure Twn where
  role : BitVec 2 := 0
  port : Fin 4 := 3
  copy : Bool := false
  /-- `TWN.CTL.START` reads 1 while a START with COPY runs (15 R367, 00 R5) -/
  start : Bool := false
  st : TwinSt := .none_
  txsync : Bool := false
  rxsync : Bool := false
  /-- destinations that name the partner are this device's (15 R360) -/
  alias_ : Bool := false
  miss : BitVec 4 := 0
  err : BitVec 10 := 0
  even : BitVec 10 := 0
  own : BitVec 64 := 0
  peer : BitVec 12 := 0
  peerv : Bool := false
  txseq : BitVec 48 := 1
  acknext : BitVec 48 := 1
  rxnext : BitVec 48 := 1
  /-- entries numbered and not acknowledged; the first `unsent` of the tail have not been formed into flits -/
  jbuf : List JEntry := []
  unsent : Nat := 0
  applyq : List JEntry := []
  applyOut : List ApplyOut := []
  rsmap : PAddr := 0
  fence : BitVec 64 := 0
  applyerrcnt : Word := 0
  seqgapcnt : Word := 0
  holdcnt : Word := 0
  mr : Tab MirrorReg := []
  capture : Bool := false
  begin_ : Bool := false
  /-- last ACK sent; none since SYNC was entered or BEGIN received -/
  lastAck : Option (BitVec 48) := none
  ackDue : Bool := false
  peerErr : Word := 0
  /-- instances the partner's last HEARTBEAT owned, its role, and whether it came in this or the last period -/
  hbOwn : BitVec 64 := 0
  hbRole : BitVec 2 := 0
  hbAge : BitVec 2 := 3
  /-- BEGIN was received, and no gap since (15 R364) -/
  gapFree : Bool := false
  /-- a journal flit was accepted on the twin port in this period (15 R358) -/
  accepted : Bool := false
  /-- COPY in progress: the next address; the last COPY sequence numbered -/
  copyAt : Option Nat := none
  copyLast : Option (BitVec 48) := none
  /-- the resynchronisation map is in use (15 R365) -/
  mapUse : Bool := false
  /-- instances owned when the eighth miss came, fenced after a promotion (15 R359) -/
  fenceNext : Option (BitVec 64) := none
  deriving DecidableEq, Repr

/-- One instance's registers (16 R385). -/
structure Inst where
  eng : BitVec 64 := 0
  engStg : BitVec 64 := 0
  first : BitVec 10 := 0
  firstStg : BitVec 10 := 0
  chans : BitVec 11 := 0
  chansStg : BitVec 11 := 0
  share : Half := 0
  shareStg : Half := 0
  en : Bool := false
  lot : Half := 0
  peak : Half := 0
  reset : Bool := false
  sweep : Bool := false
  switch_ : Bool := false
  /-- RESET, SWEEP, SWITCH wait for the boundary after the next (16 R375, 02 R48) -/
  late : BitVec 3 := 0
  dmap : PAddr := 0
  sel : Bool := false
  dovf : Bool := false
  trk : BitVec 23 := 0
  trklen : Half := 0
  ring : PAddr := 0
  rlog : BitVec 5 := 0
  head : BitVec 20 := 0
  rovf : Bool := false
  tail : BitVec 20 := 0
  dropcnt : Word := 0
  stalesnd : Word := 0
  /-- marks taken before the switch that are not yet written (16 R383); none: no switch applied -/
  drain : Option Nat := none
  deriving DecidableEq, Repr

/-- A dirty mark on its way to the bitmap (16 R381): instance, the frame's place in the range that it was taken under, the frame
(physical address div 4,096), bitmap. -/
structure Mark where
  inst : InstNo
  n : Nat
  frame : Nat
  sel : Bool
  deriving DecidableEq, Repr

structure Ins where
  cfgerr : Bool := false
  i : Tab Inst := []
  /-- instance and frame, marked last first -/
  filter : List (InstNo × Nat) := []
  marks : List Mark := []
  deriving DecidableEq, Repr

/-- The NVM commands (17 R389). -/
inductive NvmOp where
  | store | erase | program | read | tagw | lock
  deriving DecidableEq, Repr

/-- A running NVM command with the operands it took; `slot` when an instance's tag slot asked for it (17 R395). -/
structure NvmCmd where
  op : NvmOp
  addr : Nat
  len : Nat
  spoff : Nat
  tagsel : Nat
  slot : Option InstNo
  /-- the settings image a STORE copied (17 R392 step 1) -/
  image : Tab Word
  /-- the error a check found before the command ran, 0 none -/
  err : BitVec 4
  deriving DecidableEq, Repr

/-- The NVM and its controller (17). -/
structure Nvc where
  nvm : Mem := []
  /-- uncorrectable 64-bit words, by byte offset div 8 -/
  bad : List Nat := []
  busy : Bool := false
  done : Bool := false
  cfgerr : Bool := false
  err : BitVec 4 := 0
  setvalid : Bool := false
  setcur : Bool := false
  tagvalid : Bool := false
  tagcur : Bool := false
  keylock : Bool := false
  addr : BitVec 20 := 0
  len : BitVec 13 := 0
  spoff : BitVec 24 := 0
  setseq : Word := 0
  tagsel : BitVec 7 := 0
  taggrant : BitVec 64 := 0
  treqbase : BitVec 24 := 0
  treqen : Bool := false
  shadow : Tab Word := []
  cmd : Option NvmCmd := none
  /-- next sector of each copy's rotation, 0-7 (17 R392); 0 at reset: DESIGN CHOICE (log 12) -/
  rot0 : Nat := 0
  rot1 : Nat := 0
  deriving DecidableEq, Repr

/-- A health-log record waiting to be written (17 R402). -/
structure LogRec where
  time : BitVec 64
  code : BitVec 8
  unit : BitVec 8
  state : BitVec 2
  detail : BitVec 64
  deriving DecidableEq, Repr

/-- The health logic (17 R398-R406). -/
structure Hlt where
  state : BitVec 2 := 3
  noplans : Bool := false
  cfgerr : Bool := false
  planlim : Bool := false
  logovf : Bool := false
  logerr : Bool := false
  nospare : Bool := false
  hosten : Bool := false
  twinen : Bool := true
  logev : Bool := false
  cethr : Half := 64
  cewin : Half := 1000
  retthr : Half := 1024
  retired : BitVec 64 := 0
  lognum : Word := 0
  hostaddr : PAddr := 0
  cecnt : Tab Half := []
  bank : Tab Half := []
  spares : Tab (BitVec 5) := []
  logq : List LogRec := []
  /-- a bank word has been retired since power-on or warm reset -/
  wordRetired : Bool := false
  /-- health messages to the host that wait for the host-port initiator (20 R445), and to the twin port's peer that wait for its
  transmit queue (17 R403) -/
  hostMsgs : List (BitVec 256) := []
  twinMsgs : List LineData := []
  deriving DecidableEq, Repr

/-- A master's capture and staging registers (18 R412). -/
structure PmuMst where
  cap : Half := 0
  capOf : Option Nat := none
  stage : Half := 0
  deriving DecidableEq, Repr

/-- The swatch shadow (18 R414): what FREEZE copied. -/
structure Swatch where
  cnt : Tab (BitVec 48)
  ovf : BitVec 640
  num : Word
  drops : Half
  time : BitVec 64
  k : BitVec 5
  /-- the next of its 81 lines, line writes awaiting a response, and whether a refusal or an error has met it -/
  line : Nat
  wait : Nat
  bad : Bool
  deriving DecidableEq, Repr

/-- The performance monitor (18). -/
structure Pmu where
  cnt : Tab (BitVec 48) := []
  ovf : BitVec 640 := 0
  cfgerr : Bool := false
  dumperr : Bool := false
  drop : Bool := false
  ctl : BitVec 4 := 0
  k : BitVec 5 := 0
  ring : PAddr := 0
  rlog : BitVec 4 := 0
  head : BitVec 12 := 0
  tail : BitVec 12 := 0
  swnum : Word := 0
  drops : Word := 0
  sinceDrops : Half := 0
  win : BitVec 12 := 0
  /-- a WIN written that takes effect at the next boundary of its own length -/
  winNext : Option (BitVec 12) := none
  meter : Tab Word := []
  bw : Tab Word := []
  bwpeak : Tab Word := []
  thr : Tab Half := []
  mst : Tab PmuMst := []
  /-- none when no swatch is being written -/
  shadow : Option Swatch := none
  deriving DecidableEq, Repr

/-- What reads 64-byte lines from memory besides the caches: an engine's walk (11 R252), the ledger's decision on the request in a buffer
(13 R297), the apply engine's map (15 R356), the copy (15 R364), the log writer (16 R381). -/
inductive ReadFor where
  | walk (e : Eng)
  | ledger (buf : Nat)
  | map
  | copy
  | marks
  deriving DecidableEq, Repr

/-- The k-th read that such work has made, kept until the work is done: no answer yet, an error, or the line. One `drop`ped belongs to work
that was abandoned: its answer is discarded (11 R253). -/
structure PortRead where
  who : ReadFor
  k : Nat
  ans : Option (Option LineData) := none
  drop : Bool := false
  deriving DecidableEq, Repr

/-- For whom a memory-port transaction runs. -/
inductive MpOwner where
  | read (who : ReadFor) (k : Nat)
  | fill (e : Eng) (side : CacheSide)
  /-- a fill that run-ahead asks for (08 R190) -/
  | prefetch (e : Eng)
  | writeBack (e : Eng)
  | ledger (id : Nat) (kind : LedgerWr)
  /-- a write for the journal entry of a SEQ (15 R356) -/
  | twin (seq : BitVec 48)
  | dump
  /-- a write of the log writer for an instance (16 R382) -/
  | marks (i : InstNo)
  | other
  deriving DecidableEq, Repr

/-- A memory-port transaction (20 R438). -/
structure MpReq where
  id : BitVec 8
  write : Bool
  line : LineAddr
  mst : BitVec 7
  data : LineData
  mask : BitVec 64
  owner : MpOwner
  /-- completed as a timeout; its ID stays outstanding (20 R441) -/
  timedOut : Bool
  deriving DecidableEq, Repr

/-- A response that has transferred from a memory port, or a beat of one from the host (20 R438, R445). -/
structure PortRsp where
  id : BitVec 8
  write : Bool
  err : BitVec 2
  late : Bool
  data : LineData
  deriving DecidableEq, Repr

/-- One memory port, or the host-port initiator (20 R438-R445, R457, R458). -/
structure Mpt where
  cfgerr : Bool := false
  err : Bool := false
  tmo : Bool := false
  late : Bool := false
  proto : Bool := false
  en : Bool := true
  ev : Bool := false
  winbase : BitVec 20 := 0
  winlimit : BitVec 21 := 0
  rdbound : Half := 0
  tmoLim : BitVec 20 := 0x10000
  erraddr : LineAddr := 0
  errcode : BitVec 2 := 0
  errcnt : Word := 0
  tmocnt : Word := 0
  latecnt : Word := 0
  /-- requests and write-data beats not yet transferred; a host-port write has two beats (20 R445) -/
  reqq : List MpReq := []
  wdq : List MpReq := []
  /-- transactions outstanding -/
  out : List MpReq := []
  /-- responses whose crossing waits for FCLK (20 R448) -/
  rspq : List PortRsp := []
  deriving DecidableEq, Repr

/-- An answer to a host target request waiting for its transfer (20 R444). -/
structure HostRsp where
  id : BitVec 4
  data : BitVec 256
  err : BitVec 2
  deriving DecidableEq, Repr

/-- Work for the I/O register bus and the scratchpad that has arrived from outside (20 R444, R455): a host target request, with what the
ECC of the word it reads first shows, or the debug access that the TAP holds. -/
inductive BusReq where
  | host (write : Bool) (addr : BitVec 20) (mask : Word) (id : BitVec 4) (data : BitVec 256) (ecc : Ecc)
  | tap
  deriving DecidableEq, Repr

/-- The host port (20 R444-R446, R458). -/
structure Hpt where
  ini : Mpt := {}
  terr : Bool := false
  ten : Bool := true
  terrcnt : Word := 0
  rsp : List HostRsp := []
  /-- requests not served yet, in the order of their arrival -/
  reqs : List BusReq := []
  /-- the first beat of a read response (20 R445) -/
  beat : Option (BitVec 8 × BitVec 256 × BitVec 2) := none
  deriving DecidableEq, Repr

/-- The test access port (20 R454-R456). -/
structure Tap where
  /-- instruction register; IDCODE after Test-Logic-Reset -/
  ir : BitVec 4 := 1
  /-- DBGADDR -/
  addr : BitVec 24 := 0
  write : Bool := false
  /-- DBGDATA: the last read data, and the write data shifted in -/
  data : Word := 0
  din : Word := 0
  busy : Bool := false
  done : Bool := false
  err : Bool := false
  deriving DecidableEq, Repr

/-- A slot of the cycle that has served a request (02 R40): its table, the master, whether the slot is the master's own, and the word of a
bank port. -/
structure SlotUse where
  tbl : Nat
  mst : Nat
  own : Bool
  word : Option Nat
  deriving DecidableEq, Repr

/-- A write that a bank has performed in the cycle (12 R272): its word, master, port, bytes, and what the word held before the cycle, with
its correctable and uncorrectable errors. -/
structure Wrote where
  word : Nat
  mst : Nat
  portB : Bool
  mask : BitVec 8
  data : BitVec 64
  old : BitVec 64
  soft : Bool
  bad : Bool
  deriving DecidableEq, Repr

/-- What has happened in the FCLK cycle that runs, where a rule asks what falls in one cycle; `tick` clears it (log 27). -/
structure Cyc where
  /-- W1C bits that hardware has set: the register's address and the bit (00 R6) -/
  fresh : List (Nat × Nat) := []
  /-- while a command runs: what the ECC of the first word of each of its scratchpad reads to come shows (12 R270) -/
  ecc : List Ecc := []
  /-- writes performed in the banks, newest first (12 R271, R272) -/
  wrote : List Wrote := []
  /-- scrub writes made: the bank port and the word (12 R271) -/
  scrubs : List (Nat × Nat) := []
  /-- the lowest-numbered bank with a counted collision (12 R273) -/
  collBank : Option Nat := none
  /-- a write has been held by the journal and has counted (15 R351) -/
  heldNow : Bool := false
  /-- buffers released, and the channels that held them (12 R281) -/
  rel : Tab ChanNo := []
  /-- entries of the violation ring made (12 R277) -/
  viols : Nat := 0
  /-- counters' values before the cycle, of those that it has changed; those that software has written, with the highest master that did and
  the value that counting alone would give (18 R412, R413) -/
  pmuOld : Tab (BitVec 48) := []
  pmuSet : Tab (Nat × BitVec 48) := []
  /-- a freeze falls in the cycle (18 R414) -/
  frozen : Bool := false
  /-- software writes of registers that hardware counts in, by address and master (21 R466) -/
  sets : List (BitVec 24 × Nat × Word) := []
  /-- sources whose batch has become a release; the new CCOUNT and CTIME of sources, which come at the end of the cycle (10 R229) -/
  batches : List Nat := []
  ccounts : Tab (BitVec 8) := []
  ctimes : Tab Half := []
  /-- ports that have started a replay (14 R334) -/
  replay : BitVec 4 := 0
  /-- an engine has been retired: the new key is formed at the end of the cycle (17 R400) -/
  key : Bool := false
  /-- a health threshold has been crossed; a `HLT.CTL.CLEAR` in FADING waits for the end of the cycle (17 R399) -/
  crossed : Bool := false
  clear : Bool := false
  /-- `EVG.EVOUT` after the cycle's writes of it, and the bits set and cleared (10 R244) -/
  evBase : Option Word := none
  evSet : Word := 0
  evClr : Word := 0
  /-- a master's access waits for a slot, and its command with it (02 R40) -/
  stalled : Bool := false
  /-- masters of the journal entries numbered in the cycle, in their order; 74 for the instance manager (15 R350) -/
  jrn : List Nat := []
  /-- replies accepted in the cycle: BUF and its chain, REQ and its chain, as they stood before (13 R310) -/
  sends : List (Nat × Chain × Nat × Chain) := []
  /-- a heartbeat period has ended; the first `TWN.ACKNEXT` that an ACK of the cycle has replaced (15 R362) -/
  period : Bool := false
  ackOld : Option (BitVec 48) := none
  /-- requests whose time is up: their timeouts come at the end of the cycle (13 R310) -/
  tmos : List Nat := []
  /-- the slots of the cycle that have served, newest first (02 R40) -/
  used : List SlotUse := []
  /-- in an instruction of many parts, after the last part done: `Spc.prog` and the number of slots used; none between commands -/
  base : Option (List (Nat × Nat) × Nat) := none
  deriving DecidableEq, Repr

/-- The whole block. -/
structure State where
  /-- waiting commands, first in first out -/
  pending : List Instr := []
  eng : Tab Engine := []
  evg : Evg := {}
  tmr : Tmr := {}
  wvl : Wvl := {}
  cpx : Cpx := {}
  spc : Spc := {}
  che : Che := {}
  ibf : Tab Ibf := []
  twn : Twn := {}
  ins : Ins := {}
  nvc : Nvc := {}
  hlt : Hlt := {}
  pmu : Pmu := {}
  mpt : Tab Mpt := []
  hpt : Hpt := {}
  /-- lines read for work that is not done yet -/
  reads : List PortRead := []
  tap : Tap := {}
  /-- clocks that have stopped, other than by deep idle (20 R448) -/
  stopped : List ClockName := []
  cyc : Cyc := {}
  /-- supply present (19 R432) -/
  power : Bool := true
  /-- the value the last read of a row returned to its reader (log 11) -/
  lastRead : Word := 0
  /-- how many free values have been taken (log 5); the model's own -/
  freeCtr : Nat := 0
  deriving DecidableEq, Repr

/-- The block right after reset: every field at its reset value. -/
def State.reset : State := {}

/-- Where an instruction stands: a long word, or a syllable's place (04 R84). -/
inductive Place where
  | long
  /-- with bits [15:0] of its word -/
  | first (rest : BitVec 16)
  | second
  deriving DecidableEq, Repr

/-- A fault an instruction or a boundary reports (09 R206): what `FCAUSE` and `FADDR` take, and `LONGPC` with the imprecise
mark for a long operation's. `acc` is 0 for a fault that is no page's and no region's, for which 09 R225 assigns no code (DESIGN CHOICE,
log 23). -/
structure FaultInfo where
  num : BitVec 5
  detail : BitVec 8 := 0
  sf : Bool := false
  acc : BitVec 2 := 0
  imp : Bool := false
  faddr : Option Word := none
  longpc : Option Word := none
  lbeaddr : Option Word := none
  /-- bits [43:12] of the intermediate address of a stage-2 fault (11 R258) -/
  fipa : Option Word := none
  deriving DecidableEq, Repr

/-- What a part of an instruction comes to: an answer with the state so far, a hold at issue (08 R179), or a fault. -/
inductive Ans (α : Type) where
  | ok (s : State) (a : α)
  | hold (s : State)
  | fault (s : State) (f : FaultInfo)
  /-- in run-ahead, an input or the value loaded is invalid: the state with the pops made and the results invalid (08 R188) -/
  | inv (s : State)
  deriving DecidableEq, Repr

/-- Which instances' regions an access matches (12 R274): every one, or those of the instance presented, if any. -/
inductive Pres where
  | every
  | only (i : Option Nat)
  deriving DecidableEq, Repr

/-- What becomes of a request at a memory port's queue (20 R440, R441, R443). -/
inductive MpAns where
  | sent (s : State)
  | full
  | refused (s : State)
  deriving DecidableEq, Repr

/-- The ways the machine stops. The manual leaves no device behaviour undefined (00 R3), so nothing raises it but a command
whose operands spell no happening of the table (see WellFormed.lean): safe. -/
inductive Fault where
  /-- an operand outside what the row's rules name (raised by no rule of the manual; safe) -/
  | badOperand
  deriving DecidableEq, Repr

/-- Refusals. -/
inductive Refusal where
  /-- a command whose meaning is not written yet (raised by Dispatch only; safe) -/
  | notModelled (mnemonic : String)
  deriving DecidableEq, Repr

end Sys2Proof.Machine
end

