-- ==== Sys2Proof/Machine/Ops.lean ====
section
/-! DEFINITION. Named operations over tables, memory and the block's shared parts: counters, event sources, regions, the
scratchpad's words, journal capture, and requests to the memory ports. -/

namespace Sys2Proof.Machine

open Sys2Proof

/-! ### Bits and bytes -/

/-- Bit k as a word. -/
def bitW (b : Bool) : Word := if b then 1 else 0

/-- A field of `len` bits from bit `lo`. -/
def fld {w : Nat} (x : BitVec w) (lo len : Nat) : BitVec len := x.extractLsb' lo len

/-- Bytes, lowest address first, as a number (03 R74). -/
def leNat : List Byte → Nat
  | [] => 0
  | b :: r => b.toNat + 256 * leNat r

/-- The n low bytes of a number, lowest first. -/
def toBytes : Nat → Nat → List Byte
  | 0, _ => []
  | n + 1, x => BitVec.ofNat 8 x :: toBytes n (x / 256)

/-- Words of little-endian bytes, lowest address first. -/
def wordsOfBytes : List Byte → List Word
  | a :: b :: c :: d :: r => BitVec.ofNat 32 (leNat [a, b, c, d]) :: wordsOfBytes r
  | _ => []

def bytesOfWords (ws : List Word) : List Byte := (ws.map fun w => toBytes 4 w.toNat).flatten

/-- x, or the greatest value of its width when it has passed it (00 R8). -/
def sat {w : Nat} (n : Nat) : BitVec w := BitVec.ofNat w (if n < 2 ^ w then n else 2 ^ w - 1)

/-- A counter plus n, saturating. -/
def satAdd {w : Nat} (x : BitVec w) (n : Nat) : BitVec w := sat (x.toNat + n)

/-- A bit of a 64-bit or wider set replaced. -/
def setBit {w : Nat} (x : BitVec w) (k : Nat) (b : Bool) : BitVec w :=
  if b then x ||| BitVec.ofNat w (2 ^ k) else x &&& ~~~ BitVec.ofNat w (2 ^ k)

/-! ### Sparse tables and memory -/

/-- What a table holds at an index; `d` where nothing is listed. -/
def tget {α : Type} (d : α) : Tab α → Nat → α
  | [], _ => d
  | (k, v) :: r, n => if k = n then v else tget d r n

/-- What a table lists at an index. -/
def tfind {α : Type} : Tab α → Nat → Option α
  | [], _ => none
  | (k, v) :: r, n => if k = n then some v else tfind r n

/-- A table without an index. -/
def tdel {α : Type} : Tab α → Nat → Tab α
  | [], _ => []
  | (k, v) :: r, n => if k = n then tdel r n else (k, v) :: tdel r n

/-- An entry put in its place. -/
def tins {α : Type} : Tab α → Nat → α → Tab α
  | [], n, v => [(n, v)]
  | (k, w) :: r, n, v => if n < k then (n, v) :: (k, w) :: r else (k, w) :: tins r n v

/-- A table with one index set; an entry equal to the default is not listed. -/
def tset {α : Type} [DecidableEq α] (d : α) (t : Tab α) (n : Nat) (v : α) : Tab α :=
  if v = d then tdel t n else tins (tdel t n) n v

/-- A table with an entry listed whatever it holds. -/
def tput {α : Type} (t : Tab α) (n : Nat) (v : α) : Tab α := tins (tdel t n) n v

/-- What a byte of the scratchpad that nothing has written reads as: BIST leaves 0 (19 R422); before BIST a DESIGN CHOICE
(log 6). -/
def spadDefault : Byte := 0

/-- What an NVM byte that nothing has written reads as: erased (17 R387), DESIGN CHOICE (log 6). -/
def nvmDefault : Byte := 0xFF#8

/-- The canonical form of a memory: addresses strictly rising, no entry equal to what an unlisted address reads as. -/
def Memory.wf (d : Byte) : Mem → Bool
  | [] => true
  | [(_, v)] => v != d
  | (a, v) :: (b, w) :: r => decide (a < b) && v != d && Memory.wf d ((b, w) :: r)

/-- n bytes of a memory from an address. -/
def mread (d : Byte) (m : Mem) (a : Nat) : Nat → List Byte
  | 0 => []
  | n + 1 => tget d m a :: mread d m (a + 1) n

/-- Bytes written from an address; none leaves its byte as it was. -/
def mwrite (d : Byte) (m : Mem) (a : Nat) : List (Option Byte) → Mem
  | [] => m
  | none :: r => mwrite d m (a + 1) r
  | some b :: r => mwrite d (tset d m a b) (a + 1) r

/-- The bytes of a masked value, none where the mask bit is 0. -/
def maskBytes {w n : Nat} (data : BitVec w) (mask : BitVec n) : List (Option Byte) :=
  (List.range n).map fun k => if mask.getLsbD k then some (fld data (8 * k) 8) else none

/-! ### Lines -/

/-- The byte mask of 64 bits as a mask of 512. -/
def wideMask (mask : BitVec 64) : LineData :=
  BitVec.ofNat 512 (leNat ((List.range 64).map fun k => if mask.getLsbD k then (0xFF#8 : Byte) else 0))

/-- A line with the masked bytes replaced. -/
def mergeLine (old new : LineData) (mask : BitVec 64) : LineData :=
  (old &&& ~~~ wideMask mask) ||| (new &&& wideMask mask)

/-- n bytes of a line from offset o. -/
def lineBytes (d : LineData) (o n : Nat) : List Byte := toBytes n (d.toNat / 2 ^ (8 * o))

/-- Bytes placed in a line at offset o. -/
def toLine (o : Nat) (bs : List Byte) : LineData := BitVec.ofNat 512 (leNat bs * 2 ^ (8 * o))

/-- The mask that names n bytes from offset o. -/
def lineMask (o n : Nat) : BitVec 64 := BitVec.ofNat 64 ((2 ^ n - 1) * 2 ^ o)

/-- The line of a physical address. -/
def lineOf (pa : PAddr) : LineAddr := fld pa 6 38

/-- The first byte of a line. -/
def linePA (l : LineAddr) : PAddr := l ++ (0 : BitVec 6)

/-! ### Parts of the state -/

def engGet (s : State) (e : Eng) : Engine := tget {} s.eng e.val
def engPut (s : State) (e : Eng) (g : Engine) : State := { s with eng := tset {} s.eng e.val g }
/-- An engine's registers replaced. -/
def regPut (s : State) (e : Eng) (r : Regs) : State := engPut s e { engGet s e with r := r }
def regGet (s : State) (e : Eng) : Regs := (engGet s e).r

def srcGet (s : State) (n : Nat) : Source := tget {} s.evg.src n
def srcPut (s : State) (n : Nat) (x : Source) : State := { s with evg := { s.evg with src := tset {} s.evg.src n x } }
def evgEng (s : State) (e : Nat) : EvgEng := tget {} s.evg.eng e
def evgEngPut (s : State) (e : Nat) (x : EvgEng) : State := { s with evg := { s.evg with eng := tset {} s.evg.eng e x } }
def tmrGet (s : State) (e : Nat) : Timer := tget {} s.tmr.t e
def tmrPut (s : State) (e : Nat) (x : Timer) : State := { s with tmr := { s.tmr with t := tset {} s.tmr.t e x } }
def ibfGet (s : State) (p : Nat) : Ibf := tget {} s.ibf p
def ibfPut (s : State) (p : Nat) (x : Ibf) : State := { s with ibf := tset {} s.ibf p x }
def insGet (s : State) (i : Nat) : Inst := tget {} s.ins.i i
def insPut (s : State) (i : Nat) (x : Inst) : State := { s with ins := { s.ins with i := tset {} s.ins.i i x } }

/-- A memory port at reset: port n holds n × 4 TiB up to (n + 1) × 4 TiB (20 R457). -/
def mptReset (n : Nat) : Mpt :=
  { winbase := BitVec.ofNat 20 (n * 0x40000), winlimit := BitVec.ofNat 21 ((n + 1) * 0x40000) }

/-- Memory port n, or for n = 4 the host-port initiator. -/
def mptGet (s : State) (n : Nat) : Mpt := if n = 4 then s.hpt.ini else tget (mptReset n) s.mpt n
def mptPut (s : State) (n : Nat) (x : Mpt) : State :=
  if n = 4 then { s with hpt := { s.hpt with ini := x } } else { s with mpt := tset (mptReset n) s.mpt n x }

/-! ### Frames (09 R218) -/

/-- A context's `STATUS` image (09 R225). -/
def ctxStatus (c : Ctx) : Word :=
  c.priv.setWidth 32 ||| (bitW c.syll <<< 3) ||| (c.mask.setWidth 32 <<< 4) ||| (bitW c.ovp <<< 12) ||| c.hw

/-- A frame's 32 words (09 R218). -/
def frameWords (c : Ctx) : List Word :=
  ((List.range 16).map fun k => tget 0 c.l k) ++
  [c.lnk, c.pc, ctxStatus c, c.dsp, c.rsp, c.bnk.setWidth 32, c.bsrc, c.bdst, c.bcnt, c.mlo, c.mhi, c.depthx,
   bitW c.mv ||| (c.prevsel.setWidth 32 <<< 1), c.rdepthx, BitVec.ofNat 32 (c.ccnt + c.rcnt * 0x10000), c.stamp.setWidth 32]

def frameBytes (c : Ctx) : List Byte := bytesOfWords (frameWords c)

/-! ### Answers -/

def Ans.bind {α β : Type} (x : Ans α) (f : State → α → Ans β) : Ans β :=
  match x with
  | .ok s a => f s a
  | .hold s => .hold s
  | .fault s i => .fault s i
  | .inv s => .inv s

/-- The fault an answer reports, changed. -/
def Ans.mapFault {α : Type} (x : Ans α) (g : FaultInfo → FaultInfo) : Ans α :=
  match x with
  | .fault s i => .fault s (g i)
  | .ok s a => .ok s a
  | .hold s => .hold s
  | .inv s => .inv s

/-- What else an invalid answer does in run-ahead (08 R188). -/
def Ans.onInv {α : Type} (x : Ans α) (g : State → State) : Ans α :=
  match x with
  | .inv s => .inv (g s)
  | .ok s a => .ok s a
  | .hold s => .hold s
  | .fault s i => .fault s i

/-- A part after a condition: a failure is a fault that changes nothing. -/
def Ans.check {α : Type} (s : State) (b : Bool) (i : FaultInfo) (k : Ans α) : Ans α := if b then k else .fault s i

/-! ### Clocks -/

/-- The ECLK domain runs: supply present, no deep idle, not stopped (19 R427, 20 R448). -/
def eclkOn (s : State) : Bool := s.power && !s.cpx.deepIdle && !s.stopped.contains .eclk
/-- The FCLK domain runs. -/
def fclkOn (s : State) : Bool := s.power && !s.cpx.deepIdle && !s.stopped.contains .fclk
/-- A clock that deep idle does not gate runs. -/
def clkOn (s : State) (c : ClockName) : Bool := s.power && !s.stopped.contains c

/-! ### Free values (log 5) -/

/-- A number of n bytes that the manual does not state, and the state that has taken it. -/
def takeFree (s : State) (n : Nat) : State × Nat :=
  ({ s with freeCtr := s.freeCtr + n }, leNat ((List.range n).map fun k => Config.freeByte (s.freeCtr + k)))

/-! ### The warp tables (02 R26, R38, R40) -/

/-- LEND:OWNER of slot k mod 256 of table k div 256 in the minimal Weave. -/
def warpMin (k : Nat) : Half :=
  let t := k / 256
  let s := k % 256
  let entry := fun (owner lend : Nat) => BitVec.ofNat 16 (owner + 256 * lend)
  if t < 128 then (if t % 2 = 0 then entry 66 72 else entry 72 66)
  else if t < 133 then entry 66 72
  else if t < 137 then entry (67 + s % 4) 0xFF
  else if s % 2 = 0 then entry 66 72 else entry (67 + s / 2 % 4) 72

/-- A slot entry of a warp table. -/
def slotAt (w : Tab Half) (t s : Nat) : Half := tget (warpMin (256 * t + s)) w (256 * t + s)
/-- A slot entry written. -/
def slotSet (w : Tab Half) (t s : Nat) (x : Half) : Tab Half := tset (warpMin (256 * t + s)) w (256 * t + s) x
def slotOwner (x : Half) : Nat := (fld x 0 8).toNat
def slotLend (x : Half) : Nat := (fld x 8 8).toNat

/-- The output table of a memory port, or of the host initiator (02 R26). -/
def portTable (n : Nat) : Nat := 128 + n

/-! ### W1C bits (00 R6) -/

/-- Hardware has set bit k of the register at an address in this cycle. -/
def fresh (s : State) (a k : Nat) : State :=
  if s.cyc.fresh.contains (a, k) then s else { s with cyc := { s.cyc with fresh := (a, k) :: s.cyc.fresh } }

/-- The bits of a register that hardware has set in this cycle: a write does not clear them (00 R6). -/
def freshBits (s : State) (a : Nat) : Word :=
  (s.cyc.fresh.filter (·.1 == a)).foldl (fun w p => w ||| BitVec.ofNat 32 (2 ^ p.2)) 0

/-- A written word as the register's W1C bits take it. -/
def w1cWord (s : State) (a : Nat) (v : Word) : Word := v &&& ~~~freshBits s a

/-- The status register of a memory port or of the host initiator. -/
def portStat (n : Nat) : Nat := if n = 4 then 0x58000 else 0x50000 + 0x1000 * n

/-- `EVG.PEND` of source n, `TMR.STAT` of engine n, and word k of instance i's registers. -/
def pendAddr (n : Nat) : Nat := 0x6800 + 4 * (n - 1)
def tmrStat (n : Nat) : Nat := 0x8010 + 32 * n
def insAddr (i k : Nat) : Nat := 0x41000 + 64 * i + 4 * k

/-- `CPX.STAT.CFGERR`, which the blocks without an error bit of their own set too (21 R464). -/
def cpxErr (s : State) : State := fresh { s with cpx := { s.cpx with cfgerr := true } } 0x04 0

/-! ### Event sources (10 R228, R242) -/

/-- An internal producer's happening: one more in its carry count, or OVF when that is full (10 R228). -/
def raiseSrc (s : State) (n : Nat) : State :=
  let x := srcGet s n
  if x.carry = 0xFFFF#16 then fresh (srcPut s n { x with ovf := true }) (pendAddr n) 26
  else srcPut s n { x with carry := x.carry + 1 }

def raiseIf (b : Bool) (s : State) (n : Nat) : State := if b then raiseSrc s n else s

/-- Source 361: the engine's pending-stop bit (10 R242). -/
def raiseStop (s : State) (e : Eng) : State :=
  { s with evg := { s.evg with stops := setBit s.evg.stops e.val true } }

/-! ### Performance counters (18 R407) -/

/-- The value that counter c had before the cycle (18 R412). -/
def cntOld (s : State) (c : Nat) : BitVec 48 := (tfind s.cyc.pmuOld c).getD (tget 0 s.pmu.cnt c)

/-- A counter that the cycle changes keeps its old value aside. -/
def cntKeep (s : State) (c : Nat) : State :=
  if (tfind s.cyc.pmuOld c).isSome then s else { s with cyc := { s.cyc with pmuOld := tput s.cyc.pmuOld c (tget 0 s.pmu.cnt c) } }

/-- What n happenings make of counter c: after a write of the cycle, of the value that counting alone would give (18 R413). -/
def cntNext (s : State) (c n : Nat) : Nat := (((tfind s.cyc.pmuSet c).map (·.2)).getD (tget 0 s.pmu.cnt c)).toNat + n

/-- Counter c takes n happenings, modulo 2^48; after a write of the cycle they are lost (18 R413). -/
def cntAdd (s0 : State) (c n : Nat) : State :=
  let s := cntKeep s0 c
  let v := BitVec.ofNat 48 (cntNext s c n)
  match tfind s.cyc.pmuSet c with
  | some (m, _) => { s with cyc := { s.cyc with pmuSet := tput (tdel s.cyc.pmuSet c) c (m, v) } }
  | none => { s with pmu := { s.pmu with cnt := tset 0 s.pmu.cnt c v } }

/-- A counter has wrapped: its overflow bit, and source 369 when that is enabled. -/
def cntWrap (s : State) (c : Nat) : State :=
  raiseIf (s.pmu.ctl.getLsbD 0)
    (fresh { s with pmu := { s.pmu with ovf := setBit s.pmu.ovf c true } } (0x60200 + 4 * (c / 32)) (c % 32)) 369

/-- n happenings of counter c: a wrap sets the overflow bit and may raise source 369. -/
def pmuAdd (s : State) (c n : Nat) : State := if cntNext s c n < 2 ^ 48 then cntAdd s c n else cntWrap (cntAdd s c n) c

/-- Counter 8n + k of engine n (18 R408): that of a stopped or retired engine adds nothing. -/
def engCount (s : State) (e : Eng) (k : Nat) : State :=
  if (engGet s e).st = .stopped ∨ (engGet s e).retired then s else pmuAdd s (8 * e.val + k) 1

/-- A bandwidth meter adds bytes while windows run (18 R411). -/
def meterAdd (s : State) (m n : Nat) : State :=
  if s.pmu.win = 0 then s
  else { s with pmu := { s.pmu with meter := tset 0 s.pmu.meter m (tget 0 s.pmu.meter m + BitVec.ofNat 32 n) } }

/-! ### Service in the present slot (02 R40) -/

/-- Masters whose own accesses take owned slots only: engines (08 R192, 09 R200, R222, 11 R252, R259) and the log writer (16 R382). -/
def ownedOnly (m : Nat) : Bool := decide (m < 64) || m == 73

/-- The present slot of table t is free and serves master m: as its owner (true), or its lend-to master, which `lend` allows. Of an owner
and a lend-to master whose requests come as commands of one cycle the first in the queue is served (log 27). -/
def slotFor (s : State) (t m : Nat) (lend : Bool) : Option Bool :=
  let x := slotAt s.wvl.warp t s.wvl.slot.toNat
  if s.cyc.used.any (·.tbl == t) then none
  else if slotOwner x = m then some true
  else if lend && slotLend x == m then some false
  else none

/-- A slot serves; a master from 64 on is counted (18 R409). -/
def slotTake (s : State) (u : SlotUse) : State :=
  let s1 := { s with cyc := { s.cyc with used := u :: s.cyc.used } }
  if 64 ≤ u.mst then pmuAdd s1 ((if u.own then 546 else 556) + (u.mst - 64)) 1 else s1

/-- An output or the I/O register bus accepts a request of master m. -/
def outServe (s : State) (t m : Nat) (lend : Bool) : Option State :=
  (slotFor s t m lend).map fun own => slotTake s ⟨t, m, own, none⟩

/-- The bank of word w serves master m at port A, else at port B, one access in a slot (12 R269), unless a slot has served this word of its
access already. -/
def wordServe (s : State) (m w : Nat) : Option State :=
  if s.spc.prog.contains (m, w) then some { s with spc := { s.spc with prog := s.spc.prog.erase (m, w) } }
  else
    if s.cyc.used.any fun u => u.mst == m && decide (u.tbl < 128) && u.tbl / 2 == w % 64 then none else
    let port := fun t => (slotFor s t m (!ownedOnly m)).map fun own => slotTake s ⟨t, m, own, some w⟩
    (port (2 * (w % 64))).or (port (2 * (w % 64) + 1))

/-- An access without its slots: the command waits. -/
def stall (s : State) : State := { s with cyc := { s.cyc with stalled := true } }

/-- The words of an access, each in a slot of its bank; the flag says that all are served. -/
def wordsServe (s : State) (m : Nat) (ws : List Nat) : State × Bool :=
  ws.foldl (fun p w => match wordServe p.1 m w with | some t => (t, p.2) | none => (stall p.1, false)) (s, true)

/-- The words that n bytes from offset o touch. -/
def wordsOf (o n : Nat) : List Nat := (List.range ((o + n + 7) / 8 - o / 8)).map (· + o / 8)

/-- The slots taken between two states of a cycle, oldest first. -/
def slotsSince (s t : State) : List SlotUse := (t.cyc.used.take (t.cyc.used.length - s.cyc.used.length)).reverse

/-- An access that waits keeps the words that slots have served, those of the parts that are done left out (log 27): `u` is the state it
leaves. -/
def slotsKept (s t u : State) : State :=
  let (prog, n) := t.cyc.base.getD (s.spc.prog, s.cyc.used.length)
  let new := (t.cyc.used.take (t.cyc.used.length - n)).reverse
  { u with cyc := { u.cyc with stalled := s.cyc.stalled, base := none }
           spc := { u.spc with prog := prog ++ new.filterMap fun x => x.word.map fun w => (x.mst, w) } }

/-- A part of an instruction is done, with the words it took: what holds it later keeps only those taken since. -/
def slotsMark (s : State) : State :=
  if s.cyc.used.isEmpty && s.spc.prog.isEmpty then s else { s with cyc := { s.cyc with base := some (s.spc.prog, s.cyc.used.length) } }

/-- The instruction is done. -/
def slotsClear (s : State) : State := if s.cyc.base.isNone then s else { s with cyc := { s.cyc with base := none } }

/-- The state before a command that comes to nothing, `t` being what it had come to: only the words that slots have served stay. -/
def slotsBack (s t : State) : State := slotsKept s t (((slotsSince s t).filter (·.word.isSome)).foldl slotTake s)

/-- What a command comes to: while an access of it waits for a slot nothing else has happened (02 R40). -/
def served (s t : State) : State := if t.cyc.stalled && !s.cyc.stalled then slotsBack s t else t

/-- The outcome of a command at s whose effect is t. -/
def happens (s t : State) : Host.Outcome State Fault Refusal := .next (served s t)

/-- A command that happens while a condition holds, and else leaves the state as it is. -/
def when (b : Bool) (s t : State) : Host.Outcome State Fault Refusal := .next (if b then served s t else s)

/-! ### The health log's queue (17 R402) -/

/-- A record queued, 16 deep; one that finds no place is dropped and sets LOGOVF. `none` for a field the manual gives no
content. -/
def logPut (s : State) (code : BitVec 8) (unit : Option Nat) (detail : Option Nat) : State :=
  if s.hlt.logq.length < 16 then
    let (s1, u) := match unit with | some u => (s, u) | none => takeFree s 1
    let (s2, d) := match detail with | some d => (s1, d) | none => takeFree s1 8
    { s2 with hlt := { s2.hlt with logq := s2.hlt.logq ++
        [⟨s2.tmr.gtime, code, BitVec.ofNat 8 u, s2.hlt.state, BitVec.ofNat 64 d⟩] } }
  else fresh { s with hlt := { s.hlt with logovf := true } } 0x70000 6

/-- MACHINE_CHECK becomes pending on an engine (09 R206), is logged, and counts toward a retirement (17 R399). -/
def mcheckPut (s : State) (e : Eng) (detail : BitVec 8) : State :=
  let g := engGet s e
  logPut (engPut s e { g with mcheck := g.mcheck ++ [detail],
                              mcCount := if detail = 1 ∨ detail = 2 then g.mcCount + 1 else g.mcCount })
    8 (some e.val) (some (15 + 0x10000 * detail.toNat))

/-! ### Instances (16 R368, R369) -/

/-- The instance an engine belongs to. -/
def instOf (s : State) (e : Eng) : Option Nat :=
  (s.ins.i.find? fun p => p.2.en && p.2.eng.getLsbD e.val).map (·.1)

/-- The instance a channel belongs to. -/
def instOfChan (s : State) (c : Nat) : Option Nat :=
  (s.ins.i.find? fun p => p.2.en && decide (p.2.first.toNat ≤ c ∧ c < p.2.first.toNat + p.2.chans.toNat)).map (·.1)

/-- An engine exists (02 R25). -/
def engExists (s : State) (e : Nat) : Bool := s.wvl.enable.getLsbD e

/-! ### Regions (12 R274-R277) -/

/-- Region register r of master m: an engine's accesses see its own copy (12 R275, R276). -/
def regionGet (s : State) (m r : Nat) : Region := tget {} (if m < 64 then s.spc.regCopy else s.spc.reg) (16 * m + r)

/-- The instance condition of 12 R274. -/
def Pres.meets (p : Pres) (inst : BitVec 6) : Bool :=
  match p with
  | .every => true
  | .only i => i == some inst.toNat

/-- A region's range holds an offset. -/
def Region.holds (g : Region) (o : Nat) : Bool := g.v && decide (g.base.toNat ≤ o ∧ o < g.limit.toNat)

/-- The matching regions of a master that grant a byte, lowest first. -/
def granting (s : State) (m : Nat) (p : Pres) (write : Bool) (o : Nat) : List Nat :=
  (List.range 16).filter fun r =>
    let g := regionGet s m r
    g.holds o && p.meets g.inst && (if write then g.w else g.r)

/-- The first byte, among some offsets, that no region grants. -/
def firstRefused (s : State) (m : Nat) (p : Pres) (write : Bool) (os : List Nat) : Option Nat :=
  os.find? fun o => (granting s m p write o).isEmpty

/-- The region index a refusal reports (12 R277). -/
def nearRegion (s : State) (m o : Nat) : BitVec 8 :=
  match (List.range 16).find? fun r => (regionGet s m r).holds o with
  | some r => BitVec.ofNat 8 r
  | none => 0xFF#8

/-- The INST field of a violation entry: the instance the access presented (12 R283). -/
def presInst (p : Pres) : BitVec 6 :=
  match p with
  | .only (some i) => BitVec.ofNat 6 i
  | _ => 0

/-- An entry in its place among those of its cycle: ascending master ID. -/
def violInsert (x : VEntry) : List VEntry → List VEntry
  | [] => [x]
  | y :: r => if x.mst.ult y.mst then x :: y :: r else y :: violInsert x r

/-- A refused access: count, flag, log ring, source 368 (12 R277). -/
def violation (s : State) (m o : Nat) (write : Bool) (inst : BitVec 6) : State :=
  let c := s.spc
  let n := min s.cyc.viols 7
  let first := c.vhead - BitVec.ofNat 3 n
  let ent : VEntry := { off := BitVec.ofNat 24 o, mst := BitVec.ofNat 8 m, acc := if write then 1 else 0,
                        region := nearRegion s m o, inst := inst, valid := true }
  let now := violInsert ent ((List.range n).map fun k => tget {} c.vlog (first + BitVec.ofNat 3 k).toNat)
  let ring := now.zipIdx.foldl (fun t p => tset {} t (first + BitVec.ofNat 3 p.2).toNat p.1) c.vlog
  let lost := (tget {} c.vlog c.vhead.toNat).valid
  let s1 := { s with spc := { c with vcnt := satAdd c.vcnt 1, viol := true, logovf := c.logovf || lost,
                                     vlog := ring, vhead := c.vhead + 1 },
                     cyc := { s.cyc with viols := s.cyc.viols + 1 } }
  let s2 := fresh (fresh s1 0x10000 2) (0x10044 + 8 * c.vhead.toNat) 31
  raiseIf c.violev (pmuAdd (if lost then fresh s2 0x10000 4 else s2) 593 1) 368

/-- The instance an engine's accesses present at its privilege (12 R274). -/
def engPres (s : State) (e : Eng) : Pres :=
  if (regGet s e).priv = 2 then .every else .only (instOf s e)

/-- The INST field of an engine's violation entry. -/
def engInst (s : State) (e : Eng) : BitVec 6 := presInst (engPres s e)

/-! ### Scratchpad words (12 R268-R270) -/

/-- The eight bytes of word w. -/
def spWord (c : Spc) (w : Nat) : BitVec 64 := BitVec.ofNat 64 (leNat (mread spadDefault c.mem (8 * w) 8))

/-- Word w holds an uncorrectable error. -/
def spBad (c : Spc) (w : Nat) : Bool := c.bad.contains w

/-- A masked write of word w: none when it must merge with a bad word (12 R270). A full write makes the word good again. -/
def spWrite (c : Spc) (w : Nat) (mask : BitVec 8) (data : BitVec 64) : Option Spc :=
  if spBad c w && mask != 0xFF#8 then none
  else
    let c1 := { c with mem := mwrite spadDefault c.mem (8 * w) (maskBytes data mask), soft := c.soft.filter (· ≠ w) }
    some (if spBad c w then { c1 with bad := c.bad.filter (· ≠ w), remade := w :: c.remade.filter (· ≠ w) } else c1)

/-- An uncorrectable word reported to a master (12 R270): UNCORR, its offset, the counter. -/
def spUncorr (s : State) (w : Nat) : State :=
  pmuAdd (fresh { s with spc := { s.spc with uncorr := true, ueaddr := BitVec.ofNat 24 (8 * w) } } 0x10000 3) 595 1

/-- A word shows an uncorrectable error for the first time. -/
def spoil (s : State) (w : Nat) : State :=
  if spBad s.spc w then s else { s with spc := { s.spc with bad := w :: s.spc.bad } }

/-- A word shows a correctable error for the first time. -/
def soften (s : State) (w : Nat) : State :=
  if s.spc.soft.contains w then s else { s with spc := { s.spc with soft := w :: s.spc.soft } }

/-- What reading a word brings (12 R270): a corrected error is counted, an uncorrectable one is reported. `ecc` is an error that shows
itself now; one that the word holds already shows in every read. -/
def eccRead (s : State) (w : Nat) (ecc : Ecc) : State × Bool :=
  if ecc = .uncorrectable ∨ spBad s.spc w then (spUncorr (spoil s w) w, false)
  else if ecc = .corrected ∨ s.spc.soft.contains w then
    (pmuAdd { (soften s w) with spc := { (soften s w).spc with cecnt := satAdd s.spc.cecnt 1 } } 594 1, true)
  else (s, true)

/-- Word w as master m reads it: as it was before the cycle, when another master's write is performed in this cycle (12 R272). -/
def oldWord (s : State) (m w : Nat) : BitVec 64 :=
  match s.cyc.wrote.find? fun x => x.word == w && x.mst != m with
  | some x => x.old
  | none => spWord s.spc w

/-- A counted collision of two masters at a word (12 R273); of two in one cycle the lower-numbered bank's is captured. -/
def collide (s : State) (w a b : Nat) : State :=
  let c := s.spc
  let k := w % 64
  let c1 := { c with collcnt := satAdd c.collcnt 1, coll := true }
  let s1 :=
    if s.cyc.collBank.any (· ≤ k) then { s with spc := c1 }
    else { s with spc := { c1 with colladdr := BitVec.ofNat 24 (8 * w), mstA := BitVec.ofNat 8 a, mstB := BitVec.ofNat 8 b },
                  cyc := { s.cyc with collBank := some k } }
  raiseIf c.collev (pmuAdd (fresh s1 0x10000 1) 592 1) 368

/-- The bank port of the slot that served master m at word w in this cycle; port A when the slot lies in an earlier cycle. -/
def portOf (s : State) (m w : Nat) : Bool :=
  match s.cyc.used.find? fun u => u.mst == m && u.word == some w with
  | some u => u.tbl % 2 == 1
  | none => false

/-- The word as it was before a write of this cycle. -/
def unwrite (s : State) (x : Wrote) : State :=
  let c := s.spc
  { s with
    spc := { c with mem := mwrite spadDefault c.mem (8 * x.word) (maskBytes x.old 0xFF#8)
                    bad := if x.bad then x.word :: c.bad.filter (· ≠ x.word) else c.bad
                    remade := if x.bad then c.remade.filter (· ≠ x.word) else c.remade
                    soft := if x.soft then x.word :: c.soft.filter (· ≠ x.word) else c.soft }
    cyc := { s.cyc with wrote := s.cyc.wrote.erase x } }

/-- Two masked writes are the same. -/
def sameBytes (mask : BitVec 8) (data : BitVec 64) (mask' : BitVec 8) (data' : BitVec 64) : Bool :=
  mask == mask' && maskBytes data mask == maskBytes data' mask'

/-- A write of master m performed in its bank; a merge counts the correctable error that the word holds. None when it must merge with a bad
word. -/
def spPerform (s : State) (m w : Nat) (mask : BitVec 8) (data : BitVec 64) : Option State :=
  let s1 := if mask = 0xFF#8 ∨ spBad s.spc w then s else (eccRead s w .good).1
  (spWrite s1.spc w mask data).map fun c =>
    { s1 with spc := c, cyc := { s1.cyc with wrote :=
      ⟨w, m, portOf s m w, mask, data, spWord s.spc w, s.spc.soft.contains w, spBad s.spc w⟩ :: s1.cyc.wrote } }

/-- A write of master m in a slot of a bank port. When the other port has written the word in this cycle, port A's write is performed and
port B's is discarded entirely, which collides unless they are the same (12 R272). -/
def spStore (s : State) (m w : Nat) (mask : BitVec 8) (data : BitVec 64) : Option State :=
  match s.cyc.wrote.find? fun x => x.word == w && x.mst != m with
  | none => spPerform s m w mask data
  | some x =>
    if sameBytes mask data x.mask x.data then some s
    else if x.portB then (spPerform (unwrite s x) m w mask data).map fun t => collide t w m x.mst
    else some (collide s w x.mst m)

/-- Parity in the bank path spoils the read of word w by master m (17 R397), once. -/
def pathHit (s : State) (m w : Nat) : State × Bool :=
  if s.spc.paths.contains (w % 64, m) then ({ s with spc := { s.spc with paths := s.spc.paths.erase (w % 64, m) } }, true) else (s, false)

/-- Master m reads word w in its bank: false when the data is bad. -/
def bankRead (s : State) (m w : Nat) (ecc : Ecc) : State × Bool :=
  let (s1, ok) := eccRead s w ecc
  let (s2, hit) := pathHit s1 m w
  (s2, ok && !hit)

/-- What the command's next scratchpad read shows. -/
def takeEcc (s : State) : State × Ecc :=
  match s.cyc.ecc with
  | [] => (s, .good)
  | x :: r => ({ s with cyc := { s.cyc with ecc := r } }, x)

/-- A command of which the i-th read in the scratchpad shows the i-th outcome of a list in its first word. -/
def withEcc (l : List Ecc) (f : State → State) (s : State) : State :=
  if l.all (· == .good) then f s
  else
    let t := f { s with cyc := { s.cyc with ecc := l } }
    { t with cyc := { t.cyc with ecc := [] } }

/-- Reads some words in their banks; false when one of them is bad. -/
def bankWords (m : Nat) : State → Ecc → List Nat → State × Bool
  | s, _, [] => (s, true)
  | s, ecc, w :: r =>
    let (s1, ok) := bankRead s m w ecc
    let (s2, oks) := bankWords m s1 .good r
    (s2, ok && oks)

/-- Reads n bytes from offset o as master m, no region checked; none when a word is bad. -/
def spRead (s : State) (m o n : Nat) : State × Option (List Byte) :=
  let ws := wordsOf o n
  let bytes := (ws.map fun w => toBytes 8 (oldWord s m w).toNat).flatten
  let (s0, ecc) := takeEcc s
  let (s1, ok) := bankWords m s0 ecc ws
  (s1, if ok then some ((bytes.drop (o % 8)).take n) else none)

/-- Bytes of an unaligned run that fall in word w, as data and mask. -/
def wordPart (o : Nat) (bs : List (Option Byte)) (w : Nat) : BitVec 64 × BitVec 8 :=
  let at_ := fun k => if 8 * w + k < o then none else ((bs[8 * w + k - o]?).getD none : Option Byte)
  (BitVec.ofNat 64 (leNat ((List.range 8).map fun k => (at_ k).getD 0)),
   BitVec.ofNat 8 ((List.range 8).foldl (fun a k => if (at_ k).isSome then a + 2 ^ k else a) 0))

/-- Writes a run of bytes from offset o word by word as master m, no region checked; the first word whose merge failed, if any. -/
def spWriteRun (s : State) (m o : Nat) (bs : List (Option Byte)) : State × Option Nat :=
  (wordsOf o bs.length).foldl (fun (p : State × Option Nat) w =>
    let (data, mask) := wordPart o bs w
    if mask = 0 then p
    else match spStore p.1 m w mask data with
      | some t => (t, p.2)
      | none => (spUncorr p.1 w, some (p.2.getD w))) (s, none)

/-- Reads as a master other than an engine: one request checked once (12 R471). None: no slot, refused (logged) or bad. -/
def mstRead (s : State) (m : Nat) (p : Pres) (o n : Nat) : State × Option (List Byte) :=
  let (s1, ok) := wordsServe s m (wordsOf o n)
  if !ok then (s1, none)
  else match firstRefused s1 m p false ((List.range n).map (· + o)) with
    | some r => (violation s1 m r false (presInst p), none)
    | none => spRead s1 m o n

/-! ### Journal capture (15 R349, R350) and dirty marks (16 R381, R382) -/

/-- A byte lies in an outgoing mirror region and in no incoming one (15 R348). -/
def outgoing (s : State) (pa : Nat) : Bool :=
  let hit := fun dir => s.twn.mr.any fun p =>
    p.2.en && p.2.dir == dir && decide (p.2.base.toNat ≤ pa ∧ pa < p.2.limit.toNat)
  hit true && !hit false

/-- Capture runs in SYNC and PAIRED once START has turned it on (15 R349, R364). -/
def capturing (s : State) : Bool := s.twn.capture && (s.twn.st == .sync || s.twn.st == .paired)

/-- The journal entries that a write of masked bytes makes, one for each aligned 8-byte word, ascending (15 R349). -/
def captureEntries (s : State) (pa : Nat) (bs : List (Option Byte)) : List (Nat × BitVec 8 × BitVec 64) :=
  let kept := (List.range bs.length).map fun k => if outgoing s (pa + k) then ((bs[k]?).getD none : Option Byte) else none
  ((wordsOf pa bs.length).map fun w => let (d, m) := wordPart pa kept w; (8 * w, m, d)).filter fun x => x.2.1 ≠ 0

/-- Numbers one entry of master m (15 R350): of the entries of one cycle that have not been formed into flits, after those of lower and
equal masters. -/
def journalPut (s : State) (m : Nat) (kind : JKind) (addr : BitVec 56) (mask : BitVec 8) (data : BitVec 64) : State :=
  let t := s.twn
  let n := min s.cyc.jrn.length t.unsent
  let now := s.cyc.jrn.drop (s.cyc.jrn.length - n)
  let k := (now.takeWhile (· ≤ m)).length
  let first := t.txseq - BitVec.ofNat 48 n
  let late := t.jbuf.drop (t.jbuf.length - n)
  let put := (late.take k ++ ⟨kind, t.txseq, addr, mask, data⟩ :: late.drop k).zipIdx.map fun p =>
    { p.1 with seq := first + BitVec.ofNat 48 p.2 }
  let moved := (late.drop k).any fun x => x.kind == .copy && some x.seq == t.copyLast
  pmuAdd { s with twn := { t with jbuf := t.jbuf.take (t.jbuf.length - n) ++ put, unsent := t.unsent + 1, txseq := t.txseq + 1,
                                  copyLast := if moved then t.copyLast.map (· + 1) else t.copyLast },
                  cyc := { s.cyc with jrn := s.cyc.jrn.take (s.cyc.jrn.length - n + k) ++ m :: s.cyc.jrn.drop (s.cyc.jrn.length - n + k) } }
    576 1

/-- The journal buffer has room for what a write makes (15 R351). -/
def captureFits (s : State) (pa : Nat) (bs : List (Option Byte)) : Bool :=
  !capturing s || decide (s.twn.jbuf.length + (captureEntries s pa bs).length ≤ 4096)

/-- A write of master m is captured: none when the journal buffer has no room and the write is held (15 R351). -/
def capture (s : State) (m pa : Nat) (bs : List (Option Byte)) : Option State :=
  if !captureFits s pa bs then none
  else if !capturing s then some s
  else some ((captureEntries s pa bs).foldl (fun s x => journalPut s m .record (s.cpx.devid ++ BitVec.ofNat 44 x.1) x.2.1 x.2.2) s)

/-- The write found the journal full: a hold cycle, counted once however many writes are held in it (15 R351). -/
def captureHeld (s : State) : State :=
  if s.cyc.heldNow then s
  else pmuAdd { s with twn := { s.twn with holdcnt := satAdd s.twn.holdcnt 1 }, cyc := { s.cyc with heldNow := true } } 580 1

/-- A write attributed to instance i marks the 4 KiB frames it touches in i's tracked range (16 R381). -/
def markWrite (s : State) (i : Nat) (pa n : Nat) : State :=
  let x := insGet s i
  if x.trklen = 0 ∨ n = 0 then s
  else
    let base := x.trk.toNat * 0x200000
    let fr := (List.range ((pa + n - 1) / 4096 - pa / 4096 + 1)).map (· + pa / 4096)
    fr.foldl (fun s f =>
      if f * 4096 < base ∨ base + x.trklen.toNat * 0x200000 ≤ f * 4096 then s
      else
        let id : InstNo := Fin.ofNat 64 i
        let q : Mark := ⟨id, f - base / 4096, f, x.sel⟩
        if s.ins.filter.contains (id, f) ∨ s.ins.marks.contains q then s
        else if s.ins.marks.length < 64 then { s with ins := { s.ins with marks := s.ins.marks ++ [q] } }
        else fresh (insPut s i { insGet s i with dovf := true }) (insAddr i 9) 13) s

/-! ### Memory-port requests (20 R438-R443) -/

/-- A physical address lies in the scratchpad window (11 R262). -/
def inWindow (s : State) (pa : PAddr) : Bool :=
  decide (s.wvl.spwin.toNat ≤ pa.toNat ∧ pa.toNat < s.wvl.spwin.toNat + 0x1000000)

/-- The scratchpad offset of a window address. -/
def winOff (s : State) (pa : PAddr) : Nat := pa.toNat - s.wvl.spwin.toNat

/-- The port whose window holds an address: 0-3, 4 the host initiator (20 R443). -/
def decodePort (s : State) (pa : PAddr) : Option Nat :=
  [0, 1, 2, 3, 4].find? fun n =>
    let x := mptGet s n
    decide (x.winbase.toNat ≤ pa.toNat / 0x1000000 ∧ pa.toNat / 0x1000000 < x.winlimit.toNat)

/-- The lowest transaction ID not outstanding (20 R440). -/
def freeId (x : Mpt) : Option Nat := (List.range 256).find? fun k => x.out.all fun q => q.id ≠ BitVec.ofNat 8 k

/-- An error completion of port n (20 R441, R446): ERR, the count, the address, the source. -/
def portError (s : State) (n : Nat) (line : LineAddr) (err : BitVec 2) : State :=
  let x := mptGet s n
  raiseIf x.ev (fresh (mptPut s n { x with err := true, errcnt := satAdd x.errcnt 1, erraddr := line, errcode := err }) (portStat n) 1)
    (if n = 4 then 357 else 349 + 2 * n)

/-- The number of bytes a mask names. -/
def maskCount (mask : BitVec 64) : Nat := (List.range 64).countP fun k => mask.getLsbD k

/-- A request takes a slot of the port's output: an owned one for engines, for master 64 (13 R296) and for master 73, and one in which it
is lend-to master for a prefetch (08 R190). What the initiator sends by itself passes no crossbar output. -/
def mpSlot (s : State) (n mst : Nat) (owner : MpOwner) : Option State :=
  match owner with
  | .other => some s
  | .prefetch _ => if slotFor s (portTable n) mst true = some false then outServe s (portTable n) mst true else none
  | _ => outServe s (portTable n) mst (!ownedOnly mst && mst != 64)

/-- A request that a slot has accepted joins the queue of port n under transaction ID k. -/
def mpPut (s : State) (n : Nat) (write : Bool) (line : LineAddr) (mst : Nat) (data : LineData) (mask : BitVec 64)
    (owner : MpOwner) (k : Nat) : State :=
  let x := mptGet s n
  let q : MpReq := ⟨BitVec.ofNat 8 k, write, line, BitVec.ofNat 7 mst, data, mask, owner, false⟩
  let s1 := mptPut s n { x with reqq := x.reqq ++ [q], wdq := if write then x.wdq ++ (if n = 4 then [q, q] else [q]) else x.wdq,
                                out := x.out ++ [q] }
  let bytes := if write then maskCount mask else 0
  if write then meterAdd (pmuAdd s1 (if n = 4 then 521 else 513 + 2 * n) bytes) n bytes else s1

/-- Sends a request to port n: refused by a port out of use (20 R441); it waits for a place, an ID (20 R440) or a slot (02 R40). -/
def mpSendTo (s : State) (n : Nat) (write : Bool) (line : LineAddr) (mst : Nat) (data : LineData) (mask : BitVec 64)
    (owner : MpOwner) : MpAns :=
  let x := mptGet s n
  if !x.en then .refused (portError s n line 2)
  else match freeId x with
    | none => .full
    | some k =>
      if x.reqq.length ≥ 16 then .full
      else match mpSlot s n mst owner with
        | none => .full
        | some s1 => .sent (mpPut s1 n write line mst data mask owner k)

/-- Sends a request to the port that its address names (20 R443). -/
def mpSend (s : State) (write : Bool) (line : LineAddr) (mst : Nat) (data : LineData) (mask : BitVec 64)
    (owner : MpOwner) : MpAns :=
  match decodePort s (linePA line) with
  | none => .refused s
  | some n => mpSendTo s n write line mst data mask owner

/-! ### Lines read by walks, the channel engine, the twin engine and the log writer -/

/-- The k-th read of some work, when it has been made. -/
def readOf (s : State) (who : ReadFor) (k : Nat) : Option PortRead := s.reads.find? fun x => x.who == who && x.k == k && !x.drop

/-- An answer to it. -/
def readNote (s : State) (who : ReadFor) (k : Nat) (a : Option (Option LineData)) : State :=
  { s with reads := s.reads ++ [{ who := who, k := k, ans := a }] }

/-- The k-th read of some work: its answer, an error or a line, or none while it waits. It is asked for once (20 R440), after the answers
to abandoned work of the same reader have come back (11 R253). -/
def askRead (s : State) (who : ReadFor) (k mst : Nat) (line : LineAddr) : State × Option (Option LineData) :=
  match readOf s who k with
  | some x => (s, x.ans)
  | none =>
    if s.reads.any (fun x => x.who == who && x.drop) then (s, none)
    else match mpSend s false line mst 0 0 (.read who k) with
      | .full => (s, none)
      | .refused s1 => (readNote s1 who k (some none), some none)
      | .sent s1 => (readNote s1 who k none, none)

/-- The work is done or abandoned: its answers go, and those still to come will be discarded. -/
def readsEnd (s : State) (who : ReadFor) : State :=
  { s with reads := (s.reads.filter fun x => x.who != who || x.ans.isNone).map fun x => if x.who = who then { x with drop := true } else x }

/-- The answer to a read comes back. -/
def readBack (s : State) (who : ReadFor) (k : Nat) (d : Option LineData) : State :=
  { s with reads := (s.reads.filter fun x => !(x.who == who && x.k == k && x.drop)).map fun x =>
      if x.who = who ∧ x.k = k then { x with ans := some d } else x }

end Sys2Proof.Machine
end

