-- ==== Sys2Proof/Machine/Access.lean ====
section
/-! DEFINITION. An engine's data accesses: translation (11), the D-cache, line fills, the store buffer and the scratchpad
window (08 R192-R197, 12).
What is DEDUCED or a DESIGN CHOICE here is said in notes/assumptions, log 8 and 23. -/

namespace Sys2Proof.Machine

open Sys2Proof

/-! ### Translation (11 R247-R258) -/

/-- Neither stage is consulted (11 R247). -/
def untranslated (r : Regs) : Bool :=
  (!r.sp.xctlEff.getLsbD 0 && !r.sp.xctlEff.getLsbD 1) || (r.priv == 2 && r.sp.xctlEff.getLsbD 2)

/-- The tag of a TLB entry: `INSTID`. -/
def instTag (s : State) (e : Eng) : BitVec 7 :=
  match instOf s e with
  | some i => BitVec.ofNat 7 i
  | none => 0x40#7

/-- Log2 of a page size. -/
def pageBits (size : BitVec 2) : Nat := if size = 0 then 12 else if size = 1 then 16 else 21

/-- An entry's page holds an address and its tag is the engine's instance (11 R255). -/
def TlbEntry.hits (t : TlbEntry) (tag : BitVec 7) (va : Word) : Bool :=
  t.inst == tag && t.va >>> pageBits t.size == va >>> pageBits t.size

/-- The physical address that an entry gives. -/
def TlbEntry.out (t : TlbEntry) (va : Word) : PAddr :=
  let m : PAddr := BitVec.ofNat 44 (2 ^ pageBits t.size - 1)
  (t.pa &&& ~~~m) ||| (va.setWidth 44 &&& m)

/-- The intermediate address that it went through. -/
def TlbEntry.inter (t : TlbEntry) (va : Word) : PAddr :=
  let m : PAddr := BitVec.ofNat 44 (2 ^ pageBits t.size - 1)
  (t.ia &&& ~~~m) ||| (va.setWidth 44 &&& m)

/-- What stage 1 and stage 2 grant an access (11 R251). -/
def TlbEntry.grants (t : TlbEntry) (acc : AccKind) (priv : BitVec 2) : Bool × Bool :=
  let u := priv != 0 || t.u
  match acc with
  | .read => (t.r && u, t.s2r)
  | .write => (t.w && u, t.s2w)
  | .fetch => (t.x && u, t.s2x)

/-- IFETCH_PAGE or DATA_PAGE with a detail (11 R258). -/
def pageFault (acc : AccKind) (detail : BitVec 8) (va : Word) (fipa : Option Word) : FaultInfo :=
  { num := if acc = .fetch then 3 else 4, detail := detail, faddr := some va, fipa := fipa,
    acc := match acc with | .read => 0 | .write => 1 | .fetch => 2 }

/-- Bits [43:12] of an intermediate address, for `ENG.FIPA`. -/
def fipaOf (ia : PAddr) : Word := fld ia 12 32

/-- The first-level TLB of an access. -/
def firstTlb (m : EngMem) (acc : AccKind) : List TlbEntry := if acc = .fetch then m.itlb else m.dtlb

/-- The first-level TLB with an entry most recently used; it keeps 64 (11 R255). -/
def firstPut (m : EngMem) (acc : AccKind) (t : TlbEntry) : EngMem :=
  let l := (t :: (firstTlb m acc).erase t).take 64
  if acc = .fetch then { m with itlb := l } else { m with dtlb := l }

/-- The second-level set of an address for a page size (11 R255). -/
def tlb2Set (va : Word) (size : BitVec 2) : Nat := (fld va (pageBits size) 8).toNat

/-- The second-level TLB with an entry most recently used in its set of 4; only a walk brings one in (11 R255). -/
def tlb2Put (m : EngMem) (t : TlbEntry) : EngMem :=
  let k := tlb2Set t.va t.size
  { m with tlb2 := tset [] m.tlb2 k ((t :: (tget [] m.tlb2 k).erase t).take 4) }

/-- The entry that translates an access, first level before second. -/
def tlbFind (m : EngMem) (acc : AccKind) (tag : BitVec 7) (va : Word) : Option TlbEntry :=
  match (firstTlb m acc).find? fun t => t.hits tag va with
  | some t => some t
  | none => ([0, 1, 2] : List (BitVec 2)).findSome? fun z =>
      (tget [] m.tlb2 (tlb2Set va z)).find? fun t => t.size == z && t.hits tag va

/-- The TLBs after an access has used entry t: a first-level hit is made most recently used there; a second-level hit is made most
recently used in its set, and enters the first level (11 R255). -/
def tlbUsed (m : EngMem) (acc : AccKind) (t : TlbEntry) : EngMem :=
  if (firstTlb m acc).contains t then firstPut m acc t else firstPut (tlb2Put m t) acc t

/-- Work of the engine is still speculative: a transfer is unresolved, or run-ahead runs (08 R186). -/
def speculative (g : Engine) : Bool := g.wrong.isSome || g.ra.isSome

/-- A walk for an access is asked for; what an abandoned walk has read goes (11 R253). -/
def walkStart (s : State) (e : Eng) (acc : AccKind) (va : Word) : State :=
  let g := engGet s e
  let w := some (acc, va, g.r.priv)
  engPut (if g.walk = w then s else readsEnd s (.walk e)) e { g with walk := w }

/-- Translates an access (11 R247-R254): the physical address, a hold for a walk, or a fault. A path found mispredicted asks for no
walk; in run-ahead a missing translation makes the access invalid and moves no TLB entry. -/
def xlate (s : State) (e : Eng) (acc : AccKind) (va : Word) : Ans PAddr :=
  let g := engGet s e
  if untranslated g.r then .ok s (va.setWidth 44)
  else match tlbFind g.m acc (instTag s e) va with
    | some t =>
      let (g1, g2) := t.grants acc g.r.priv
      if g1 && g2 then
        .ok (if (firstTlb g.m acc).head? = some t ∨ g.ra.isSome then s else engPut s e { g with m := tlbUsed g.m acc t }) (t.out va)
      else .fault s (pageFault acc (if g1 then 0x82#8 else 0x02#8) va
        (if g1 then some (fipaOf (t.inter va)) else none))
    | none =>
      if g.ra.isSome then .inv s
      else match g.wfault with
      | some (a, v, d, ia) =>
        if a = acc ∧ v = va then .fault (engPut s e { g with wfault := none }) (pageFault acc d va ia)
        else
          let s1 := engPut s e { g with wfault := none }
          .hold (if g.wrong.isSome then s1 else walkStart s1 e acc va)
      | none => .hold (if g.wrong.isSome then s else walkStart s e acc va)

/-- The mode of the word at the PC (03 R70): its page is marked SB1. A second syllable has the mode of its word; an entry word
comes with its mark (10 R237). While no TLB entry translates the PC the engine shows the mode of the word issued last (DESIGN CHOICE, log
26): no word issues then. -/
def sb1Mode (s : State) (e : Eng) : Bool :=
  let g := engGet s e
  if g.r.syll && !g.r.rpt then g.r.wsb1
  else match g.r.ent with
    | b :: _ => b
    | [] => !untranslated g.r && ((tlbFind g.m .fetch (instTag s e) g.r.pc).map (·.sb1)).getD g.r.wsb1

/-! ### The D-cache and line fills (11 R259, R260) -/

/-- The set of a line. -/
def setOf (l : LineAddr) : Nat := l.toNat % 128

/-- The way of a set that holds a line. -/
def wayOf (t : Tab CLine) (l : LineAddr) : Option Nat :=
  (List.range 4).find? fun w => (tfind t (4 * setOf l + w)).any fun c => c.line == l

/-- A set's ways, most recently used first; 0 to 3 at reset (log 8). -/
def lruOf (t : Tab (List Nat)) (k : Nat) : List Nat := tget [0, 1, 2, 3] t k

/-- A way made most recently used. -/
def touch (t : Tab (List Nat)) (k w : Nat) : Tab (List Nat) := tset [0, 1, 2, 3] t k (w :: (lruOf t k).erase w)

/-- The way a fill replaces: an invalid one, the lowest first, else the least recently used (log 8). -/
def victim (t : Tab CLine) (lru : Tab (List Nat)) (k : Nat) : Nat :=
  match (List.range 4).find? fun w => (tfind t (4 * k + w)).isNone with
  | some w => w
  | none => ((lruOf lru k).getLast?).getD 0

/-- An engine with its fills, write-backs or store buffer replaced. -/
def setFills (g : Engine) (l : List Fill) : Engine := { g with m := { g.m with fills := l } }
def setWbs (g : Engine) (l : List WriteBack) : Engine := { g with m := { g.m with wbs := l } }
def setSb (g : Engine) (l : List SbEntry) : Engine := { g with m := { g.m with sb := l } }

/-- A line's fill in progress for a side. -/
def fillOf (g : Engine) (side : CacheSide) (l : LineAddr) : Option Fill := g.m.fills.find? fun f => f.line == l && f.side == side

/-- A fill with `x` in place of line l's. -/
def fillsPut (fs : List Fill) (x : Fill) : List Fill := fs.map fun f => if f.line == x.line && f.side == x.side then x else f

/-- Without line l's fill. -/
def fillsDel (fs : List Fill) (side : CacheSide) (l : LineAddr) : List Fill := fs.filter fun f => !(f.line == l && f.side == side)

/-- Asks for a line: its fill is in flight, cannot start yet (a hold), or has failed or has no target (the fault `i`). -/
def askLine {α : Type} (s : State) (e : Eng) (side : CacheSide) (l : LineAddr) (i : FaultInfo) : Ans α :=
  let g := engGet s e
  match fillOf g side l with
  | some f => if f.st = .failed then .fault (engPut s e (setFills g (fillsDel g.m.fills side l))) i else .hold s
  | none =>
    let limit := if side = .data then 4 else 1
    if (g.m.fills.filter (·.side == side)).length ≥ limit ∨ g.m.wbs.any (·.line == l) then .hold s
    else match mpSend s false l e.val 0 0 (.fill e side) with
      | .full => .hold s
      | .refused s' => .fault s' i
      | .sent s' =>
        let g' := engGet s' e
        .hold (engCount (engPut s' e (setFills g' (g'.m.fills ++ [⟨l, side, false, .waiting⟩]))) e
          (if side = .data then 4 else 5))

/-- A line as the D-cache holds it, or a miss. -/
def cacheLine (s : State) (e : Eng) (l : LineAddr) (i : FaultInfo) : Ans CLine :=
  let g := engGet s e
  match wayOf g.m.dc l with
  | some w =>
    match tfind g.m.dc (4 * setOf l + w) with
    | some c => .ok (engPut s e { g with m := { g.m with dlru := touch g.m.dlru (setOf l) w } }) c
    | none => .hold s
  | none => askLine s e .data l i

/-! ### Instruction fetch (08 R176, 11 R262) -/

/-- The line buffer with a line just read from the I-cache (08 R176). -/
def lbufPut (m : EngMem) (l : LineAddr) (d : LineData) : EngMem :=
  { m with lbuf := ((l, d) :: m.lbuf.filter (·.1 ≠ l)).take 2 }

/-- A line for fetch: from the line buffer, the I-cache, or a miss. -/
def fetchLine (s : State) (e : Eng) (l : LineAddr) (i : FaultInfo) : Ans LineData :=
  let g := engGet s e
  match g.m.lbuf.find? (·.1 == l) with
  | some p => .ok s p.2
  | none =>
    match wayOf g.m.ic l with
    | none => askLine s e .instr l i
    | some w =>
      match tfind g.m.ic (4 * setOf l + w) with
      | some c => .ok (engPut s e { g with m := lbufPut { g.m with ilru := touch g.m.ilru (setOf l) w } l c.data }) c.data
      | none => .hold s

/-- One instruction word fetched at a virtual address: IFETCH_PAGE of KIND 5 in the scratchpad window, 4 where no target or an
error response answers (11 R258, R262). -/
def fetchWord (s : State) (e : Eng) (va : Word) : Ans Word :=
  (xlate s e .fetch va).bind fun s1 pa =>
    if inWindow s1 pa then .fault s1 (pageFault .fetch 5 va none)
    else if (decodePort s1 pa).isNone then .fault s1 (pageFault .fetch 4 va none)
    else (fetchLine s1 e (lineOf pa) (pageFault .fetch 4 va none)).bind fun s2 d =>
      .ok s2 (BitVec.ofNat 32 (leNat (lineBytes d (pa.toNat % 64) 4)))

/-- The physical address of the PC, where no TLB entry moves as it is translated. -/
def pcPA (s : State) (e : Eng) : Option PAddr :=
  let g := engGet s e
  if untranslated g.r then some (g.r.pc.setWidth 44)
  else (g.m.itlb.head?.filter fun t =>
    t.hits (instTag s e) g.r.pc && (t.grants .fetch g.r.priv).1 && (t.grants .fetch g.r.priv).2).map (·.out g.r.pc)

/-- The word at the PC is at hand: its first syllable has issued, the gate store gave it (10 R237), or its line stands in the line buffer
and nothing moves as its address is translated. -/
def wordHeld (s : State) (e : Eng) : Bool :=
  let g := engGet s e
  (g.r.syll && !g.r.rpt) || !g.r.ent.isEmpty ||
    (pcPA s e).any fun pa => !inWindow s pa && (decodePort s pa).isSome && g.m.lbuf.any (·.1 == lineOf pa)

/-- The word at the PC is fetched before it issues, and its page gives its mode (03 R70, 11 R249, R262). A fetch that faults waits for its
FAULT_ENTRY. Which word the line holds there is not compared with the command (log 2). -/
def fetchAt (s : State) (e : Eng) : Ans Unit :=
  if wordHeld s e then .ok s ()
  else match fetchWord s e (regGet s e).pc with
    | .ok s1 _ => .ok s1 ()
    | .hold s1 => .hold s1
    | .inv _ => .hold s
    | .fault _ _ => .hold s

/-- A D-cache frame replaced by a line, or emptied. -/
def dcPut (g : Engine) (frame : Nat) (c : Option CLine) : Engine :=
  { g with m := { g.m with dc := match c with | some c => tput g.m.dc frame c | none => tdel g.m.dc frame } }

/-- Writes a dirty line back: none while both buffers wait or the port has no place (11 R260). -/
def writeBack (s : State) (e : Eng) (c : CLine) (dcm : Bool) : Option State :=
  let g := engGet s e
  if g.m.wbs.length ≥ 2 then none
  else match mpSend s true c.line e.val c.data c.dirty (.writeBack e) with
    | .sent s' =>
      let g' := engGet s' e
      some (engPut s' e (setWbs g' (g'.m.wbs ++ [⟨c.line, dcm⟩])))
    | .full => none
    | .refused s' =>
      let g' := engGet s' e
      some (engPut s' e { g' with berrs := g'.berrs ++ [(c.line, false)] })

/-! ### The store buffer (08 R192, R193) -/

/-- What the store buffer says of some bytes of a line. -/
inductive SbHit where
  | none_
  | data (d : LineData)
  | wait
  deriving DecidableEq, Repr

/-- A frame's two lines as entries (09 R216). -/
def SpillFrame.entries (f : SpillFrame) : List SbEntry :=
  let d := leNat (frameBytes f.frame)
  (List.range 2).map fun k =>
    { line := lineOf (f.pa + BitVec.ofNat 44 (64 * k)), data := BitVec.ofNat 512 (d / 2 ^ (512 * k)), mask := BitVec.allOnes 64,
      win := false, spec := false, link := false }

/-- The stores in their order, with the frame of the spill buffer after those that drain before it (09 R216). -/
def sbAll (g : Engine) : List SbEntry :=
  match g.spill with
  | none => g.m.sb
  | some f => g.m.sb.take f.after ++ f.entries ++ g.m.sb.drop f.after

/-- The search of 08 R193: the youngest entry that holds any of the bytes forwards when it holds all of them. -/
def sbSearch (g : Engine) (l : LineAddr) (mask : BitVec 64) : SbHit :=
  match (sbAll g).reverse.find? fun x => x.line == l && x.mask &&& mask != 0 with
  | none => .none_
  | some x => if mask &&& ~~~x.mask = 0 then .data x.data else .wait

/-- Reads bytes of one line at a physical address. -/
def readPhys (s : State) (e : Eng) (pa : PAddr) (n : Nat) (i : FaultInfo) : Ans (List Byte) :=
  let o := pa.toNat % 64
  match sbSearch (engGet s e) (lineOf pa) (lineMask o n) with
  | .data d => .ok s (lineBytes d o n)
  | .wait => .hold s
  | .none_ =>
    if inWindow s pa then
      let (s1, ok) := wordsServe s e.val (wordsOf (winOff s pa) n)
      if !ok then .hold s1
      else match spRead s1 e.val (winOff s pa) n with
        | (s', some bs) => .ok s' bs
        | (s', none) => .fault s' i
    else (cacheLine s e (lineOf pa) i).bind fun s' c => .ok s' (lineBytes c.data o n)

/-! ### Run-ahead reads (08 R188, R190) -/

/-- The D-TLB holds the translation of an address, or none is needed. -/
def dtlbCovers (s : State) (e : Eng) (va : Word) : Bool :=
  let g := engGet s e
  untranslated g.r || g.m.dtlb.any fun t => t.hits (instTag s e) va

/-- A prefetch of one line (08 R188, R190): requested when its translation hits the D-TLB, a fill buffer is free, the line is
neither held nor in flight, and the engine is lend-to master of the present slot of the port's output. -/
def prefetch (s : State) (e : Eng) (va : Word) (l : LineAddr) : State :=
  let g := engGet s e
  if !dtlbCovers s e va || (wayOf g.m.dc l).isSome || (fillOf g .data l).isSome || g.m.wbs.any (·.line == l) ||
      decide (4 ≤ (g.m.fills.filter (·.side == .data)).length) then s
  else match mpSend s false l e.val 0 0 (.prefetch e) with
    | .sent s' => let g' := engGet s' e; engPut s' e (setFills g' (g'.m.fills ++ [⟨l, .data, true, .waiting⟩]))
    | .refused s' => s'
    | .full => s

/-- A run-ahead load's bytes of one line: what hits delivers its data, what misses asks for a prefetch at most, and what waits for
the store buffer is invalid (08 R188, R193). -/
def readAhead (s : State) (e : Eng) (va : Word) (pa : PAddr) (n : Nat) (i : FaultInfo) : Ans (List Byte) :=
  let g := engGet s e
  let l := lineOf pa
  match sbSearch g l (lineMask (pa.toNat % 64) n) with
  | .wait => .inv s
  | .data _ => readPhys s e pa n i
  | .none_ => if inWindow s pa || (wayOf g.m.dc l).isSome then readPhys s e pa n i else .inv (prefetch s e va l)

/-- What run-ahead has made invalid besides cells. -/
def raBad (g : Engine) (x : RaItem) : Bool := g.ra.any (·.bad.contains x)

/-- An item made invalid, or valid, in run-ahead. -/
def raMark (x : RaItem) (b : Bool) (g : Engine) : Engine :=
  { g with ra := g.ra.map fun a => { a with bad := if b then x :: a.bad.filter (· ≠ x) else a.bad.filter (· ≠ x) } }

/-- The same in the state. -/
def markBad (s : State) (e : Eng) (x : RaItem) (b : Bool) : State :=
  let g := engGet s e
  if g.ra.isSome then engPut s e (raMark x b g) else s

/-! ### Data accesses (08 R194-R197, 05 R98 step 5) -/

/-- The parts of an access: split at a line boundary (08 R194). -/
def parts (va : Word) (n : Nat) : List (Word × Nat) :=
  let f := 64 - va.toNat % 64
  if n ≤ f then [(va, n)] else [(va, f), (va + BitVec.ofNat 32 f, n - f)]

/-- Every part translated; a read also needs a target (11 R258 KIND 4). -/
def xlateParts (s : State) (e : Eng) (acc : AccKind) : List (Word × Nat) → Ans (List (Word × Nat × PAddr))
  | [] => .ok s []
  | (va, n) :: r =>
    (xlate s e acc va).bind fun s1 pa =>
      if acc = .read ∧ !inWindow s1 pa ∧ (decodePort s1 pa).isNone then .fault s1 (pageFault acc 4 va none)
      else (xlateParts s1 e acc r).bind fun s2 l => .ok s2 ((va, n, pa) :: l)

/-- REGION for the bytes in the scratchpad window (12 R274, R275). -/
def regionParts (s : State) (e : Eng) (write : Bool) : List (Word × Nat × PAddr) → Ans Unit
  | [] => .ok s ()
  | (va, n, pa) :: r =>
    if !inWindow s pa then regionParts s e write r
    else match firstRefused s e.val (engPres s e) write ((List.range n).map (· + winOff s pa)) with
      | none => regionParts s e write r
      | some o => .fault (violation s e.val o write (engInst s e))
          { num := 5, detail := nearRegion s e.val o, acc := if write then 1 else 0,
            faddr := some (va + BitVec.ofNat 32 (o - winOff s pa)) }

/-- Reads every part. -/
def readParts (s : State) (e : Eng) : List (Word × Nat × PAddr) → Ans (List Byte)
  | [] => .ok s []
  | (va, n, pa) :: r =>
    (if (engGet s e).ra.isSome then readAhead s e va pa n (pageFault .read 4 va none)
      else readPhys s e pa n (pageFault .read 4 va none)).bind fun s1 bs =>
      (readParts s1 e r).bind fun s2 l => .ok s2 (bs ++ l)

/-- The checks of a data access of n bytes, up to a line: DATA_PAGE for every part, then REGION. -/
def checkAccess (s : State) (e : Eng) (acc : AccKind) (va : Word) (n : Nat) : Ans (List (Word × Nat × PAddr)) :=
  (xlateParts s e acc (parts va n)).bind fun s1 ps =>
    (regionParts s1 e (acc == .write) ps).bind fun s2 _ => .ok s2 ps

/-- An n-byte read (`rd` of 05 R98). -/
def dataRead (s : State) (e : Eng) (va : Word) (n : Nat) : Ans (List Byte) :=
  (checkAccess s e .read va n).bind fun s1 ps => readParts s1 e ps

/-- The line that an access misses in the D-cache, whether its fill is in flight or waits for a buffer or a place (08 R187); none while a
part of the access waits for the store buffer, since such an access never starts run-ahead (08 R193). -/
def missLine (s : State) (e : Eng) (ps : List (Word × Nat × PAddr)) : Option LineAddr :=
  if ps.any fun p => sbSearch (engGet s e) (lineOf p.2.2) (lineMask (p.2.2.toNat % 64) p.2.1) == .wait then none
  else (ps.find? fun p => !inWindow s p.2.2 && (wayOf (engGet s e).m.dc (lineOf p.2.2)).isNone &&
    sbSearch (engGet s e) (lineOf p.2.2) (lineMask (p.2.2.toNat % 64) p.2.1) == .none_).map fun p => lineOf p.2.2

/-- A load's, a fill's or a `PICK`'s read, whose miss may start run-ahead (08 R187). -/
def loadRead (s : State) (e : Eng) (va : Word) (n : Nat) : Ans (List Byte) :=
  if (engGet s e).io.isSome then .hold s
  else match checkAccess s e .read va n with
    | .hold s1 => .hold (engPut s1 e { engGet s1 e with waits := true })
    | .fault s1 i => .fault s1 i
    | .inv s1 => .inv s1
    | .ok s1 ps =>
      match readParts s1 e ps with
      | .hold s2 => .hold (engPut s2 e { engGet s2 e with anchor := missLine s2 e ps, waits := true })
      | r => r

/-- The instance an engine's write is attributed to (16 R380). -/
def attributed (s : State) (e : Eng) : Option Nat := if (regGet s e).priv = 2 then none else instOf s e

/-- A write attributed to i is stale: the engine's stamp differs from i's lot (16 R377). -/
def staleWrite (s : State) (e : Eng) (i : Nat) : Bool := (regGet s e).stamp != some (insGet s i).lot

/-- The store-buffer entries of a checked write. -/
def sbEntries (s : State) (spec : Bool) : List (Word × Nat × PAddr) → List (Option Byte) → List SbEntry
  | [], _ => []
  | (_, n, pa) :: r, bs =>
    let o := pa.toNat % 64
    let part := bs.take n
    let m := (List.range n).foldl (fun a k => if ((part[k]?).getD none).isSome then a + 2 ^ (o + k) else a) 0
    { line := lineOf pa, data := toLine o (part.map (·.getD 0)), mask := BitVec.ofNat 64 m, win := inWindow s pa, spec := spec,
      link := !r.isEmpty } :: sbEntries s spec r (bs.drop n)

/-- The parts of a write with their bytes, by ascending address, the order in which they are captured (15 R349). -/
def captureParts (ps : List (Word × Nat × PAddr)) (bs : List (Option Byte)) : List (PAddr × List (Option Byte)) :=
  match ps with
  | [(_, n, a), (_, _, b)] =>
    if b.toNat < a.toNat then [(b, bs.drop n), (a, bs.take n)] else [(a, bs.take n), (b, bs.drop n)]
  | _ => ps.map fun p => (p.2.2, bs)

/-- An engine's writes captured in order: none when the journal has no room for one (15 R351). -/
def captureAll (s : State) (e : Eng) (l : List (PAddr × List (Option Byte))) : Option State :=
  l.foldl (fun q x => q.bind fun s => capture s e.val x.1.toNat x.2) (some s)

/-- A checked write performed (08 R192): entries in the store buffer, after the stale check of 16 R377, the marks of 16 R381
and the capture of 15 R349. On a mispredicted path the entries are speculative and nothing else happens; in run-ahead there are
none (08 R188). A spill's entry is speculative until its instruction commits (08 R180), and is captured then; a spill is neither
judged nor marked. -/
def putStore (s : State) (e : Eng) (ps : List (Word × Nat × PAddr)) (bs : List (Option Byte)) (spill : Bool) : Ans Unit :=
  let g := engGet s e
  let push := fun (s : State) (spec : Bool) =>
    let g := engGet s e
    Ans.ok (engPut s e (setSb g (g.m.sb ++ sbEntries s spec ps bs))) ()
  if g.ra.isSome then .ok s ()
  else if g.m.sb.length + ps.length > 8 then .hold s
  else if g.wrong.isSome || spill then push s true
  else
    let mark := fun (s : State) (i : Nat) => ps.foldl (fun s p => markWrite s i p.2.2.toNat p.2.1) s
    let go := fun (s : State) =>
      match captureAll s e (captureParts ps bs) with
      | some s' => push s' false
      | none => .hold (captureHeld s)
    match attributed s e with
    | none => go s
    | some i =>
      if staleWrite s e i then
        let s1 := mark s i
        .ok (insPut s1 i { insGet s1 i with dropcnt := satAdd (insGet s1 i).dropcnt 1 }) ()
      else (go s).bind fun s' _ => .ok (mark s' i) ()

/-- An n-byte write (`wr` of 05 R98). -/
def dataWrite (s : State) (e : Eng) (va : Word) (bs : List Byte) (spill : Bool) : Ans Unit :=
  if (engGet s e).io.isSome then .hold s
  else (checkAccess s e .write va bs.length).bind fun s1 ps => putStore s1 e ps (bs.map some) spill

/-! ### Physical accesses by an engine: gate table and frames (09 R200) -/

/-- Reads up to a line's bytes by physical address, no translation, no region check; none is an error response. -/
def physRead (s : State) (e : Eng) (pa : PAddr) (n : Nat) : Ans (Option (List Byte)) :=
  match readPhys s e pa n { num := 15 } with
  | .ok s' bs => .ok s' (some bs)
  | .hold s' => .hold s'
  | .inv s' => .hold s'
  | .fault s' _ => .ok s' none

end Sys2Proof.Machine
end

