-- ==== Sys2Proof/Machine/Stack.lean ====
section
/-! DEFINITION. The operand stack and the return stack (03 R55-R61, R64, R65): depth, fills, spills, pops and pushes. -/

namespace Sys2Proof.Machine

open Sys2Proof

/-- Cells spilled between a base and a pointer (03 R55). -/
def spilled (base ptr : Word) : Nat := if base.toNat ≤ ptr.toNat then (ptr.toNat - base.toNat) / 4 else 0

/-- `DEPTH` (03 R55). -/
def depth (r : Regs) : Nat := r.ds.length + spilled r.sp.dsbase r.dsp
/-- `RDEPTH` (03 R65). -/
def rdepth (r : Regs) : Nat := r.rs.length + spilled r.sp.rsbase r.rsp

/-- The value of a cell, none while reserved. -/
def cellVal : Cell → Option Word
  | .val w => some w
  | .rsv _ => none
  | .inv => none

/-- Values of the first k cells, none when one is missing or reserved (06 R144). -/
def takeVals : Nat → List Cell → Option (List Word)
  | 0, _ => some []
  | _ + 1, [] => none
  | n + 1, c :: r => (cellVal c).bind fun w => (takeVals n r).map (w :: ·)

/-- DSTACK_OVER and DSTACK_UNDER (9, 10), RSTACK_OVER and RSTACK_UNDER (11, 12) of 09 R206. -/
def stackFault (num : BitVec 5) (ptr : Word) : FaultInfo := { num := num, faddr := some ptr }

/-- A fault of a spill's, fill's or spilled `PICK`'s access: DATA_PAGE with SF (03 R58, R60). A region's refusal of it is a failed
permission of 05 R98 step 5 and so DATA_PAGE of KIND 2 at the access's address, since 05 R101, R104 and R127 list no REGION for
these instructions (log 26). -/
def sfFault (a : Word) (i : FaultInfo) : FaultInfo :=
  if i.num = 5 then { num := 4, detail := 2, sf := true, acc := i.acc, faddr := some a } else { i with sf := true }

/-- The block that a missing fill brings in run-ahead: invalid cells (08 R188). -/
def invCells (n : Nat) : List Cell := List.replicate n .inv

/-- Fills one block of 8 cells (03 R57, R58). -/
def fillDs (s : State) (e : Eng) : Ans Unit :=
  let r := regGet s e
  if r.dsp.toNat < r.sp.dsbase.toNat + 32 then .fault s (stackFault 10 r.dsp)
  else
    let put := fun (s : State) (new : List Cell) =>
      let r := regGet s e
      Ans.ok (regPut s e { r with dsp := r.dsp - 32, ds := r.ds ++ new }) ()
    match (loadRead s e (r.dsp - 32) 32).mapFault (sfFault (r.dsp - 32)) with
    | .ok s1 bs => put s1 ((wordsOfBytes bs).reverse.map .val)
    | .inv s1 => put s1 (invCells 8)
    | .hold s1 => .hold s1
    | .fault s1 i => .fault s1 i

/-- Spills the 8 deepest cached cells (03 R57, R58); a reserved one holds (08 R179). In run-ahead no entry is made (08 R188), and invalid
cells leave the cache like others. -/
def spillDs (s : State) (e : Eng) : Ans Unit :=
  let r := regGet s e
  let n := r.ds.length - 8
  let out := (r.ds.drop n).map fun c => if (engGet s e).ra.isSome ∧ c = .inv then .val 0 else c
  match takeVals 8 out with
  | none => .hold s
  | some vs =>
    if r.dsp.toNat < r.sp.dsbase.toNat ∨ r.sp.dslimEff.toNat < r.dsp.toNat + 32 then .fault s (stackFault 9 r.dsp)
    else ((dataWrite s e r.dsp (bytesOfWords vs.reverse) true).mapFault (sfFault r.dsp)).bind fun s1 _ =>
      let r1 := regGet s1 e
      .ok (regPut s1 e { r1 with dsp := r1.dsp + 32, ds := r1.ds.take n }) ()

/-- Fills one block of 4 return-stack entries (03 R65). -/
def fillRs (s : State) (e : Eng) : Ans Unit :=
  let r := regGet s e
  if r.rsp.toNat < r.sp.rsbase.toNat + 16 then .fault s (stackFault 12 r.rsp)
  else
    let put := fun (s : State) (new : List Word) =>
      let r := regGet s e
      Ans.ok (regPut s e { r with rsp := r.rsp - 16, rs := r.rs ++ new }) ()
    match (loadRead s e (r.rsp - 16) 16).mapFault (sfFault (r.rsp - 16)) with
    | .ok s1 bs => put s1 (wordsOfBytes bs).reverse
    | .inv s1 =>
      put ((List.range 4).foldl (fun s k => markBad s e (.ret (spilled r.sp.rsbase r.rsp - 4 + k)) true) s1) (List.replicate 4 0)
    | .hold s1 => .hold s1
    | .fault s1 i => .fault s1 i

/-- Spills the 4 deepest cached return-stack entries. -/
def spillRs (s : State) (e : Eng) : Ans Unit :=
  let r := regGet s e
  let n := r.rs.length - 4
  if r.rsp.toNat < r.sp.rsbase.toNat ∨ r.sp.rslimEff.toNat < r.rsp.toNat + 16 then .fault s (stackFault 11 r.rsp)
  else ((dataWrite s e r.rsp (bytesOfWords (r.rs.drop n).reverse) true).mapFault (sfFault r.rsp)).bind fun s1 _ =>
    let r1 := regGet s1 e
    .ok (regPut s1 e { r1 with rsp := r1.rsp + 16, rs := r1.rs.take n }) ()

/-- The three conditions of 03 R57 for an instruction that pops k cells and pushes m. -/
def prepDs (s : State) (e : Eng) (k m : Nat) : Ans Unit :=
  let r := regGet s e
  if depth r < k then .fault s (stackFault 10 r.dsp)
  else (if r.ds.length < k then fillDs s e else .ok s ()).bind fun s1 _ =>
    if 32 + k < (regGet s1 e).ds.length + m then spillDs s1 e else .ok s1 ()

/-- The same for the return stack. -/
def prepRs (s : State) (e : Eng) (k m : Nat) : Ans Unit :=
  let r := regGet s e
  if rdepth r < k then .fault s (stackFault 12 r.rsp)
  else (if r.rs.length < k then fillRs s e else .ok s ()).bind fun s1 _ =>
    if 16 + k < (regGet s1 e).rs.length + m then spillRs s1 e else .ok s1 ()

/-- The registers with k cells popped and some pushed, the new S0 first. -/
def cellsPut (r : Regs) (k : Nat) (new : List Cell) : Regs := { r with ds := new ++ r.ds.drop k }

def putCells (s : State) (e : Eng) (k : Nat) (new : List Cell) : State := regPut s e (cellsPut (regGet s e) k new)

/-- The k cells an instruction pops, S0 first; they stay until `putCells`. A reserved one holds (06 R144). In run-ahead an invalid
one makes the m cells that the instruction pushes invalid (08 R188). -/
def pops (s : State) (e : Eng) (k m : Nat) : Ans (List Word) :=
  (prepDs s e k m).bind fun s1 _ =>
    let ds := (regGet s1 e).ds
    if (ds.take k).contains .inv then .inv (putCells s1 e k (invCells m))
    else match takeVals k ds with
      | some vs => .ok s1 vs
      | none => .hold s1

/-- An instruction that only replaces k cells by m computed from them; S0 is first in both lists. -/
def stackOp (s : State) (e : Eng) (k m : Nat) (f : List Word → List Word) : Ans (Option Word) :=
  (pops s e k m).bind fun s1 vs => .ok (putCells s1 e k ((f vs).map .val)) none

end Sys2Proof.Machine
end

