-- ==== Sys2Proof/Machine/Entry.lean ====
section
/-! DEFINITION. Taking a fault, a trap or an event: the gate store, the two banks, the spill to a state stack, escalation to the
last resort, and the stop (09 R199-R224).
What is DEDUCED or a DESIGN CHOICE here is said in notes/assumptions, log 13 and 22. -/

namespace Sys2Proof.Machine

open Sys2Proof

/-- The `FCAUSE` a fault sets (09 R225). -/
def fcauseOf (i : FaultInfo) : Word :=
  i.num.setWidth 32 ||| (bitW i.sf <<< 5) ||| (i.acc.setWidth 32 <<< 6) ||| (bitW i.imp <<< 8) ||| (i.detail.setWidth 32 <<< 16)

/-- Class levels (09 R206). -/
def classOf (num : BitVec 5) : Nat :=
  if num = 7 ∨ num = 8 then 12 else if num = 14 then 14 else if num = 15 ∨ num = 17 then 15 else 13

/-! ### Undoing and settling -/

/-- Uncommitted instructions discarded (08 R198): the mispredicted path with its transfer, run-ahead, speculative entries. -/
def discard (g : Engine) : Engine :=
  let r := match g.wrong, g.ra with
    | some c, _ => c.before
    | none, some a => a.anchor
    | none, none => g.r
  let g1 := { g with r := r, wrong := none, ra := none, cps := 0, walk := none, wfault := none,
                     fence := none, gload := false, gerr := [], vprog := 0, anchor := none, waits := false,
                     vdirty := ((g.wrong.bind (·.vdirty)).orElse fun _ => g.ra.bind (·.vdirty)).getD g.vdirty,
                     prods := g.prods.filter (!·.spec),
                     div := g.div.bind fun d => if d.spec then none else some d }
  setFills (setSb g1 (g1.m.sb.filter (!·.spec))) (g1.m.fills.filter (·.st ≠ .failed))

/-- A long operation's fault is precise under STRICT, or when an `LFENCE` or `SYNC` waits; an `LFENCE` does not wait for a
product (06 R145). The STRICT that counts is that in effect as the result is written, also where an entry or `RETI` has changed it since the
issue (DESIGN CHOICE, log 21: 06 R145 does not say). -/
def precise (g : Engine) (product : Bool) : Bool :=
  g.r.sp.ctlEff.getLsbD 2 || g.fence == some true || (g.fence == some false && !product)

/-- A change to every copy of an engine's registers: the running ones, a checkpoint's and a run-ahead anchor's. -/
def onRegs (g : Engine) (f : Regs → Regs) : Engine :=
  { g with r := f g.r, wrong := g.wrong.map fun c => { c with before := f c.before, after := f c.after },
           ra := g.ra.map fun a => { a with anchor := f a.anchor } }

/-- Every product lands, in order (06 R141); a `MULV` overflow becomes a pending long-operation fault (06 R145). -/
def landAll (g : Engine) : Engine :=
  match g.prods.getLast? with
  | none => g
  | some p => { g with prods := [], r := { g.r with mlo := p.val.setWidth 32, mhi := fld p.val 32 32 },
                       longq := g.longq ++ ((g.prods.filter (·.ovf)).map fun q => ⟨q.id, 8, q.pc, precise g true⟩) }

/-- The TLBs emptied (11 R256). -/
def flushTlbs (g : Engine) : Engine := { g with m := { g.m with itlb := [], dtlb := [], tlb2 := [] } }

/-- Pending writes of 03 R77 take effect; those of the translation registers invalidate the TLBs (11 R256). -/
def applySync (g : Engine) : Engine :=
  let p := g.r.sp
  let g1 := { g with r := { g.r with sp := { p with
    dslimEff := p.dslim, rslimEff := p.rslim, ctlEff := p.ctl, xlt1Eff := p.xlt1, xlt2Eff := p.xlt2, xctlEff := p.xctl,
    xltPend := false } } }
  if p.xltPend then flushTlbs g1 else g1

/-- The TLB entries that `ENG.XINV` names leave: all for OP 1, those of INST for OP 2 (11 R257). -/
def tlbDrop (m : EngMem) (op : BitVec 2) (inst : BitVec 6) : EngMem :=
  let keep := fun (l : List TlbEntry) => if op = 1 then [] else if op = 2 then l.filter (·.inst ≠ inst.setWidth 7) else l
  { m with itlb := keep m.itlb, dtlb := keep m.dtlb,
           tlb2 := m.tlb2.foldl (fun t p => tset [] t p.1 (keep p.2)) m.tlb2 }

/-- An invalidation that waits for a boundary acts; `GO` clears when the stores committed before it have drained (11 R257). -/
def xinvAct (g : Engine) : Engine :=
  if !g.xwait then g
  else
    let n := (g.m.sb.filter (!·.spec)).length
    { g with m := tlbDrop g.m g.xop g.xinst, xwait := false, xleft := n, xgo := decide (0 < n) }

/-! ### Stops (09 R223, 19 R430) -/

/-- An engine stops: issue ends, committed stores stay, source 361, a log record. -/
def stopEngine (s : State) (e : Eng) (cause : Word) : State :=
  let g := xinvAct (discard (engGet s e))
  logPut (raiseStop (engPut s e { g with st := .stopped, lrPend := none }) e) 9 (some e.val) (some cause.toNat)

/-- A stop under 09 R223: the cause and resume address the entry would have set. A stage-2 fault that stops the engine is captured
in `ENG.FIPA` like any other (11 R258). -/
def stopLast (s : State) (e : Eng) (cause resume : Word) (fipa : Option Word) : State :=
  let s1 := stopEngine s e cause
  let g := engGet s1 e
  engPut s1 e { g with lrstop := true, stoppc := resume, stopcause := cause, fipa := fipa.getD g.fipa }

/-! ### Contexts and frames -/

/-- The bits of `STATUS` that describe the engine: SB1, LR, GOVF, OTHER, SBUSY (09 R219, R225). -/
def engineBits (s : State) (e : Eng) : Word :=
  let g := engGet s e
  (bitW (sb1Mode s e) <<< 2) ||| (bitW g.lr <<< 8) ||| (bitW g.govf <<< 9) ||| (bitW g.other.isSome <<< 10) |||
    (bitW g.spill.isSome <<< 11)

/-- The running context as its bank keeps it (09 R212); `hw` holds the engine's bits of its `STATUS` image. -/
def ctxOf (r : Regs) (resume : Word) (syll mv : Bool) (prevsel : BitVec 3) (dx rdx : Nat) (hw : Word) : Ctx :=
  { l := r.l, lnk := r.lnk, pc := resume, syll := syll, priv := r.priv, mask := r.mask, ovp := r.ovp, dsp := r.dsp, rsp := r.rsp,
    bnk := r.bnk, bsrc := r.bsrc, bdst := r.bdst, bcnt := r.bcnt, mlo := r.mlo, mhi := r.mhi, mv := mv, prevsel := prevsel,
    depthx := BitVec.ofNat 32 dx, rdepthx := BitVec.ofNat 32 rdx, ccnt := r.ds.length, rcnt := r.rs.length,
    hw := hw, net := some ((dx : Int) - depth r), stamp := r.stamp.getD 0 }

/-- The context a frame holds, none when it is malformed (09 R219); the bits of `STATUS` that describe the engine take their engine
values `hw`. -/
def frameCtx (ws : List Word) (hw : Word) : Option Ctx :=
  let w : Nat → Word := fun k => (ws[k]?).getD 0
  let st := w 18
  let ok := decide (ws.length = 32) && fld st 13 19 == 0 && fld (w 19) 0 5 == 0 && fld (w 20) 0 4 == 0 && fld (w 21) 8 24 == 0
    && fld st 0 2 != 3 && fld (w 28) 4 28 == 0 && (decide ((fld (w 28) 1 3).toNat < 4) || fld (w 28) 1 3 == 7)
    && fld (w 30) 6 10 == 0 && fld (w 30) 21 11 == 0 && fld (w 31) 16 16 == 0
    && decide ((fld (w 30) 0 6).toNat ≤ 32 ∧ (fld (w 30) 16 5).toNat ≤ 16)
  if ok then
    some { l := (List.range 16).foldl (fun t k => tset 0 t k (w k)) [], lnk := w 16, pc := w 17, syll := st.getLsbD 3,
           priv := fld st 0 2, mask := fld st 4 4, ovp := st.getLsbD 12, dsp := w 19, rsp := w 20, bnk := fld (w 21) 0 8,
           bsrc := w 22, bdst := w 23, bcnt := w 24, mlo := w 25, mhi := w 26, mv := (w 28).getLsbD 0, prevsel := fld (w 28) 1 3,
           depthx := w 27, rdepthx := w 29, ccnt := (fld (w 30) 0 6).toNat, rcnt := (fld (w 30) 16 5).toNat,
           hw := hw, net := none, stamp := fld (w 31) 0 16 }
  else none

/-! ### Entry through a gate (09 R211-R217) -/

def sspGet (g : Engine) (k : BitVec 2) : PAddr := tget 0 g.ssp k.toNat
def sspPut (g : Engine) (k : BitVec 2) (a : PAddr) : Engine := { g with ssp := tset 0 g.ssp k.toNat a }

/-- A refill in progress is cancelled (09 R219): its stack pointer returns, and PREVSEL names the stack again. -/
def cancelRefill (g : Engine) : Engine × BitVec 3 :=
  match g.refill with
  | some k => ({ sspPut g k (sspGet g k + 128) with refill := none }, k.setWidth 3)
  | none => (g, 7)

/-- What an entry's spill finds (09 R215-R217): no spill needed or possible, the buffer full, the state stack unusable. -/
inductive SpillChk where
  | fine | busy | over
  deriving DecidableEq, Repr

def spillChk (g : Engine) (k : BitVec 2) : SpillChk :=
  if g.other.isNone then .fine
  else if g.spill.isSome then .busy
  else
    let lim := tget 0 g.sslim k.toNat
    if lim = 0 ∨ lim.toNat < (sspGet g k).toNat + 128 then .over else .fine

/-- The oldest resident context moves to the spill buffer (09 R215). -/
def spillOther (g : Engine) (k : BitVec 2) : Engine :=
  match g.other with
  | none => g
  | some y => { sspPut g k (sspGet g k + 128) with other := none, spill := some ⟨y, sspGet g k, (g.m.sb.filter (!·.spec)).length, 0⟩ }

/-- The lot of an engine's instance as a stamp; unchanged for an engine of no instance (16 R376, log 13). -/
def currentStamp (s : State) (e : Eng) (old : Option Half) : Option Half :=
  match instOf s e with
  | some i => some (insGet s i).lot
  | none => old

/-- The greater of two privileges or mask levels. -/
def maxBV {w : Nat} (a b : BitVec w) : BitVec w := if a.ult b then b else a

/-- The SB1 marks of a gate's entry words (10 R237). -/
def entryMarks (w : Option EntryWords) : List Bool :=
  match w with
  | some x => [x.sb1a, x.sb1b]
  | none => []

/-- A handler's registers at its first instruction (09 R211, R212); predicted values become invalid (08 R181). -/
def handlerRegs (r : Regs) (d : Gate) (priv : BitVec 2) (mask : BitVec 4) (stamp : Option Half) : Regs :=
  { r with l := [], lnk := 0, pc := d.handler, syll := false, rpt := false, ent := entryMarks d.words, ovp := false, priv := maxBV priv d.priv,
           mask := maxBV mask d.masklvl, bnk := if d.sb1 then 0 else r.bnk, plink := none, prtop := none, stamp := stamp }

/-- Entry through gate d from a resume point, once its spill is known to be possible; `dx` is DEPTHX. -/
def enterGate (s : State) (e : Eng) (d : Gate) (resume : Word) (syll : Bool) (dx : Nat) : State :=
  let g0 := discard (engGet s e)
  let hw := engineBits (engPut s e g0) e
  let (g1, prev) := cancelRefill (landAll (xinvAct g0))
  let prev := if g1.other.isSome then d.sssel.setWidth 3 else prev
  let g2 := spillOther g1 d.sssel
  let c := ctxOf g2.r resume syll d.savemul prev dx (rdepth g2.r) hw
  let g3 := applySync { g2 with other := some c, bank := !g2.bank, st := .running,
                                r := handlerRegs g2.r d g2.r.priv g2.r.mask (currentStamp s e g2.r.stamp) }
  engCount (engPut s e g3) e 7

/-- A new `MASK` travels to the Gatherer (10 R233). -/
def reportMask (s : State) (e : Eng) : State :=
  let g := engGet s e
  engPut s e { g with repq := g.repq ++ [.mask g.r.mask] }

/-- The fault registers take a fault's values (09 R206, R211). -/
def faultRegs (s : State) (e : Eng) (i : FaultInfo) : State :=
  let g := engGet s e
  let p := g.r.sp
  engPut s e { g with fipa := i.fipa.getD g.fipa, r := { g.r with sp := { p with
    fcause := fcauseOf i, faddr := i.faddr.getD p.faddr, longpc := i.longpc.getD p.longpc, lbeaddr := i.lbeaddr.getD p.lbeaddr } } }

/-! ### Escalation (09 R221) -/

/-- A last-resort entry becomes due; the engine issues nothing until LAST_RESORT_ENTRY carries it out. -/
def escalate (s : State) (e : Eng) (reason : BitVec 4) (gate : Nat) (i : Option FaultInfo) (source : BitVec 9) (resume : Word)
    (syll : Bool) (dx : Nat) : State :=
  let g := xinvAct (discard (engGet s e))
  let p := g.r.sp
  let q : LrReq :=
    { reason := reason, gate := BitVec.ofNat 10 gate, num := (i.map (·.num)).getD 0,
      fcause := (i.map fcauseOf).getD p.fcause, faddr := (i.bind (·.faddr)).getD p.faddr,
      longpc := (i.bind (·.longpc)).getD p.longpc, lbeaddr := (i.bind (·.lbeaddr)).getD p.lbeaddr,
      source := source, resume := resume, syll := syll, dx := dx }
  engPut s e { g with lrPend := some q, st := .running, fipa := (i.bind (·.fipa)).getD g.fipa }

/-- A fault's entry is held at commit: it needs a spill and the spill buffer is full (09 R216). -/
def faultHeld (g : Engine) (i : FaultInfo) : Bool :=
  !g.lr && decide (g.r.mask.toNat < classOf i.num) && (tfind g.gates i.num.toNat).any fun d => spillChk g d.sssel == .busy

/-- Takes a fault with its resume point: a stop under LR, an escalation, a hold while the spill buffer is full, or the entry
(09 R210, R211, R216, R217, R221, R223). -/
def takeFault (s : State) (e : Eng) (i : FaultInfo) (resume : Word) (syll : Bool) : State :=
  let g := discard (engGet s e)
  if g.lr then stopLast s e (fcauseOf i) resume i.fipa
  else if classOf i.num ≤ g.r.mask.toNat then escalate s e 1 i.num.toNat (some i) 0 resume syll (depth g.r)
  else match tfind g.gates i.num.toNat with
    | none => escalate s e 3 i.num.toNat (some i) 0 resume syll (depth g.r)
    | some d =>
      match spillChk g d.sssel with
      | .busy => s
      | .over => escalate s e 2 i.num.toNat (some i) 0 resume syll (depth g.r)
      | .fine => reportMask (enterGate (faultRegs (engPut s e g) e i) e d resume syll (depth g.r)) e

end Sys2Proof.Machine
end

