-- ==== Sys2Proof/Machine/Gather.lean ====
section
/-! DEFINITION. The Gatherer's operations: releases, eligibility, presentation, withdrawal and reports (10 R228-R233), and how they
meet the engine.
What is DEDUCED or a DESIGN CHOICE here is said in notes/assumptions, log 9. -/

namespace Sys2Proof.Machine

open Sys2Proof

/-- An external source with SENSE 0 or 1 (10 R228). -/
def isLevel (n : Nat) (x : Source) : Bool := decide (1 ≤ n ∧ n ≤ 256) && (x.sense == 0 || x.sense == 1)

/-- A source's synchronised input, in its asserted sense (10 R245 INPUT). -/
def asserted (s : State) (n : Nat) : Bool :=
  let x := srcGet s n
  isLevel n x && (s.evg.input.getLsbD (n - 1) == (x.sense == 0))

/-- `EVG.PEND.INPUT` (10 R245): the synchronised input in its asserted sense, which for SENSE 1 is low. Edge sources have no asserted
sense: for SENSE 2-4 the bit is the input's high level (DESIGN CHOICE, log 9). -/
def inputBit (s : State) (n : Nat) : Bool :=
  decide (1 ≤ n ∧ n ≤ 256) && (s.evg.input.getLsbD (n - 1) == ((srcGet s n).sense != 1))

/-- A level source whose input is deasserted leaves service (10 R230). -/
def levelOut (s : State) (n : Nat) : State :=
  let x := srcGet s n
  if isLevel n x && x.insvc && !asserted s n then srcPut s n { x with insvc := false } else s

/-- Releases of a source reserved for engines. -/
def reserved (s : State) (n : Nat) : Nat :=
  (s.evg.eng.map fun p => p.2.resv.count (BitVec.ofNat 9 n)).sum

/-- One release: COUNT, or OVF when it is saturated (10 R229). -/
def release (s : State) (n : Nat) : State :=
  let x := srcGet s n
  if x.count = 0xFFFF#16 then pmuAdd (fresh (srcPut s n { x with ovf := true }) (pendAddr n) 26) 590 1
  else pmuAdd (srcPut s n { x with count := x.count + 1 }) 584 1

/-- The batch in progress becomes one release. -/
def endBatch (s : State) (n : Nat) : State :=
  let s1 := srcPut s n { srcGet s n with acc := 0, timer := 0 }
  release { s1 with cyc := { s1.cyc with batches := n :: s1.cyc.batches } } n

/-- One occurrence of a source (10 R229): discarded while EN is 0; part of the batch that the cycle has released, but with CCOUNT 1 every
occurrence is a release. -/
def occur (s : State) (n : Nat) : State :=
  let x := srcGet s n
  if !x.en then s
  else if x.ccount = 0 then release s n
  else if x.ccount ≠ 1 ∧ s.cyc.batches.contains n then s
  else
    let a := x.acc + 1
    if x.ccount.toNat ≤ x.acc.toNat + 1 then endBatch s n
    else srcPut s n { x with acc := a, timer := if x.acc = 0 then 0 else x.timer }

/-- The batch check after CCOUNT or CTIME changed, or a tick (10 R229); EN does not matter to it (DEDUCED, log 9). -/
def batchCheck (s : State) (n : Nat) : State :=
  let x := srcGet s n
  if !isLevel n x ∧ x.acc ≠ 0 ∧ (x.ccount.toNat ≤ x.acc.toNat ∨ (x.ctime ≠ 0 ∧ x.ctime.toNat ≤ x.timer.toNat)) then endBatch s n else s

/-- An engine can be presented to: it exists and is not stopped (10 R231); a retired one is withdrawn from (17 R400). -/
def presentable (s : State) (e : Eng) : Bool :=
  let g := engGet s e
  engExists s e.val && g.st != .stopped && !g.retired

/-- A source's EN, TARGET and PRIO allow its releases to go to e under the mask shadow (10 R231). -/
def allows (s : State) (e : Eng) (n : Nat) : Bool :=
  let x := srcGet s n
  x.en && x.target.getLsbD e.val && decide ((evgEng s e.val).shadow.toNat < x.prio.toNat) && presentable s e

/-- A release of source n not reserved for any engine is pending (10 R231). -/
def pendingRelease (s : State) (n : Nat) : Bool :=
  let x := srcGet s n
  if isLevel n x then x.en && asserted s n && !x.insvc && reserved s n == 0
  else decide (reserved s n < x.count.toNat)

/-- The highest release eligible for e: its source and priority; the lowest ID among equals (10 R231). -/
def best (s : State) (e : Eng) : Option (Nat × BitVec 4) :=
  s.evg.src.foldl (fun b p =>
    if allows s e p.1 && pendingRelease s p.1 then
      match b with
      | some (_, q) => if q.ult p.2.prio then some (p.1, p.2.prio) else b
      | none => some (p.1, p.2.prio)
    else b) none

/-- A priority above what e is presented with. -/
def aboveHeld (s : State) (e : Eng) (q : BitVec 4) : Bool :=
  match (evgEng s e.val).pres with
  | some (_, p) => p.ult q
  | none => true

/-- Source n would be offered to e: it is e's highest, above e's presentation. -/
def wants (s : State) (e : Eng) (n : Nat) : Bool :=
  match best s e with
  | some (m, q) => m == n && aboveHeld s e q
  | none => false

/-- The engine source n is offered to: the first after the one it was last offered to (10 R231). -/
def offered (s : State) (n : Nat) : Option Eng :=
  ((List.range 64).map fun k => (Fin.ofNat 64 ((srcGet s n).last + 1 + k) : Eng)).find? fun e => wants s e n

/-- A report from the engine joins its ordered queue (10 R232). -/
def report (s : State) (e : Eng) (x : Report) : State :=
  let g := engGet s e
  engPut s e { g with repq := g.repq ++ [x] }

/-- The Gatherer presents source n to e (10 R231, R232): the release is reserved, an earlier presentation is replaced, and
a `WAITE` that it ends wakes (05 R121). -/
def present (s : State) (e : Eng) (n : Nat) (q : BitVec 4) : State :=
  let id := BitVec.ofNat 9 n
  let x := evgEng s e.val
  let s1 := srcPut (evgEngPut s e.val { x with pres := some (id, q), resv := x.resv ++ [id] }) n { srcGet s n with last := e.val }
  let s2 := if x.pres.isSome then pmuAdd s1 589 1 else s1
  let g := engGet s2 e
  let s3 := match g.held with
    | some h => report s2 e (.released h.src)
    | none => s2
  let g3 := engGet s3 e
  engPut s3 e { g3 with held := some ⟨id, q⟩, st := if g3.st = .sleeping ∧ g3.r.mask.ult q then .running else g3.st }

/-- The Gatherer withdraws e's presentation; the engine reports RELEASED as it reaches it (10 R232). -/
def withdraw (s : State) (e : Eng) : State :=
  let x := evgEng s e.val
  match x.pres with
  | none => s
  | some _ =>
    let s1 := pmuAdd (evgEngPut s e.val { x with pres := none }) 589 1
    let g := engGet s1 e
    match g.held with
    | some h => engPut s1 e { g with held := none, repq := g.repq ++ [.released h.src] }
    | none => s1

/-- The presentation of e may stay: its release is still eligible (10 R232), and the priority it was presented at is above the shadow
(10 R233). -/
def staysPresented (s : State) (e : Eng) : Bool :=
  match (evgEng s e.val).pres with
  | none => true
  | some (id, q) =>
    let n := id.toNat
    allows s e n && decide ((evgEng s e.val).shadow.toNat < q.toNat) && (!isLevel n (srcGet s n) || asserted s n)

/-- Every presentation of source n withdrawn (10 R232). -/
def withdrawSource (s : State) (n : Nat) : State :=
  (List.finRange 64).foldl (fun s e =>
    match (evgEng s e.val).pres with
    | some (id, _) => if id.toNat = n then withdraw s e else s
    | none => s) s

/-- The Gatherer settles a report (10 R232). A level source whose input has deasserted by then is not in service (10 R230). -/
def settle (s : State) (e : Eng) (r : Report) : State :=
  let x := evgEng s e.val
  match r with
  | .mask m => evgEngPut s e.val { x with shadow := m }
  | .released id =>
    pmuAdd (evgEngPut s e.val { x with resv := x.resv.erase id, pres := if x.pres.any (·.1 == id) && x.resv.count id ≤ 1 then none else x.pres }) 586 1
  | .consumed id m =>
    let n := id.toNat
    let s1 := evgEngPut s e.val { x with resv := x.resv.erase id, claims := x.claims + 1, shadow := m,
                                         pres := if x.pres.any (·.1 == id) then none else x.pres }
    let y := srcGet s1 n
    pmuAdd (srcPut s1 n (if isLevel n y then { y with insvc := asserted s1 n } else { y with count := if y.count = 0 then 0 else y.count - 1 })) 585 1

/-- An entry of e through gate 1023 (09 R205): `EVG.SPUR` and its counter. -/
def spurCount (s : State) (e : Eng) : State :=
  pmuAdd (evgEngPut s e.val { evgEng s e.val with spur := satAdd (evgEng s e.val).spur 1 }) 587 1

/-- COUNT, ACC and the timer cleared, presentations withdrawn (10 R245 CLR, 16 R378). -/
def clearSource (s : State) (n : Nat) : State :=
  withdrawSource (srcPut s n { srcGet s n with count := 0, acc := 0, timer := 0 }) n

end Sys2Proof.Machine
end

