-- ==== Sys2Proof/Machine/Flags.lean ====
section
/-! DEFINITION. Arithmetic results and OVERFLOW conditions (03 R79, R80), at 32 bits and, in SB1 mode, at 16 (03 R71). The
engine has no flags: OVERFLOW and DIVZERO are the only conditions arithmetic reports. -/

namespace Sys2Proof.Machine

open Sys2Proof

/-- A two-operand operation at the width of the mode; a 16-bit result is sign-extended (03 R71). -/
def wide2 (sb1 : Bool) (f : (w : Nat) → BitVec w → BitVec w → BitVec w) (a b : Word) : Word :=
  if sb1 then (f 16 (a.setWidth 16) (b.setWidth 16)).signExtend 32 else f 32 a b

/-- A one-operand operation at the width of the mode. -/
def wide1 (sb1 : Bool) (f : (w : Nat) → BitVec w → BitVec w) (a : Word) : Word :=
  if sb1 then (f 16 (a.setWidth 16)).signExtend 32 else f 32 a

/-- A comparison at the width of the mode. -/
def wideCmp (sb1 : Bool) (f : (w : Nat) → BitVec w → BitVec w → Bool) (a b : Word) : Bool :=
  if sb1 then f 16 (a.setWidth 16) (b.setWidth 16) else f 32 a b

def addW (w : Nat) (a b : BitVec w) : BitVec w := a + b
def subW (w : Nat) (a b : BitVec w) : BitVec w := a - b
def andW (w : Nat) (a b : BitVec w) : BitVec w := a &&& b
def orW (w : Nat) (a b : BitVec w) : BitVec w := a ||| b
def xorW (w : Nat) (a b : BitVec w) : BitVec w := a ^^^ b
def notW (w : Nat) (a : BitVec w) : BitVec w := ~~~a
def negW (w : Nat) (a : BitVec w) : BitVec w := 0 - a

/-- Shifts by an unsigned count: 0, or the sign, from the width up (03 R80). -/
def shlBy (w : Nat) (a : BitVec w) (n : Nat) : BitVec w := if n < w then a <<< n else 0
def shrBy (w : Nat) (a : BitVec w) (n : Nat) : BitVec w := if n < w then a >>> n else 0
def sarBy (w : Nat) (a : BitVec w) (n : Nat) : BitVec w :=
  if n < w then a.sshiftRight n else if a.msb then BitVec.allOnes w else 0
def rolBy (w : Nat) (a : BitVec w) (n : Nat) : BitVec w := a.rotateLeft (n % w)
def rorBy (w : Nat) (a : BitVec w) (n : Nat) : BitVec w := a.rotateRight (n % w)

def shlW (w : Nat) (a b : BitVec w) : BitVec w := shlBy w a b.toNat
def shrW (w : Nat) (a b : BitVec w) : BitVec w := shrBy w a b.toNat
def sarW (w : Nat) (a b : BitVec w) : BitVec w := sarBy w a b.toNat
def rolW (w : Nat) (a b : BitVec w) : BitVec w := rolBy w a b.toNat
def rorW (w : Nat) (a b : BitVec w) : BitVec w := rorBy w a b.toNat

/-- The comparisons of 03 R79. -/
def eqW (w : Nat) (a b : BitVec w) : Bool := a == b
def neW (w : Nat) (a b : BitVec w) : Bool := a != b
def ltW (w : Nat) (a b : BitVec w) : Bool := a.slt b
def geW (w : Nat) (a b : BitVec w) : Bool := !a.slt b
def ltuW (w : Nat) (a b : BitVec w) : Bool := a.ult b
def geuW (w : Nat) (a b : BitVec w) : Bool := !a.ult b

/-- The true signed value lies outside the width's range (03 R80). -/
def outside (w : Nat) (x : Int) : Bool := decide (x < -(2 ^ (w - 1)) ∨ 2 ^ (w - 1) - 1 < x)

/-- OVERFLOW of `ADDV`, `SUBV` and `NEG` (03 R80). -/
def addvOvf (a b : Word) : Bool := outside 32 (a.toInt + b.toInt)
def subvOvf (a b : Word) : Bool := outside 32 (a.toInt - b.toInt)
def negOvf (w : Nat) (a : BitVec w) : Bool := outside w (-a.toInt)

/-- The 64-bit products (03 R80). -/
def mulS (a b : Word) : BitVec 64 := a.signExtend 64 * b.signExtend 64
def mulU (a b : Word) : BitVec 64 := a.setWidth 64 * b.setWidth 64
/-- OVERFLOW of `MULV`: the product lies outside 32 signed bits. -/
def mulvOvf (a b : Word) : Bool := outside 32 (a.toInt * b.toInt)

/-- Quotients and remainders of 03 R80, and OVERFLOW of `DIV`. -/
def divS (a b : Word) : Word := if b = 0 then 0xFFFFFFFF#32 else BitVec.ofInt 32 (a.toInt.tdiv b.toInt)
def divU (a b : Word) : Word := if b = 0 then 0xFFFFFFFF#32 else BitVec.ofNat 32 (a.toNat / b.toNat)
def remS (a b : Word) : Word := if b = 0 then a else BitVec.ofInt 32 (a.toInt.tmod b.toInt)
def remU (a b : Word) : Word := if b = 0 then a else BitVec.ofNat 32 (a.toNat % b.toNat)
def divOvf (a b : Word) : Bool := a == 0x80000000#32 && b == 0xFFFFFFFF#32

end Sys2Proof.Machine
end

