-- ==== Sys2Proof/Machine/Operands.lean ====
section
/-! DEFINITION. The operand forms of the instruction words (04 R84, R85): places, immediates, offsets and targets, and the
operand bits that are reserved (04 R87-R90). -/

namespace Sys2Proof.Machine

open Sys2Proof

/-- The first syllable of a word (04 R84). -/
def Place.isFirst : Place → Bool
  | .first _ => true
  | _ => false

def sylPlace : Syl → Place
  | .first _ r => .first r
  | .second _ => .second

def sylOpnd : Syl → BitVec 8
  | .first o _ => o
  | .second o => o

def formPlace : Form → Place
  | .long _ => .long
  | .first _ r => .first r
  | .second _ => .second

/-- A signed immediate: 24 or 8 bits. -/
def formImm : Form → Word
  | .long o => o.signExtend 32
  | .first o _ => o.signExtend 32
  | .second o => o.signExtend 32

/-- A data-space offset: a long one in bytes, a short one scaled by the access size (04 R85). -/
def formOff (f : Form) (size : Nat) : Word :=
  match f with
  | .long o => o.signExtend 32
  | .first o _ => o.signExtend 32 * BitVec.ofNat 32 size
  | .second o => o.signExtend 32 * BitVec.ofNat 32 size

def bPlace : BForm → Place
  | .long _ => .long
  | .second _ => .second

/-- A transfer target: A + 4 × the signed offset (04 R85). -/
def bTarget (b : BForm) (a : Word) : Word :=
  match b with
  | .long o => a + 4 * o.signExtend 32
  | .second o => a + 4 * o.signExtend 32

/-- Code 9 of 04 R96 when an operand bit from bit `lo` up is 1. -/
def reservedFrom {w : Nat} (o : BitVec w) (lo : Nat) : Option (BitVec 8) := if o.toNat < 2 ^ lo then none else some 9

/-- A syllable whose operand bits from `lo` up are reserved. -/
def sylRes (y : Syl) (lo : Nat) : Option (BitVec 8) := reservedFrom (sylOpnd y) lo

/-- The reserved operand of `RET` in either form. -/
def bRes : BForm → Option (BitVec 8)
  | .long o => reservedFrom o 0
  | .second o => reservedFrom o 0

/-! ### Reserved encodings of a paired word (04 R90, R94, R96) -/

/-- Short opcodes that 04 R90 names. -/
def shortNamed (op : Nat) : Bool :=
  decide (op ≤ 0x06 ∨ (0x10 ≤ op ∧ op ≤ 0x1E) ∨ (0x20 ≤ op ∧ op ≤ 0x2A) ∨ op = 0x30 ∨ op = 0x31 ∨ op = 0x34 ∨
    (0x40 ≤ op ∧ op ≤ 0x44) ∨ (0x48 ≤ op ∧ op ≤ 0x4A) ∨ (0x50 ≤ op ∧ op ≤ 0x59) ∨ (0x60 ≤ op ∧ op ≤ 0x64))

/-- The SB1 subset (04 R90). -/
def shortSb1 (op : Nat) : Bool :=
  decide (op ≤ 0x06 ∨ op = 0x10 ∨ op = 0x11 ∨ (0x14 ≤ op ∧ op ≤ 0x1D) ∨ (0x20 ≤ op ∧ op ≤ 0x22) ∨ op = 0x30 ∨ op = 0x31 ∨
    op = 0x34 ∨ op = 0x40 ∨ op = 0x41 ∨ op = 0x44 ∨ op = 0x48 ∨ op = 0x4A ∨ (0x50 ≤ op ∧ op ≤ 0x59) ∨ (0x60 ≤ op ∧ op ≤ 0x64))

/-- Class B among the short opcodes (04 R94). -/
def shortXfer (op : Nat) : Bool := decide ((0x50 ≤ op ∧ op ≤ 0x59) ∨ op = 0x60)

/-- How many low operand bits a short opcode uses. -/
def shortUsed (op : Nat) : Nat :=
  if op = 0x06 ∨ op = 0x1E ∨ op = 0x34 ∨ (0x40 ≤ op ∧ op ≤ 0x59) then 8
  else if 0x20 ≤ op ∧ op ≤ 0x23 then 5
  else if op = 0x30 ∨ op = 0x31 then 4
  else 0

/-- The lowest reason code among those whose condition holds. -/
def lowestCode (l : List (Bool × Nat)) : Option (BitVec 8) := (l.find? (·.1)).map fun p => BitVec.ofNat 8 p.2

/-- A short operand with a reserved bit at 1. -/
def shortBad (op : Nat) (o : BitVec 8) : Bool := decide (2 ^ shortUsed op ≤ o.toNat)

end Sys2Proof.Machine
end

