-- ==== Sys2Proof/Machine/Issue.lean ====
section
/-! DEFINITION. Issue and commit: when an instruction command can act, its encoding check (04 R96), completion of a syllable or word
(04 R95, 03 R81), run-ahead (08 R187-R190), and transfers with their prediction (08 R181-R184).
What is DEDUCED or a DESIGN CHOICE here is said in notes/assumptions, log 1, 2, 4 and 21. -/

namespace Sys2Proof.Machine

open Sys2Proof

/-- What a command comes to. -/
abbrev Out := Host.Outcome State Fault Refusal

/-! ### Faults named -/

def illegal (r : Regs) (code : BitVec 8) : FaultInfo := { num := 1, detail := code, faddr := some r.pc }
def privilege (r : Regs) (detail : BitVec 8) : FaultInfo := { num := 2, detail := detail, faddr := some r.pc }
def alignFault (detail : BitVec 8) (a : Word) : FaultInfo := { num := 6, detail := detail, faddr := some a }

/-! ### Holds -/

/-- The next syllable or word begins at an instruction boundary (04 R95). -/
def atBoundary (r : Regs) : Bool := !r.syll || r.rpt

/-- A fault that a boundary takes is pending (09 R209). -/
def boundaryFault (g : Engine) : Bool := !g.mcheck.isEmpty || g.wdog || g.lbe.isSome || !g.longq.isEmpty

/-- `ENG.CTL.STRICT` holds issue after a divide or a `MULV` (06 R145 item 4). -/
def strictHold (g : Engine) : Bool := g.r.sp.ctlEff.getLsbD 2 && (g.div.isSome || g.prods.any (·.mulv))

/-- A presentation waits to be claimed (10 R234). -/
def claimWaits (g : Engine) : Bool := g.held.any fun h => g.r.mask.ult h.prio

/-- The engine issues instructions now: its clock runs, it is running, no entry, `IN`, boundary fault or end of run-ahead comes
first. -/
def canRun (s : State) (g : Engine) : Bool :=
  eclkOn s && g.st == .running && g.lrPend.isNone && !(g.io.any (·.isIn)) && !(atBoundary g.r && boundaryFault g) &&
    !strictHold g && g.ra.all (!·.ended)

/-- The instruction stands where the engine is (04 R84): a second syllable, or the start of a word. -/
def atPlace (g : Engine) (p : Place) : Bool := (p == .second) == g.r.syll

/-- The window or the log has no room for an instruction that makes `log` entries (08 R174, R179, R182). -/
def windowFull (g : Engine) (log : Nat) : Bool :=
  g.ra.any (fun a => decide (32 < a.logged + log)) ||
    match g.wrong with
    | some c => decide (24 ≤ c.count ∨ 32 < c.logged + log)
    | none => false

/-- An instruction joins the window of a path found mispredicted. -/
def windowAdd (g : Engine) (log : Nat) : Engine :=
  { g with wrong := g.wrong.map fun c => { c with count := c.count + 1, logged := c.logged + log } }

/-! ### Run-ahead (08 R188, R189) -/

/-- Run-ahead ends; RUN_AHEAD_END undoes it. -/
def raEnd (s : State) (e : Eng) : State :=
  let g := engGet s e
  engPut s e { g with ra := g.ra.map fun a => { a with ended := true } }

/-- One instruction of run-ahead has issued, with its log entries (08 R182); the anchor itself is the first, the 64th after it ends run-ahead. -/
def raCount (s : State) (e : Eng) (log : Nat) : State :=
  let g := engGet s e
  engPut s e { g with ra := g.ra.map fun a => { a with count := a.count + 1, logged := a.logged + log, ended := a.ended || decide (64 ≤ a.count) } }

/-! ### Encoding -/

/-- The reason code that a command's word raises ILLEGAL with, if any (04 R96). `code` is the instruction's own; at a first syllable
the whole word is judged, so that its lowest code is the one reported. -/
def encCode (s : State) (e : Eng) (p : Place) (sb1ok : Bool) (code : Option (BitVec 8)) : Option (BitVec 8) :=
  let b := sb1Mode s e
  match p with
  | .long => if b then some 1 else code
  | .second => if b && !sb1ok then some 4 else code
  | .first rest =>
    let o2 := rest.toNat / 256 % 128
    lowestCode [(!shortNamed o2, 3), (b && (!sb1ok || !shortSb1 o2), 4), (rest.getLsbD 15, 5),
      (code.isSome || shortBad o2 (rest.setWidth 8), 9)]

/-! ### Completion -/

/-- The registers at the next syllable or word; `b` is the word's mode, `t` a transfer's target. A long word is native (04 R96). -/
def nextRegs (r : Regs) (p : Place) (b : Bool) (t : Option Word) : Regs :=
  match p with
  | .first _ => { r with syll := true, rpt := false, wsb1 := b }
  | _ => { r with pc := t.getD (r.pc + 4), syll := false, rpt := false, wsb1 := p == .second && b, ent := if t.isNone then r.ent.drop 1 else [] }

/-- OVERFLOW, taken after its word (03 R81). -/
def overflow (word : Word) : FaultInfo := { num := 8, faddr := some word }

/-- An instruction commits: its counter, an invalidation that waits for a boundary, and OVERFLOW after the word (03 R81). OVP may
also have been set by a `SETC` of STATUS in the running context: the word whose second position commits next then raises OVERFLOW
(DESIGN CHOICE, log 22). -/
def commit (s : State) (e : Eng) (p : Place) (word : Word) : State :=
  let s0 := engCount s e 1
  let s1 := if p.isFirst then s0 else engPut s0 e (xinvAct (engGet s0 e))
  let r := regGet s1 e
  if p = .second ∧ r.ovp then takeFault (regPut s1 e { r with ovp := false }) e (overflow word) r.pc false
  else s1

/-- The commit must wait: it would take OVERFLOW, whose entry needs the spill buffer (09 R216). -/
def commitHeld (g : Engine) (p : Place) : Bool := !speculative g && p == .second && g.r.ovp && faultHeld g (overflow 0)

/-- The spills of an instruction leave their speculative state as it commits, or as a later step of it faults (08 R180, 05 R98);
they are captured in the journal (15 R349). -/
def commitSpills (s : State) (e : Eng) : Ans Unit :=
  let g := engGet s e
  if speculative g || g.m.sb.all (!·.spec) then .ok s ()
  else match captureAll s e ((g.m.sb.filter (·.spec)).map fun x => (linePA x.line, maskBytes x.data x.mask)) with
    | some s1 =>
      let g1 := engGet s1 e
      .ok (engPut s1 e (setSb g1 (g1.m.sb.map fun x => { x with spec := false }))) ()
    | none => .hold (captureHeld s)

/-- An instruction that holds has not performed: the stack moves of its step 3 and their entries are undone (08 R180, R198); what
else it has done by then stays (requested lines, walks, completed iterations and elements, words that bank slots have served). -/
def holdBack (s s2 : State) (e : Eng) : State :=
  let g := engGet s e
  let g2 := engGet s2 e
  let n := g.m.sb.length
  slotsKept s s2 (engPut s2 e (setSb { g2 with r := { g2.r with ds := g.r.ds, dsp := g.r.dsp, rs := g.r.rs, rsp := g.r.rsp } }
    (g.m.sb ++ (g2.m.sb.drop n).filter (!·.spec))))

/-- Completion of an instruction. In run-ahead, and on a mispredicted path, only the registers move on; in run-ahead a word that would raise
OVERFLOW ends it (08 R189). `log` is the number of
registers it writes that take an entry of the speculative-write log (08 R182). -/
def finish (s : State) (e : Eng) (p : Place) (log : Nat) (t : Option Word) : State :=
  let g := engGet s e
  let s1 := engPut s e { g with r := nextRegs g.r p (sb1Mode s e) t, waits := false }
  if g.ra.isSome then (if !p.isFirst && g.r.ovp then raEnd s e else raCount s1 e log)
  else if g.wrong.isSome then engPut s1 e (windowAdd (engGet s1 e) log)
  else commit s1 e p g.r.pc

/-- A fault of an instruction: on a mispredicted path it is none yet, it ends run-ahead, and else it is taken as the instruction
commits, with the fills and spills of step 3 kept (05 R98), unless its entry must wait for the spill buffer (09 R216). -/
def instrFault (s s2 : State) (e : Eng) (p : Place) (i : FaultInfo) : State :=
  let g := engGet s e
  if g.ra.isSome then raEnd s e
  else if g.wrong.isSome then s
  else match commitSpills s2 e with
    | .ok s3 _ => if faultHeld (discard (engGet s3 e)) i then slotsBack s s2 else takeFault s3 e i g.r.pc (p == .second)
    | _ => captureHeld (slotsBack s s2)

/-- ILLEGAL for a word or syllable (04 R97): with syllable position 0. A second syllable reaches here only at a position-1 resume
point: elsewhere its word was judged at its first syllable. -/
def instrIllegal (s : State) (e : Eng) (p : Place) (c : BitVec 8) : State :=
  let g := engGet s e
  if g.ra.isSome then raEnd s e
  else if g.wrong.isSome || (p == .second && !g.r.rpt) || faultHeld (discard g) (illegal g.r c) then s
  else takeFault s e (illegal g.r c) g.r.pc false

/-- The holds before an instruction of the place is judged (08 R179): `ser` marks one that never performs speculatively (08 R186),
`mem` a memory-class one, which waits for an earlier `OUT` (05 R109), `log` its log entries. -/
def issueHeld (g : Engine) (ser mem : Bool) (log : Nat) : Bool :=
  (mem && g.io.isSome) || (ser && g.wrong.isSome) || windowFull g log

/-- In run-ahead no predictor moves (08 R188): those of `s` stand in t. -/
def predKeep (s t : State) (e : Eng) : State :=
  let r := regGet s e
  let h := engGet t e
  if h.ra.isSome then engPut t e { h with r := { h.r with ghist := r.ghist, plink := r.plink, prtop := r.prtop } } else t

/-- An instruction issues (05 R98). `body` does steps 2 to 6, `fin` the completion; `bad` moves run-ahead past an instruction whose
input is invalid. -/
def issueAny {α : Type} (s : State) (e : Eng) (p : Place) (ser mem sb1ok : Bool) (log : Nat) (code : Option (BitVec 8))
    (body : State → Ans α) (fin : State → α → State) (bad : State → State) : Out :=
  let g := engGet s e
  .next (
    if !canRun s g || !atPlace g p then s
    else if ser && g.ra.isSome then raEnd s e
    else if issueHeld g ser mem log then s
    else match fetchAt s e with
      | .ok s1 _ =>
        match encCode s1 e p sb1ok code with
        | some c => instrIllegal s1 e p c
        | none =>
          match body s1 with
          | .ok s2 a =>
            if commitHeld (engGet s2 e) p then slotsBack s1 s2
            else match commitSpills s2 e with
              | .ok s3 _ => predKeep s1 (fin s3 a) e
              | _ => captureHeld (slotsBack s1 s2)
          | .hold s2 => holdBack s1 s2 e
          | .inv s2 => predKeep s1 (bad s2) e
          | .fault s2 i => instrFault s1 s2 e p i
      | .hold s1 => s1
      | .inv _ => s
      | .fault _ _ => s)

/-- An instruction that completes in its own way. -/
def issueWith {α : Type} (s : State) (e : Eng) (p : Place) (ser mem sb1ok : Bool) (code : Option (BitVec 8))
    (body : State → Ans α) (fin : State → α → State) : Out :=
  issueAny s e p ser mem sb1ok 0 code body fin fun s' => finish s' e p 0 none

/-- An instruction that goes on to the next syllable or word, and writes `log` logged registers. -/
def issueLog (s : State) (e : Eng) (p : Place) (ser mem sb1ok : Bool) (log : Nat) (code : Option (BitVec 8))
    (body : State → Ans (Option Word)) : Out :=
  issueAny s e p ser mem sb1ok log code body (fun s' t => finish s' e p log t) fun s' => finish s' e p log none

/-- An instruction that goes on to the next syllable or word. -/
def issue (s : State) (e : Eng) (p : Place) (ser mem sb1ok : Bool) (code : Option (BitVec 8))
    (body : State → Ans (Option Word)) : Out := issueLog s e p ser mem sb1ok 0 code body

/-! ### Transfers -/

/-- Kinds of transfer, by what predicts them (08 R181, R182). -/
inductive XKind where
  | direct | cond | ret | indirect
  deriving DecidableEq, Repr

/-- The direction predictor's index (08 R181). -/
def dirIndex (pc : Word) (h : BitVec 12) : Nat := (fld pc 2 12 ^^^ h).toNat

/-- The target the buffer holds for a transfer. -/
def tbFind (m : EngMem) (pc : Word) : Option Word :=
  ((tget [] m.tbuf (fld pc 2 7).toNat).find? fun x => x.tag == fld pc 9 23).map (·.target)

/-- A transfer's prediction: taken or not, and the next word. None: it resolves at once. -/
def predict (g : Engine) (k : XKind) (target : Word) : Option (Bool × Word) :=
  match k with
  | .direct => none
  | .cond =>
    if (tget 1 g.m.dirp (dirIndex g.r.pc g.r.ghist)).toNat ≥ 2 then some (true, target) else some (false, g.r.pc + 4)
  | .ret => (match g.r.plink with | some a => some a | none => g.r.rs.head?).map (true, ·)
  | .indirect => (tbFind g.m g.r.pc).map (true, ·)

/-- The predictors at a transfer's commit (08 R181): the counter of a conditional branch, and the target buffer, which keeps 4
ways, when `tb`. -/
def predUpdate (m : EngMem) (pc : Word) (h : BitVec 12) (cond : Option Bool) (tb : Bool) (target : Word) : EngMem :=
  let m1 := match cond with
    | none => m
    | some t =>
      let k := dirIndex pc h
      let c := tget 1 m.dirp k
      { m with dirp := tset 1 m.dirp k (if t then (if c = 3 then 3 else c + 1) else (if c = 0 then 0 else c - 1)) }
  if tb then
    let k := (fld pc 2 7).toNat
    let x : TbEntry := ⟨fld pc 9 23, target⟩
    { m1 with tbuf := tset [] m1.tbuf k ((x :: (tget [] m1.tbuf k).filter fun y => y.tag != x.tag).take 4) }
  else m1

/-- The global history with an outcome (08 R181). -/
def histPush (h : BitVec 12) (t : Bool) : BitVec 12 := (h <<< 1) ||| (if t then 1 else 0)

/-- The registers after a transfer that takes `t` as its outcome and `a` as its next word. A branch not taken goes on in its way. -/
def xferRegs (r : Regs) (p : Place) (k : XKind) (t : Bool) (a : Word) : Regs :=
  { nextRegs r p (p == .second && r.wsb1) (some a) with
    ghist := if k = .cond then histPush r.ghist t else r.ghist
    ent := if t then [] else r.ent.drop 1 }

/-- A transfer resolves as predicted, or needs no prediction: it commits. -/
def xferCommit (s : State) (e : Eng) (p : Place) (k : XKind) (t : Bool) (a : Word) : State :=
  let g := engGet s e
  let m := predUpdate g.m g.r.pc g.r.ghist (if k = .cond then some t else none) (t && k != .ret) a
  commit (engPut s e { g with m := m, r := xferRegs g.r p k t a, waits := false }) e p g.r.pc

/-- A transfer that has its outcome and next word. A wrong prediction puts the engine on the predicted path until MISPREDICT_UNDO
(08 R184), from the registers `r0` before the transfer; one on such a path follows its prediction, with a checkpoint of its own; in
run-ahead it redirects and updates no predictor (08 R188). `log` is 1 for one that writes `LNK`. -/
def xferDone (s : State) (e : Eng) (p : Place) (log : Nat) (k : XKind) (target : Word) (r0 : Regs) (t : Bool) (a : Word) : State :=
  let g := engGet s e
  let pr := predict { g with r := r0 } k target
  if g.ra.isSome then (if g.r.ovp then raEnd s e else raCount (engPut s e { g with r := xferRegs g.r p k t a }) e log)
  else if g.wrong.isSome then
    let q := pr.getD (t, a)
    let g1 := windowAdd g log
    engPut s e { g1 with r := xferRegs g.r p k q.1 q.2, cps := if k = .direct then g.cps else g.cps + 1 }
  else match pr with
    | none => xferCommit s e p k t a
    | some q =>
      if q = (t, a) ∨ r0.ovp then xferCommit s e p k t a
      else engPut s e { g with
        r := xferRegs g.r p k q.1 q.2, cps := 1, waits := false,
        wrong := some { before := r0, after := xferRegs g.r p k t a, cond := if k = .cond then some t else none,
                        tb := t && k != .ret, logged := log } }

/-- A run-ahead transfer with an invalid operand (08 R188, R189): a branch follows its prediction; one whose target is invalid ends
run-ahead. -/
def xferBad (s : State) (e : Eng) (p : Place) (k : XKind) (target : Word) (r0 : Regs) : State :=
  let g := engGet s e
  match k, predict { g with r := r0 } k target with
  | .cond, some q => if g.r.ovp then raEnd s e else raCount (engPut s e { g with r := xferRegs g.r p k q.1 q.2 }) e 0
  | _, _ => raEnd s e

/-- A transfer issues. `body` gives its outcome and next word, with its pops and `LNK` performed. On a mispredicted path it needs one
of the 8 checkpoints (08 R182). -/
def issueXfer (s : State) (e : Eng) (p : Place) (sb1ok : Bool) (log : Nat) (code : Option (BitVec 8)) (k : XKind) (target : Word)
    (body : State → Ans (Bool × Word)) : Out :=
  let g := engGet s e
  if g.wrong.isSome && k != .direct && decide (8 ≤ g.cps) then .next s
  else issueAny s e p false false sb1ok log code body
    (fun s' x => xferDone s' e p log k target g.r x.1 x.2) (fun s' => xferBad s' e p k target g.r)

end Sys2Proof.Machine
end

