-- ==== Sys2Proof/Machine/Special.lean ====
section
/-! DEFINITION. The special registers (03 R75-R78, 06 R151, 07 R172, 09 R225, 11 R266, 16 R386), `GETC`, `SETC` and `MSK`.
What is DEDUCED or a DESIGN CHOICE here is said in notes/assumptions, log 21 and 22. -/

namespace Sys2Proof.Machine

open Sys2Proof

/-- Read and write levels of the special registers (03 R76): 0 U, 1 S, 2 M; no write level where the table has a dash. -/
def specLevels : List (Nat × BitVec 2 × Option (BitVec 2)) :=
  [(0x000, 1, some 2), (0x001, 0, some 1), (0x002, 0, some 1), (0x003, 1, some 2), (0x004, 2, some 2), (0x005, 0, none),
   (0x006, 1, none), (0x007, 1, some 1), (0x008, 1, none), (0x010, 0, some 0), (0x011, 0, none), (0x012, 0, some 1),
   (0x013, 0, some 1), (0x014, 0, some 1), (0x015, 0, none), (0x016, 0, some 1), (0x017, 0, some 1), (0x018, 0, some 1)] ++
  [(0x020, 0, some 0), (0x021, 0, some 1), (0x030, 0, some 0), (0x031, 0, some 0), (0x040, 0, some 0), (0x041, 0, some 0),
   (0x042, 0, some 0), (0x050, 0, some 0), (0x051, 0, some 0), (0x052, 0, some 0), (0x053, 0, none), (0x054, 0, some 0),
   (0x060, 0, some 0), (0x061, 0, some 0), (0x080, 1, some 1), (0x081, 2, some 2), (0x082, 2, some 2), (0x0F0, 0, none),
   (0x0F1, 0, none)]

def specLevel (n : Nat) : Option (BitVec 2 × Option (BitVec 2)) := (specLevels.find? (·.1 == n)).map (·.2)

/-- `STATUS` of the running context (09 R225): SYLL reads 0. -/
def statusOf (s : State) (e : Eng) : Word :=
  let g := engGet s e
  g.r.priv.setWidth 32 ||| (g.r.mask.setWidth 32 <<< 4) ||| (bitW g.r.ovp <<< 12) ||| engineBits s e

/-- `INSTID` (16 R386). -/
def instIdOf (s : State) (e : Eng) : Word :=
  match instOf s e with
  | some i => BitVec.ofNat 32 i
  | none => 0x40#32

/-- What `GETC` reads (03 R76). -/
def specRead (s : State) (e : Eng) (n : Nat) : Word :=
  let g := engGet s e
  let r := g.r
  let p := r.sp
  match n with
  | 0x000 => statusOf s e
  | 0x001 => r.mask.setWidth 32
  | 0x002 => p.ctl.setWidth 32
  | 0x003 => p.gtb
  | 0x004 => p.lrvec
  | 0x005 => p.longpc
  | 0x006 => p.lbeaddr
  | 0x007 => p.fcause
  | 0x008 => p.faddr
  | 0x010 => r.lnk
  | 0x011 => BitVec.ofNat 32 (depth r)
  | 0x012 => r.dsp
  | 0x013 => p.dsbase
  | 0x014 => p.dslim
  | 0x015 => BitVec.ofNat 32 (rdepth r)
  | 0x016 => r.rsp
  | 0x017 => p.rsbase
  | 0x018 => p.rslim
  | 0x020 => r.bnk.setWidth 32
  | 0x021 => p.b1base
  | 0x030 => r.mlo
  | 0x031 => r.mhi
  | 0x040 => r.bsrc
  | 0x041 => r.bdst
  | 0x042 => r.bcnt
  | 0x050 => p.vl.setWidth 32
  | 0x051 => p.vstart.setWidth 32
  | 0x052 => p.vtype.setWidth 32
  | 0x053 => 64
  | 0x054 => g.vdirty
  | 0x060 => p.crcsel.setWidth 32
  | 0x061 => p.crcpoly
  | 0x080 => p.xlt1
  | 0x081 => p.xlt2
  | 0x082 => p.xctl.setWidth 32
  | 0x0F0 => BitVec.ofNat 32 e.val
  | 0x0F1 => instIdOf s e
  | _ => 0

/-- A cell that would write a reserved encoding (03 R75): `STATUS.PRIV` 3, `FCAUSE.NUM` 20-31, `VTYPE.SEW` 3. -/
def specReserved (n : Nat) (x : Word) : Bool :=
  match n with
  | 0x000 => fld x 0 2 == 3
  | 0x007 => decide (20 ≤ (fld x 0 5).toNat)
  | 0x052 => fld x 0 2 == 3
  | _ => false

/-- The low n bits cleared: reserved bits ignore what is written (03 R75). -/
def lowClear (n : Nat) (x : Word) : Word := (x >>> n) <<< n

/-- VL held within VLMAX of an element width (07 R153). -/
def vlFit (vtype : BitVec 2) (x : BitVec 7) : BitVec 7 :=
  let m := if vtype = 0 then 64 else if vtype = 1 then 32 else 16
  if x.toNat ≤ m then x else BitVec.ofNat 7 m

/-- The registers that a `SETC` writes; `ven` is the Weave's VECEN bit (03 R76-R78). -/
def specWrite (r : Regs) (ven : Bool) (n : Nat) (x : Word) : Regs :=
  let p := r.sp
  match n with
  | 0x000 => { r with priv := fld x 0 2, mask := fld x 4 4, ovp := x.getLsbD 12 }
  | 0x001 => { r with mask := fld x 0 4 }
  | 0x002 => { r with sp := { p with ctl := if ven then fld x 0 5 else fld x 0 5 &&& 0x17#5 } }
  | 0x003 => { r with sp := { p with gtb := lowClear 2 x, gtbPend := true } }
  | 0x004 => { r with sp := { p with lrvec := lowClear 2 x } }
  | 0x007 => { r with sp := { p with fcause := x &&& 0x00FF01FF#32 } }
  | 0x010 => { r with lnk := x, plink := none }
  | 0x012 => { r with dsp := lowClear 5 x }
  | 0x013 => { r with sp := { p with dsbase := lowClear 5 x } }
  | 0x014 => { r with sp := { p with dslim := lowClear 5 x } }
  | 0x016 => { r with rsp := lowClear 4 x }
  | 0x017 => { r with sp := { p with rsbase := lowClear 4 x } }
  | 0x018 => { r with sp := { p with rslim := lowClear 4 x } }
  | 0x020 => { r with bnk := fld x 0 8 }
  | 0x021 => { r with sp := { p with b1base := lowClear 12 x } }
  | 0x030 => { r with mlo := x }
  | 0x031 => { r with mhi := x }
  | 0x040 => { r with bsrc := x }
  | 0x041 => { r with bdst := x }
  | 0x042 => { r with bcnt := x }
  | 0x050 => { r with sp := { p with vl := vlFit p.vtype (fld x 0 7) } }
  | 0x051 => { r with sp := { p with vstart := fld x 0 6 } }
  | 0x052 => { r with sp := { p with vtype := fld x 0 2, vl := vlFit (fld x 0 2) p.vl } }
  | 0x060 => { r with sp := { p with crcsel := fld x 0 3 } }
  | 0x061 => { r with sp := { p with crcpoly := x } }
  | 0x080 => { r with sp := { p with xlt1 := lowClear 2 x, xltPend := true } }
  | 0x081 => { r with sp := { p with xlt2 := lowClear 5 x, xltPend := true } }
  | 0x082 => { r with sp := { p with xctl := fld x 0 3, xltPend := true } }
  | _ => r

/-- Code 9, then 10, of 04 R96 for `GETC` and `SETC`. -/
def specCode (o : BitVec 24) (write : Bool) : Option (BitVec 8) :=
  match reservedFrom o 12 with
  | some c => some c
  | none =>
    match specLevel o.toNat with
    | none => some 10
    | some (_, w) => if write && w.isNone then some 10 else none

/-- The level an access needs. -/
def specNeeds (n : Nat) (write : Bool) : BitVec 2 :=
  match specLevel n with
  | some (r, w) => if write then w.getD 3 else r
  | none => 0

/-- `GETC` of `VSTART` or `VDIRTY`, and `SETC` of them, wait for earlier vector instructions (07 R157). -/
def specWaits (g : Engine) (n : Nat) : Bool := (n == 0x051 || n == 0x054) && !g.vq.isEmpty

/-- Where run-ahead keeps that a special register is invalid. -/
def specItem (n : Nat) : RaItem := if n = 0x010 then .lnk else .spec n

def specBad (g : Engine) (n : Nat) : Bool := raBad g (specItem n)

/-- GETC (05 R115): `DEPTH` is the depth before its own push, `DSP` what a spill for that push leaves (04 R98). -/
def execGetc (e : Eng) (o : BitVec 24) (s : State) : Out :=
  issue s e .long false false false (specCode o false) fun s =>
    let g := engGet s e
    if g.r.priv.ult (specNeeds o.toNat false) then .fault s (privilege g.r 1)
    else if specWaits g o.toNat then .hold s
    else (pops s e 0 1).bind fun s1 _ =>
      if specBad (engGet s1 e) o.toNat then .inv (putCells s1 e 0 [.inv])
      else .ok (putCells s1 e 0 [.val (specRead s1 e o.toNat)]) none

/-- A special register written, with its effect beyond the registers: `VDIRTY`; a `FCAUSE` write ends a late-bus-error period (09
R208); a change of `MASK` travels to the Gatherer (10 R233). While the write is speculative the last two wait for its commit, which a
path found mispredicted never reaches, and `VDIRTY` is logged for the undo (08 R182). -/
def specApply (s : State) (e : Eng) (n : Nat) (x : Word) : State :=
  let g := engGet s e
  let g1 := { g with r := specWrite g.r (s.wvl.vecen.getLsbD e.val) n x }
  if n = 0x054 then
    let log := fun (c : Checkpoint) => { c with vdirty := some (c.vdirty.getD g.vdirty) }
    let ra := fun (a : RunAhead) => { a with vdirty := some (a.vdirty.getD g.vdirty) }
    engPut s e { g1 with vdirty := x, wrong := g.wrong.map log, ra := g.ra.map ra }
  else if speculative g then engPut s e g1
  else if n = 0x007 then engPut s e { g1 with lbeOpen := false }
  else if n = 0x000 ∨ n = 0x001 then reportMask (engPut s e g1) e
  else engPut s e g1

/-- The log entries of a `SETC` (08 R182): one for each register it writes, and `VL` may follow `VTYPE` (07 R153). -/
def setcLog (n : Nat) : Nat := if n = 0x052 then 2 else 1

/-- SETC (05 R115). -/
def execSetc (e : Eng) (o : BitVec 24) (s : State) : Out :=
  let n := o.toNat
  issueLog s e .long false false false (setcLog n) (specCode o true) fun s =>
    let g := engGet s e
    if g.r.priv.ult (specNeeds n true) then .fault s (privilege g.r 1)
    else if specWaits g n then .hold s
    else ((pops s e 1 0).onInv fun s1 => markBad s1 e (specItem n) true).bind fun s1 vs =>
      let x := vs.headD 0
      if specReserved n x then .fault s1 (illegal (regGet s1 e) 10)
      else .ok (markBad (specApply (putCells s1 e 1 []) e n x) e (specItem n) false) none

/-- MSK (05 R120). -/
def execMsk (e : Eng) (o : BitVec 24) (s : State) : Out :=
  issue s e .long true false false (reservedFrom o 4) fun s =>
    let r := regGet s e
    if r.priv = 0 then .fault s (privilege r 1)
    else .ok (reportMask (regPut s e { r with mask := fld o 0 4 }) e) none

end Sys2Proof.Machine
end

