-- ==== Sys2Proof/Machine/Encoding.lean ====
section
/-! DEFINITION. Which words are reserved encodings (04 R87-R91, R94, R96): the reason code a word raises ILLEGAL with. -/

namespace Sys2Proof.Machine

open Sys2Proof

/-- Long opcodes that 04 R87-R89 name; those of the auxiliary page in either set. -/
def longNamed (op : Nat) : Bool :=
  decide (op ≤ 0x03 ∨ (0x10 ≤ op ∧ op ≤ 0x14) ∨ (0x18 ≤ op ∧ op ≤ 0x1A) ∨ (0x20 ≤ op ∧ op ≤ 0x23) ∨ (0x30 ≤ op ∧ op ≤ 0x3C) ∨
    (0x40 ≤ op ∧ op ≤ 0x4B) ∨ (0x50 ≤ op ∧ op ≤ 0x56) ∨ (0x58 ≤ op ∧ op ≤ 0x5B) ∨ (0x60 ≤ op ∧ op ≤ 0x6E) ∨
    (0x70 ≤ op ∧ op ≤ 0x75))

/-- How many low operand bits a long opcode outside the vector page uses. -/
def longUsed (op : Nat) (aux : Bool) : Nat :=
  if op = 0x01 ∨ op = 0x40 ∨ op = 0x51 ∨ op = 0x53 then 8
  else if op = 0x41 ∨ op = 0x42 then 12
  else if op = 0x47 then 4
  else if op = 0x49 ∨ op = 0x4A then 3
  else if op = 0x74 then (if aux then 16 else 2)
  else if op = 0x75 then 1
  else if op ≤ 0x23 ∨ (0x30 ≤ op ∧ op ≤ 0x39) ∨ op = 0x4B then 24
  else 0

/-- The used fields of a vector row: VD, VA, VB, M (04 R88); none for a reserved FUNC. The last flag: the row writes VD. -/
def vecUsed (op func : Nat) : Option (Bool × Bool × Bool × Bool × Bool) :=
  let row := fun (n : Nat) (x : Bool × Bool × Bool × Bool × Bool) => if func < n then some x else none
  match op with
  | 0x60 => row 12 (true, true, true, true, true)
  | 0x61 => row 2 (true, true, true, true, true)
  | 0x62 => row 4 (true, true, true, true, true)
  | 0x63 => row 7 (false, true, false, true, false)
  | 0x64 => match func with
    | 0 => some (true, true, false, true, true)
    | 1 => some (true, false, false, true, true)
    | 2 => some (false, true, false, false, false)
    | _ => none
  | 0x65 => row 6 (true, true, true, true, true)
  | 0x66 => row 1 (true, false, false, true, true)
  | 0x67 => row 1 (true, false, false, true, true)
  | 0x68 => row 1 (true, false, true, true, true)
  | 0x69 => row 1 (true, false, false, true, false)
  | 0x6A => row 1 (true, false, false, true, false)
  | 0x6B => row 1 (true, false, true, true, false)
  | _ => row 1 (false, false, false, false, false)

/-- A vector word with a reserved operand bit or value (code 9). -/
def vecReserved (op : Nat) (o : BitVec 24) : Bool :=
  match vecUsed op (fld o 16 4).toNat with
  | none => true
  | some (d, a, b, m, w) =>
    fld o 20 4 != 0 || (!d && fld o 0 5 != 0) || (!a && fld o 5 5 != 0) || (!b && fld o 10 5 != 0) || (!m && o.getLsbD 15) ||
      (w && o.getLsbD 15 && fld o 0 5 == 0)

/-- A long word with a reserved operand bit or value (code 9). `ICM` with BY = 1 is legal: 05 R123 to R125 give it its effect, though
04 R96 names BY with `ICM` among the reserved values (DEDUCED, log 23). -/
def longReserved (op : Nat) (o : BitVec 24) (aux : Bool) : Bool :=
  if 0x60 ≤ op ∧ op ≤ 0x6E then vecReserved op o
  else decide (2 ^ longUsed op aux ≤ o.toNat) || (op == 0x49 && fld o 0 2 == 3) || (op == 0x4A && fld o 0 2 != 1) ||
    (op == 0x74 && !aux && fld o 0 2 == 3)

/-- The reason code of 04 R96 for a word in a mode, on an engine with its auxiliary set (true: field) and `VEN` in effect. -/
def wordCode (w : Word) (sb1 aux ven : Bool) : Option (BitVec 8) :=
  if w.getLsbD 31 then
    let o1 := (fld w 24 7).toNat
    let o2 := (fld w 8 7).toNat
    lowestCode [(!shortNamed o1 || !shortNamed o2, 3), (sb1 && (!shortSb1 o1 || !shortSb1 o2), 4), (w.getLsbD 15, 5),
      (shortXfer o1, 6), (shortBad o1 (fld w 16 8) || shortBad o2 (fld w 0 8), 9)]
  else
    let op := (fld w 24 7).toNat
    let o := fld w 0 24
    lowestCode [(sb1, 1), (!longNamed op, 2), (aux && op == 0x75, 7), (decide (0x60 ≤ op ∧ op ≤ 0x6E) && !ven, 8),
      (longReserved op o aux, 9), ((op == 0x41 && specCode o false == some 10) || (op == 0x42 && specCode o true == some 10), 10)]

end Sys2Proof.Machine
end

