-- ==== Sys2Proof/Decode.lean ====
section
/-! DEFINITION. The commands that table words spell, and the commands that an instruction word's issue is. spec/opcode_table.json
gives no row any bits: the block takes commands, not encoded words, so no table word spells one. The engines' own instruction words
have an encoding of their own (04 R84-R91), and `decodeWord` reads it. -/

namespace Sys2Proof

/-- The command that a word spells by the table's bits: none, since no row gives bits. -/
def decodeTableWord (_nbits _w : Nat) : Option Instr := none

namespace Machine

/-- The fields of a vector word (04 R88). -/
def vecFields (o : BitVec 24) : VFields :=
  { hi := fld o 20 4, m := o.getLsbD 15, vb := fld o 10 5, va := fld o 5 5, vd := fld o 0 5 }

/-- The vector page (04 R88); `n` bounds the elements that perform before the next boundary is offered. -/
def vecCmd (e : Eng) (n op : Nat) (o : BitVec 24) : Option Instr :=
  let v := vecFields o
  let mem : VMemOp := { v := v, n := n }
  let at0 := fun (i : Instr) => if fld o 16 4 = 0 then some i else none
  match op, (fld o 16 4).toNat with
  | 0x60, 0 => some (.vadd e v)
  | 0x60, 1 => some (.vsub e v)
  | 0x60, 2 => some (.vmin e v)
  | 0x60, 3 => some (.vminu e v)
  | 0x60, 4 => some (.vmax e v)
  | 0x60, 5 => some (.vmaxu e v)
  | 0x60, 6 => some (.vand e v)
  | 0x60, 7 => some (.vor e v)
  | 0x60, 8 => some (.vxor e v)
  | 0x60, 9 => some (.vshl e v)
  | 0x60, 10 => some (.vshr e v)
  | 0x60, 11 => some (.vsar e v)
  | 0x61, 0 => some (.vwmul e v)
  | 0x61, 1 => some (.vwmulu e v)
  | 0x62, 0 => some (.vdot8 e v)
  | 0x62, 1 => some (.vdot8u e v)
  | 0x62, 2 => some (.vdot16 e v)
  | 0x62, 3 => some (.vdot16u e v)
  | 0x63, 0 => some (.vrsum e v)
  | 0x63, 1 => some (.vrmin e v)
  | 0x63, 2 => some (.vrminu e v)
  | 0x63, 3 => some (.vrmax e v)
  | 0x63, 4 => some (.vrmaxu e v)
  | 0x63, 5 => some (.vrand e v)
  | 0x63, 6 => some (.vror e v)
  | 0x64, 0 => some (.vmv e v)
  | 0x64, 1 => some (.vbcast e v)
  | 0x64, 2 => some (.vext e v)
  | 0x65, 0 => some (.vseq e v)
  | 0x65, 1 => some (.vsne e v)
  | 0x65, 2 => some (.vslt e v)
  | 0x65, 3 => some (.vsltu e v)
  | 0x65, 4 => some (.vsle e v)
  | 0x65, 5 => some (.vsleu e v)
  | 0x66, _ => at0 (.vld e mem)
  | 0x67, _ => at0 (.vlds e mem)
  | 0x68, _ => at0 (.vldx e mem)
  | 0x69, _ => at0 (.vst e mem)
  | 0x6A, _ => at0 (.vsts e mem)
  | 0x6B, _ => at0 (.vstx e mem)
  | 0x6C, _ => at0 (.setvl e v)
  | 0x6D, _ => at0 (.vsave e v)
  | 0x6E, _ => at0 (.vrestore e v)
  | _, _ => none

/-- The auxiliary page: `AUXSEL` selects the set that gives an opcode its meaning (04 R89, 06 R128). -/
def auxCmd (e : Eng) (aux : Bool) (op : Nat) (o : BitVec 24) : Option Instr :=
  match op, aux with
  | 0x70, false => some (.crcb e o)
  | 0x71, false => some (.crch e o)
  | 0x72, false => some (.crcw e o)
  | 0x73, false => some (.par e o)
  | 0x74, false => some (.brev e o)
  | 0x75, false => some (.ckd e o)
  | 0x70, true => some (.extu e o)
  | 0x71, true => some (.exts e o)
  | 0x72, true => some (.ins e o)
  | 0x73, true => some (.clz e o)
  | 0x74, true => some (.bperm e o)
  | _, _ => none

/-- The operation of a long opcode (04 R87). -/
def longCmd (e : Eng) (aux : Bool) (n op : Nat) (o : BitVec 24) : Option Instr :=
  let block : BlockOp := { bits := o, n := n }
  match op with
  | 0x00 => some (.lit e (.long o))
  | 0x01 => some (.lithi e o)
  | 0x02 => some (.lea e o)
  | 0x03 => some (.addi e (.long o))
  | 0x10 => some (.ldb e (.long o))
  | 0x11 => some (.ldbu e (.long o))
  | 0x12 => some (.ldh e (.long o))
  | 0x13 => some (.ldhu e (.long o))
  | 0x14 => some (.ldw e (.long o))
  | 0x18 => some (.stb e (.long o))
  | 0x19 => some (.sth e (.long o))
  | 0x1A => some (.stw e (.long o))
  | 0x20 => some (.inAbs e o)
  | 0x21 => some (.inr e o)
  | 0x22 => some (.outAbs e o)
  | 0x23 => some (.outr e o)
  | 0x30 => some (.beq e (.long o))
  | 0x31 => some (.bne e (.long o))
  | 0x32 => some (.blt e (.long o))
  | 0x33 => some (.bge e (.long o))
  | 0x34 => some (.bltu e (.long o))
  | 0x35 => some (.bgeu e (.long o))
  | 0x36 => some (.bz e (.long o))
  | 0x37 => some (.bnz e (.long o))
  | 0x38 => some (.jmp e (.long o))
  | 0x39 => some (.call e (.long o))
  | 0x3A => some (.ret e (.long o))
  | 0x3B => some (.jmps e o)
  | 0x3C => some (.calls e o)
  | 0x40 => some (.trap e o)
  | 0x41 => some (.getc e o)
  | 0x42 => some (.setc e o)
  | 0x43 => some (.sync e o)
  | 0x44 => some (.fence e o)
  | 0x45 => some (.lfence e o)
  | 0x46 => some (.reti e o)
  | 0x47 => some (.msk e o)
  | 0x48 => some (.waite e o)
  | 0x49 =>
    match (fld o 0 2).toNat with
    | 0 => some (.dcmClean e (o.getLsbD 2) (fld o 3 21))
    | 1 => some (.dcmInvalidate e (o.getLsbD 2) (fld o 3 21))
    | 2 => some (.dcmCleanInvalidate e (o.getLsbD 2) (fld o 3 21))
    | _ => none
  | 0x4A => if fld o 0 2 = 1 then some (.icmInvalidate e (o.getLsbD 2) (fld o 3 21)) else none
  | 0x4B => some (.brk e o)
  | 0x50 => some (.movb e block)
  | 0x51 => some (.fillb e block)
  | 0x52 => some (.cmpb e block)
  | 0x53 => some (.scanb e block)
  | 0x54 => some (.mul e o)
  | 0x55 => some (.mulu e o)
  | 0x56 => some (.mulv e o)
  | 0x58 => some (.div e o)
  | 0x59 => some (.divu e o)
  | 0x5A => some (.rem e o)
  | 0x5B => some (.remu e o)
  | k => if k < 0x70 then vecCmd e n k o else auxCmd e aux k o

/-- A syllable as the short form of an instruction that has two. -/
def sylForm : Syl → Form
  | .first o rest => .first o rest
  | .second o => .second o

/-- A transfer's syllable: the second of its word only (04 R94). -/
def sylB (f : BForm → Instr) : Syl → Option Instr
  | .first _ _ => none
  | .second o => some (f (.second o))

/-- The operation of a short opcode (04 R90). -/
def shortCmd (e : Eng) (op : Nat) (y : Syl) : Option Instr :=
  let f := sylForm y
  match op with
  | 0x00 => some (.nop e y)
  | 0x01 => some (.dup e y)
  | 0x02 => some (.drop e y)
  | 0x03 => some (.swap e y)
  | 0x04 => some (.over e y)
  | 0x05 => some (.rot e y)
  | 0x06 => some (.pick e y)
  | 0x10 => some (.add e y)
  | 0x11 => some (.sub e y)
  | 0x12 => some (.addv e y)
  | 0x13 => some (.subv e y)
  | 0x14 => some (.neg e y)
  | 0x15 => some (.and_ e y)
  | 0x16 => some (.or_ e y)
  | 0x17 => some (.xor_ e y)
  | 0x18 => some (.not_ e y)
  | 0x19 => some (.shl e y)
  | 0x1A => some (.shr e y)
  | 0x1B => some (.sar e y)
  | 0x1C => some (.rol e y)
  | 0x1D => some (.ror e y)
  | 0x1E => some (.addi e f)
  | 0x20 => some (.shli e y)
  | 0x21 => some (.shri e y)
  | 0x22 => some (.sari e y)
  | 0x23 => some (.rori e y)
  | 0x24 => some (.seq e y)
  | 0x25 => some (.slt e y)
  | 0x26 => some (.sltu e y)
  | 0x27 => some (.sextb e y)
  | 0x28 => some (.sexth e y)
  | 0x29 => some (.zextb e y)
  | 0x2A => some (.zexth e y)
  | 0x30 => some (.ldl e y)
  | 0x31 => some (.stl e y)
  | 0x34 => some (.lit e f)
  | 0x40 => some (.ldb e f)
  | 0x41 => some (.ldbu e f)
  | 0x42 => some (.ldh e f)
  | 0x43 => some (.ldhu e f)
  | 0x44 => some (.ldw e f)
  | 0x48 => some (.stb e f)
  | 0x49 => some (.sth e f)
  | 0x4A => some (.stw e f)
  | 0x50 => sylB (.beq e) y
  | 0x51 => sylB (.bne e) y
  | 0x52 => sylB (.blt e) y
  | 0x53 => sylB (.bge e) y
  | 0x54 => sylB (.bltu e) y
  | 0x55 => sylB (.bgeu e) y
  | 0x56 => sylB (.bz e) y
  | 0x57 => sylB (.bnz e) y
  | 0x58 => sylB (.jmp e) y
  | 0x59 => sylB (.call e) y
  | 0x60 => sylB (.ret e) y
  | 0x61 => some (.pushl e y)
  | 0x62 => some (.popl e y)
  | 0x63 => some (.toRs e y)
  | 0x64 => some (.fromRs e y)
  | _ => none

/-- The commands of a word's operations, the first syllable's first (04 R84). -/
def wordCmds (e : Eng) (aux : Bool) (n : Nat) (w : Word) : List Instr :=
  if w.getLsbD 31 then
    (shortCmd e (fld w 24 7).toNat (.first (fld w 16 8) (fld w 0 16))).toList ++ (shortCmd e (fld w 8 7).toNat (.second (fld w 0 8))).toList
  else (longCmd e aux n (fld w 24 7).toNat (fld w 0 24)).toList

/-- The commands that a word's issue is, on engine `e` with its page in SB1 mode (`sb1`), the field set selected (`aux`) and `VEN` in
effect (`ven`): its operations, or the ILLEGAL entry of a reserved encoding (04 R96, R97). `n` is what a block-repeat or vector memory
word may do before the next boundary is offered. -/
def decodeWord (e : Eng) (sb1 aux ven : Bool) (n : Nat) (w : Word) : List Instr :=
  match wordCode w sb1 aux ven with
  | some _ => [.faultEntry e (.illegal w)]
  | none => wordCmds e aux n w

end Machine

end Sys2Proof
end

