-- ==== Sys2Proof/Machine/Alu.lean ====
section
/-! DEFINITION. Literals and address formation (05 R100), stack shuffles (05 R101, 03 R60), arithmetic, logic and comparison
(05 R103, 03 R80, R81), and locals (05 R104). Cells are listed S0 first. -/

namespace Sys2Proof.Machine

open Sys2Proof

/-! ### Shared operations -/

/-- A class A syllable that replaces k cells by m; `res` is the lowest reserved operand bit. -/
def shortOp (e : Eng) (y : Syl) (sb1ok : Bool) (res k m : Nat) (f : Bool → List Word → List Word) (s : State) : Out :=
  issue s e (sylPlace y) false false sb1ok (sylRes y res) fun s => stackOp s e k m (f (sb1Mode s e))

/-- A binary operation ( a b -- r ) at the width of the mode. -/
def bin (f : (w : Nat) → BitVec w → BitVec w → BitVec w) (sb1 : Bool) : List Word → List Word
  | b :: a :: _ => [wide2 sb1 f a b]
  | _ => []

/-- A unary operation ( a -- r ) at the width of the mode. -/
def un (f : (w : Nat) → BitVec w → BitVec w) (sb1 : Bool) : List Word → List Word
  | a :: _ => [wide1 sb1 f a]
  | _ => []

/-- A comparison ( a b -- f ), 1 or 0; native code only. -/
def cmp (f : (w : Nat) → BitVec w → BitVec w → Bool) (_ : Bool) : List Word → List Word
  | b :: a :: _ => [bitW (f 32 a b)]
  | _ => []

/-- A native one-cell operation. -/
def un32 (f : Word → Word) (_ : Bool) : List Word → List Word
  | a :: _ => [f a]
  | _ => []

/-- A checked form: OVERFLOW becomes pending when OVE is 1 as the syllable overflows (03 R81). -/
def checkedOp (e : Eng) (y : Syl) (sb1ok : Bool) (k : Nat) (f : Bool → List Word → List Word) (ovf : Bool → List Word → Bool)
    (s : State) : Out :=
  issue s e (sylPlace y) false false sb1ok (sylRes y 0) fun s =>
    (pops s e k 1).bind fun s1 vs =>
      let b := sb1Mode s e
      let r := cellsPut (regGet s1 e) k ((f b vs).map .val)
      .ok (regPut s1 e { r with ovp := r.ovp || (r.sp.ctlEff.getLsbD 0 && ovf b vs) }) none

def ovf2 (f : Word → Word → Bool) (_ : Bool) : List Word → Bool
  | b :: a :: _ => f a b
  | _ => false

def ovfNeg (sb1 : Bool) : List Word → Bool
  | a :: _ => if sb1 then negOvf 16 (a.setWidth 16) else negOvf 32 a
  | _ => false

/-- The count of an immediate shift. -/
def sylCount (y : Syl) : Nat := (fld (sylOpnd y) 0 5).toNat

/-! ### Literals and address formation -/

/-- LIT (05 R100): only the short form exists in SB1 mode. -/
def execLit (e : Eng) (f : Form) (s : State) : Out :=
  issue s e (formPlace f) false false true none fun s => stackOp s e 0 1 fun _ => [wide1 (sb1Mode s e) (fun _ x => x) (formImm f)]

/-- LITHI (05 R100). -/
def execLithi (e : Eng) (o : BitVec 24) (s : State) : Out :=
  issue s e .long false false true (reservedFrom o 8) fun s =>
    stackOp s e 1 1 fun vs => vs.map fun x => (fld o 0 8 ++ fld x 0 24 : BitVec 32)

/-- LEA (05 R100). -/
def execLea (e : Eng) (o : BitVec 24) (s : State) : Out :=
  issue s e .long false false true none fun s => stackOp s e 0 1 fun _ => [(regGet s e).pc + o.signExtend 32]

/-- ADDI (05 R100). -/
def execAddi (e : Eng) (f : Form) (s : State) : Out :=
  issue s e (formPlace f) false false false none fun s => stackOp s e 1 1 fun vs => vs.map (· + formImm f)

/-! ### Stack shuffles -/

/-- NOP (05 R101). -/
def execNop (e : Eng) (y : Syl) (s : State) : Out :=
  shortOp e y true 0 0 0 (fun _ _ => []) s

/-- DUP (05 R101). -/
def execDup (e : Eng) (y : Syl) (s : State) : Out :=
  shortOp e y true 0 1 2 (fun _ vs => match vs with | a :: _ => [a, a] | _ => []) s

/-- DROP (05 R101). -/
def execDrop (e : Eng) (y : Syl) (s : State) : Out :=
  shortOp e y true 0 1 0 (fun _ _ => []) s

/-- SWAP (05 R101). -/
def execSwap (e : Eng) (y : Syl) (s : State) : Out :=
  shortOp e y true 0 2 2 (fun _ vs => match vs with | b :: a :: _ => [a, b] | _ => []) s

/-- OVER (05 R101). -/
def execOver (e : Eng) (y : Syl) (s : State) : Out :=
  shortOp e y true 0 2 3 (fun _ vs => match vs with | b :: a :: _ => [a, b, a] | _ => []) s

/-- ROT (05 R101). -/
def execRot (e : Eng) (y : Syl) (s : State) : Out :=
  shortOp e y true 0 3 3 (fun _ vs => match vs with | c :: b :: a :: _ => [a, c, b] | _ => []) s

/-- PICK (03 R60): S(n) from the cache, or read where it is spilled; it never fills. -/
def execPick (e : Eng) (y : Syl) (s : State) : Out :=
  issue s e (sylPlace y) false false true none fun s =>
    let r := regGet s e
    let n := (sylOpnd y).toNat
    if depth r ≤ n then .fault s (stackFault 10 r.dsp)
    else
      let a := r.sp.dsbase + BitVec.ofNat 32 (4 * (depth r - 1 - n))
      (match r.ds[n]? with
        | some (.val w) => Ans.ok s w
        | some (.rsv _) => .hold s
        | some .inv => .inv s
        | none => ((loadRead s e a 4).mapFault (sfFault a)).bind fun s1 bs => .ok s1 (BitVec.ofNat 32 (leNat bs))).onInv
        (fun s1 => putCells s1 e 0 [.inv]) |>.bind
      fun s1 w => stackOp s1 e 0 1 fun _ => [w]

/-! ### Arithmetic, logic and comparison -/

/-- ADD (05 R103, 03 R80). -/
def execAdd (e : Eng) (y : Syl) (s : State) : Out :=
  shortOp e y true 0 2 1 (bin addW) s

/-- SUB (05 R103, 03 R80). -/
def execSub (e : Eng) (y : Syl) (s : State) : Out :=
  shortOp e y true 0 2 1 (bin subW) s

/-- AND (05 R103, 03 R80). -/
def execAnd (e : Eng) (y : Syl) (s : State) : Out :=
  shortOp e y true 0 2 1 (bin andW) s

/-- OR (05 R103, 03 R80). -/
def execOr (e : Eng) (y : Syl) (s : State) : Out :=
  shortOp e y true 0 2 1 (bin orW) s

/-- XOR (05 R103, 03 R80). -/
def execXor (e : Eng) (y : Syl) (s : State) : Out :=
  shortOp e y true 0 2 1 (bin xorW) s

/-- SHL (05 R103, 03 R80). -/
def execShl (e : Eng) (y : Syl) (s : State) : Out :=
  shortOp e y true 0 2 1 (bin shlW) s

/-- SHR (05 R103, 03 R80). -/
def execShr (e : Eng) (y : Syl) (s : State) : Out :=
  shortOp e y true 0 2 1 (bin shrW) s

/-- SAR (05 R103, 03 R80). -/
def execSar (e : Eng) (y : Syl) (s : State) : Out :=
  shortOp e y true 0 2 1 (bin sarW) s

/-- ROL (05 R103, 03 R80). -/
def execRol (e : Eng) (y : Syl) (s : State) : Out :=
  shortOp e y true 0 2 1 (bin rolW) s

/-- ROR (05 R103, 03 R80). -/
def execRor (e : Eng) (y : Syl) (s : State) : Out :=
  shortOp e y true 0 2 1 (bin rorW) s

/-- NOT (05 R103). -/
def execNot (e : Eng) (y : Syl) (s : State) : Out :=
  shortOp e y true 0 1 1 (un notW) s

/-- ADDV (03 R80, R81). -/
def execAddv (e : Eng) (y : Syl) (s : State) : Out :=
  checkedOp e y false 2 (bin addW) (ovf2 addvOvf) s

/-- SUBV (03 R80, R81). -/
def execSubv (e : Eng) (y : Syl) (s : State) : Out :=
  checkedOp e y false 2 (bin subW) (ovf2 subvOvf) s

/-- NEG (03 R80, R81). -/
def execNeg (e : Eng) (y : Syl) (s : State) : Out :=
  checkedOp e y true 1 (un negW) ovfNeg s

/-- SHLI (05 R103). -/
def execShli (e : Eng) (y : Syl) (s : State) : Out :=
  shortOp e y true 5 1 1 (un fun w a => shlBy w a (sylCount y)) s

/-- SHRI (05 R103). -/
def execShri (e : Eng) (y : Syl) (s : State) : Out :=
  shortOp e y true 5 1 1 (un fun w a => shrBy w a (sylCount y)) s

/-- SARI (05 R103). -/
def execSari (e : Eng) (y : Syl) (s : State) : Out :=
  shortOp e y true 5 1 1 (un fun w a => sarBy w a (sylCount y)) s

/-- RORI (05 R103). -/
def execRori (e : Eng) (y : Syl) (s : State) : Out :=
  shortOp e y false 5 1 1 (un fun w a => rorBy w a (sylCount y)) s

/-- SEQ (05 R103). -/
def execSeq (e : Eng) (y : Syl) (s : State) : Out :=
  shortOp e y false 0 2 1 (cmp eqW) s

/-- SLT (05 R103). -/
def execSlt (e : Eng) (y : Syl) (s : State) : Out :=
  shortOp e y false 0 2 1 (cmp ltW) s

/-- SLTU (05 R103). -/
def execSltu (e : Eng) (y : Syl) (s : State) : Out :=
  shortOp e y false 0 2 1 (cmp ltuW) s

/-- SEXTB (05 R103). -/
def execSextb (e : Eng) (y : Syl) (s : State) : Out :=
  shortOp e y false 0 1 1 (un32 fun a => (fld a 0 8).signExtend 32) s

/-- SEXTH (05 R103). -/
def execSexth (e : Eng) (y : Syl) (s : State) : Out :=
  shortOp e y false 0 1 1 (un32 fun a => (fld a 0 16).signExtend 32) s

/-- ZEXTB (05 R103). -/
def execZextb (e : Eng) (y : Syl) (s : State) : Out :=
  shortOp e y false 0 1 1 (un32 fun a => (fld a 0 8).setWidth 32) s

/-- ZEXTH (05 R103). -/
def execZexth (e : Eng) (y : Syl) (s : State) : Out :=
  shortOp e y false 0 1 1 (un32 fun a => (fld a 0 16).setWidth 32) s

/-! ### Locals -/

/-- The local that a syllable names. -/
def sylLocal (y : Syl) : Nat := (fld (sylOpnd y) 0 4).toNat

/-- LDL (05 R104). -/
def execLdl (e : Eng) (y : Syl) (s : State) : Out :=
  issue s e (sylPlace y) false false true (sylRes y 4) fun s =>
    if raBad (engGet s e) (.loc (sylLocal y)) then (prepDs s e 0 1).bind fun s1 _ => .inv (putCells s1 e 0 [.inv])
    else stackOp s e 0 1 fun _ => [tget 0 (regGet s e).l (sylLocal y)]

/-- STL (05 R104). -/
def execStl (e : Eng) (y : Syl) (s : State) : Out :=
  issueLog s e (sylPlace y) false false true 1 (sylRes y 4) fun s =>
    ((pops s e 1 0).onInv fun s1 => markBad s1 e (.loc (sylLocal y)) true).bind fun s1 vs =>
      let r := cellsPut (regGet s1 e) 1 []
      .ok (markBad (regPut s1 e { r with l := tset 0 r.l (sylLocal y) (vs.headD 0) }) e (.loc (sylLocal y)) false) none

end Sys2Proof.Machine
end

