-- ==== Sys2Proof/Machine/AuxPage.lean ====
section
/-! DEFINITION. The auxiliary page: the check set (06 R130-R133) and the field set (06 R134-R137). -/

namespace Sys2Proof.Machine

open Sys2Proof

/-! ### CRC (06 R130, R131) -/

/-- The width and normal form of the polynomial that `CRCSEL.POLY` selects. -/
def crcPoly (r : Regs) : Nat × Word :=
  match (fld r.sp.crcsel 0 2).toNat with
  | 0 => (32, 0x1EDC6F41#32)
  | 1 => (32, 0x04C11DB7#32)
  | 2 => (16, 0x1021#32)
  | _ => (32, r.sp.crcpoly)

/-- The w low bits in reverse order. -/
def reflect (w : Nat) (p : Word) : Word :=
  BitVec.ofNat 32 ((List.range w).foldl (fun a k => if p.getLsbD k then a + 2 ^ (w - 1 - k) else a) 0)

/-- One bit of a CRC step. -/
def crcBit (msbf : Bool) (w : Nat) (p c : Word) (d : Bool) : Word :=
  if msbf then
    let c1 := (c <<< 1) &&& BitVec.ofNat 32 (2 ^ w - 1)
    if c.getLsbD (w - 1) != d then c1 ^^^ p else c1
  else
    let c1 := c >>> 1
    if c.getLsbD 0 != d then c1 ^^^ reflect w p else c1

/-- One byte of a CRC step. -/
def crcByte (msbf : Bool) (w : Nat) (p c : Word) (b : Byte) : Word :=
  (List.range 8).foldl (fun c i => crcBit msbf w p c (b.getLsbD (if msbf then 7 - i else i))) c

/-- A CRC over the nb low bytes of x, lowest first. -/
def crcRun (r : Regs) (nb : Nat) (c x : Word) : Word :=
  let (w, p) := crcPoly r
  (toBytes nb x.toNat).foldl (crcByte (r.sp.crcsel.getLsbD 2) w p) (if w = 16 then c &&& 0xFFFF#32 else c)

def crcOp (nb : Nat) (r : Regs) : List Word → List Word
  | x :: c :: _ => [crcRun r nb c x]
  | _ => []


/-! ### Parity, bit reversal, check digit (06 R132, R133) -/

/-- 1 for an odd number of 1 bits. -/
def parity (x : Word) : Word := bitW ((List.range 32).countP (fun k => x.getLsbD k) % 2 == 1)


/-- The order of the bits reversed within each unit of u bits. -/
def revUnits (u : Nat) (x : Word) : Word :=
  BitVec.ofNat 32 ((List.range 32).foldl (fun a k => if x.getLsbD k then a + 2 ^ (k / u * u + (u - 1 - k % u)) else a) 0)


/-- One step of the mod-10 doubling check (06 R133). -/
def ckdStep (dbl : Bool) (acc digit : Word) : Word :=
  let n := digit.toNat
  let d := if 0x30 ≤ n ∧ n ≤ 0x39 then n - 0x30 else if n ≤ 9 then n else 10
  if acc.toNat > 9 ∨ d = 10 then 0xFFFFFFFF#32
  else
    let d := if dbl then (if 2 * d > 9 then 2 * d - 9 else 2 * d) else d
    BitVec.ofNat 32 ((acc.toNat + d) % 10)


/-! ### Field set (06 R134-R137) -/

/-- A field of x, sign-extended from its top bit when asked (06 R134). -/
def extract (signed : Bool) (x pos width : Word) : Word :=
  let w := if width.toNat > 32 then 32 else width.toNat
  if w = 0 ∨ pos.toNat ≥ 32 then 0
  else
    let f := (x.toNat / 2 ^ pos.toNat) % 2 ^ w
    BitVec.ofNat 32 (if signed ∧ 2 ^ (w - 1) ≤ f then f + (2 ^ 32 - 2 ^ w) else f)

def extOp (signed : Bool) (_ : Regs) : List Word → List Word
  | width :: pos :: x :: _ => [extract signed x pos width]
  | _ => []


/-- The low bits of f inserted into x (06 R135). -/
def insert (x f pos width : Word) : Word :=
  let w := if width.toNat > 32 then 32 else width.toNat
  if w = 0 ∨ pos.toNat ≥ 32 then x
  else
    let m : Word := BitVec.ofNat 32 ((2 ^ w - 1) * 2 ^ pos.toNat)
    (x &&& ~~~m) ||| ((f <<< pos.toNat) &&& m)


/-- The number of 0 bits above the highest 1 bit; 32 for 0 (06 R136). -/
def leadingZeros (x : Word) : Nat :=
  match (List.range 32).find? fun k => x.getLsbD (31 - k) with
  | some k => k
  | none => 32


/-- A byte of BPERM's result, by its selector nibble (06 R137). -/
def permByte (x : Word) (n : BitVec 4) : Byte :=
  if n.toNat < 4 then fld x (8 * n.toNat) 8
  else if n.toNat < 8 then (if x.getLsbD (8 * (n.toNat - 4) + 7) then 0xFF#8 else 0)
  else 0

/-! ### The page's words (04 R89, 06 R128) -/

/-- What a word of the page performs: its reserved operand, the cells it pops, its result. -/
structure AuxFn where
  code : Option (BitVec 8)
  pops : Nat
  run : Regs → List Word → List Word

/-- The operation of a check-set engine at opcode 0x70 + k (04 R89). -/
def checkFn (k : Nat) (o : BitVec 24) : AuxFn :=
  match k with
  | 0 => ⟨reservedFrom o 0, 2, crcOp 1⟩
  | 1 => ⟨reservedFrom o 0, 2, crcOp 2⟩
  | 2 => ⟨reservedFrom o 0, 2, crcOp 4⟩
  | 3 => ⟨reservedFrom o 0, 1, fun _ vs => vs.map parity⟩
  | 4 =>
    let w := fld o 0 2
    ⟨if w = 3 then some 9 else reservedFrom o 2, 1, fun _ vs => vs.map (revUnits (if w = 0 then 8 else if w = 1 then 16 else 32))⟩
  | _ => ⟨reservedFrom o 1, 2, fun _ vs => match vs with
    | digit :: acc :: _ => [ckdStep (o.getLsbD 0) acc digit]
    | _ => []⟩

/-- The operation of a field-set engine there: opcode 0x75 has none, code 7 (04 R96). -/
def fieldFn (k : Nat) (o : BitVec 24) : AuxFn :=
  match k with
  | 0 => ⟨reservedFrom o 0, 3, extOp false⟩
  | 1 => ⟨reservedFrom o 0, 3, extOp true⟩
  | 2 => ⟨reservedFrom o 0, 4, fun _ vs => match vs with
    | width :: pos :: f :: x :: _ => [insert x f pos width]
    | _ => []⟩
  | 3 => ⟨reservedFrom o 0, 1, fun _ vs => vs.map fun x => BitVec.ofNat 32 (leadingZeros x)⟩
  | 4 => ⟨reservedFrom o 16, 1,
      fun _ vs => vs.map fun x => BitVec.ofNat 32 (leNat ((List.range 4).map fun i => permByte x (fld o (4 * i) 4)))⟩
  | _ => ⟨some 7, 1, fun _ vs => vs⟩

/-- The word at opcode 0x70 + k: the operation of the set that AUXSEL bit n selects for the engine. A CRC step in run-ahead derives
from the special registers too. -/
def auxOp (e : Eng) (k : Nat) (o : BitVec 24) (s : State) : Out :=
  let field := s.wvl.auxsel.getLsbD e.val
  let x := if field then fieldFn k o else checkFn k o
  issue s e .long false false false x.code fun s =>
    let g := engGet s e
    if !field && decide (k < 3) && (raBad g (.spec 0x060) || raBad g (.spec 0x061)) then
      (prepDs s e 2 1).bind fun s1 _ => .inv (putCells s1 e 2 [.inv])
    else stackOp s e x.pops 1 (x.run g.r)

/-- CRCB (06 R131), or EXTU on a field-set engine. -/
def execCrcb (e : Eng) (o : BitVec 24) (s : State) : Out := auxOp e 0 o s
/-- CRCH (06 R131), or EXTS. -/
def execCrch (e : Eng) (o : BitVec 24) (s : State) : Out := auxOp e 1 o s
/-- CRCW (06 R131), or INS. -/
def execCrcw (e : Eng) (o : BitVec 24) (s : State) : Out := auxOp e 2 o s
/-- PAR (06 R132), or CLZ. -/
def execPar (e : Eng) (o : BitVec 24) (s : State) : Out := auxOp e 3 o s
/-- BREV (06 R132), or BPERM. -/
def execBrev (e : Eng) (o : BitVec 24) (s : State) : Out := auxOp e 4 o s
/-- CKD (06 R133). -/
def execCkd (e : Eng) (o : BitVec 24) (s : State) : Out := auxOp e 5 o s
/-- EXTU (06 R134), or CRCB on a check-set engine: the words are the same (04 R89). -/
def execExtu (e : Eng) (o : BitVec 24) (s : State) : Out := auxOp e 0 o s
/-- EXTS (06 R134), or CRCH. -/
def execExts (e : Eng) (o : BitVec 24) (s : State) : Out := auxOp e 1 o s
/-- INS (06 R135), or CRCW. -/
def execIns (e : Eng) (o : BitVec 24) (s : State) : Out := auxOp e 2 o s
/-- CLZ (06 R136), or PAR. -/
def execClz (e : Eng) (o : BitVec 24) (s : State) : Out := auxOp e 3 o s
/-- BPERM (06 R137), or BREV. -/
def execBperm (e : Eng) (o : BitVec 24) (s : State) : Out := auxOp e 4 o s

end Sys2Proof.Machine
end

