-- ==== Sys2Proof/Machine/Block.lean ====
section
/-! DEFINITION. Block repeat (06 R146-R149). -/

namespace Sys2Proof.Machine

open Sys2Proof

/-- The four instructions, with the byte of the two that carry one. -/
inductive BlockKind where
  | mov
  | fill (b : Byte)
  | cmp
  | scan (b : Byte)
  deriving DecidableEq, Repr

/-- The bytes of an iteration: up to the line boundary of the address it advances by (06 R146). -/
def blockCount (k : BlockKind) (r : Regs) : Nat :=
  let a := match k with | .scan _ => r.bsrc | _ => r.bdst
  min r.bcnt.toNat (64 - a.toNat % 64)

/-- The registers after n bytes of an iteration. -/
def blockAdvance (k : BlockKind) (r : Regs) (n : Nat) : Regs :=
  let d := BitVec.ofNat 32 n
  { r with bcnt := r.bcnt - d,
           bsrc := match k with | .fill _ => r.bsrc | _ => r.bsrc + d,
           bdst := match k with | .scan _ => r.bdst | _ => r.bdst + d }

/-- The lowest offset at which the stopping condition holds (06 R147). -/
def blockStop (k : BlockKind) (src dst : List Byte) : Option Nat :=
  match k with
  | .cmp => (List.range dst.length).find? fun j => src[j]? != dst[j]?
  | .scan b => (List.range src.length).find? fun j => src[j]? == some b
  | _ => none

/-- The reads of an iteration, after every check of it (06 R148): the source's bytes and the destination's. -/
def blockReads (s : State) (e : Eng) (k : BlockKind) (n : Nat) : Ans (List Byte × List Byte) :=
  let r := regGet s e
  match k with
  | .fill b => .ok s (List.replicate n b, [])
  | .mov =>
    (xlateParts s e .read (parts r.bsrc n)).bind fun s1 ps =>
      (xlateParts s1 e .write (parts r.bdst n)).bind fun s2 pd =>
        (regionParts s2 e false ps).bind fun s3 _ => (regionParts s3 e true pd).bind fun s4 _ =>
          (readParts s4 e ps).bind fun s5 bs => .ok s5 (bs, [])
  | .cmp =>
    (xlateParts s e .read (parts r.bsrc n)).bind fun s1 ps =>
      (xlateParts s1 e .read (parts r.bdst n)).bind fun s2 pd =>
        (regionParts s2 e false ps).bind fun s3 _ => (regionParts s3 e false pd).bind fun s4 _ =>
          (readParts s4 e ps).bind fun s5 bs => (readParts s5 e pd).bind fun s6 cs => .ok s6 (bs, cs)
  | .scan _ => (dataRead s e r.bsrc n).bind fun s1 bs => .ok s1 (bs, [])

/-- The writes of an iteration: one store-buffer entry (06 R148). -/
def blockWrites (s : State) (e : Eng) (k : BlockKind) (bs : List Byte) : Ans Unit :=
  match k with
  | .mov | .fill _ => dataWrite s e (regGet s e).bdst bs false
  | _ => .ok s ()

/-- At most `fuel` iterations, until `BCNT` is 0, a stop, a hold or a fault; the registers show every completed one. While bytes are
left the instruction waits at the boundary between two iterations, where an event can be claimed (06 R149). -/
def blockRun (e : Eng) (k : BlockKind) : Nat → State → Ans Unit
  | 0, s => if (regGet s e).bcnt = 0 then .ok s () else .hold s
  | fuel + 1, s =>
    let r := regGet s e
    if r.bcnt = 0 then .ok s ()
    else
      let n := blockCount k r
      (blockReads s e k n).bind fun s1 p =>
        match blockStop k p.1 p.2 with
        | some j => .ok (regPut s1 e (blockAdvance k (regGet s1 e) j)) ()
        | none =>
          match blockWrites s1 e k p.1 with
          | .ok s2 _ => blockRun e k fuel (slotsMark (regPut s2 e (blockAdvance k (regGet s2 e) n)))
          | .hold s2 => .hold s2
          | .fault s2 i => .fault s2 i
          | .inv s2 => .hold s2

/-- A block-repeat instruction, n iterations at most. An iteration waits for an outstanding `OUT` as a memory access does (05 R109). -/
def blockOp (e : Eng) (res : Option (BitVec 8)) (k : BlockKind) (n : Nat) (s : State) : Out :=
  issue s e .long true true false res fun s =>
    (blockRun e k (min n (regGet s e).bcnt.toNat) s).bind fun s1 _ => .ok (slotsClear s1) none

/-- MOVB (06 R146). -/
def execMovb (e : Eng) (o : BlockOp) (s : State) : Out := blockOp e (reservedFrom o.bits 0) .mov o.n s
/-- FILLB (06 R146). -/
def execFillb (e : Eng) (o : BlockOp) (s : State) : Out := blockOp e (reservedFrom o.bits 8) (.fill (fld o.bits 0 8)) o.n s
/-- CMPB (06 R147). -/
def execCmpb (e : Eng) (o : BlockOp) (s : State) : Out := blockOp e (reservedFrom o.bits 0) .cmp o.n s
/-- SCANB (06 R147). -/
def execScanb (e : Eng) (o : BlockOp) (s : State) : Out := blockOp e (reservedFrom o.bits 8) (.scan (fld o.bits 0 8)) o.n s

end Sys2Proof.Machine
end

