-- ==== Sys2Proof/Machine/Cache.lean ====
section
/-! DEFINITION. Cache maintenance: DCM and ICM (05 R123-R126).
What is DEDUCED or a DESIGN CHOICE here is said in notes/assumptions, log 8 and 23. -/

namespace Sys2Proof.Machine

open Sys2Proof

/-- A set/way selector's frame (05 R124). -/
def frameOf (x : Word) : Nat := 4 * (fld x 6 7).toNat + (fld x 0 2).toNat

/-- An address fault of a maintenance instruction: DATA_PAGE, access kind other (11 R258). -/
def maintFault (i : FaultInfo) : FaultInfo := { i with num := 4, acc := 3 }

/-- What a maintenance instruction names: nothing, or a line that is in the cache at a frame. -/
def named (t : Tab CLine) (l : LineAddr) : Option Nat := (wayOf t l).map (4 * setOf l + ·)

/-- One D-cache frame cleaned and, if asked, invalidated; a hold while no write-back buffer is free (11 R260). -/
def actFrame (s : State) (e : Eng) (frame : Nat) (clean inval : Bool) : Ans (Option Word) :=
  match tfind (engGet s e).m.dc frame with
  | none => .ok s none
  | some c =>
    match (if clean && c.dirty != 0 then writeBack s e c true else some s) with
    | none => .hold s
    | some s1 => .ok (engPut s1 e (dcPut (engGet s1 e) frame
        (if inval then none else some { c with dirty := if clean then 0 else c.dirty }))) none

/-- A `DCM` (05 R123, R125). A fill of the line that is in flight is left to land, and installs the line then (DESIGN CHOICE, log 23). -/
def dcmOp (e : Eng) (way : Bool) (hi : BitVec 21) (acc : AccKind) (clean inval : Bool) (s : State) : Out :=
  issue s e .long true true false (reservedFrom hi 0) fun s =>
    if way && (regGet s e).priv == 0 then .fault s (privilege (regGet s e) 1)
    else (pops s e 1 0).bind fun s1 vs =>
      let x := vs.headD 0
      let act := fun (s : State) (frame : Option Nat) =>
        let s2 := putCells s e 1 []
        match frame with
        | some f => (actFrame s2 e f clean inval).bind fun s3 r => .ok s3 r
        | none => .ok s2 none
      if way then
        if !(engGet s1 e).m.sb.isEmpty then .hold s1
        else match act s1 (some (frameOf x)) with
          | .hold _ => .hold s1
          | r => r
      else ((xlate s1 e acc x).mapFault maintFault).bind fun s2 pa =>
        let l := lineOf pa
        if inWindow s2 pa then act s2 none
        else if (engGet s2 e).m.sb.any (·.line == l) then .hold s2
        else match act s2 (named (engGet s2 e).m.dc l) with
          | .hold _ => .hold s2
          | r => r

/-- DCM clean. -/
def execDcmClean (e : Eng) (way : Bool) (hi : BitVec 21) (s : State) : Out := dcmOp e way hi .read true false s

/-- DCM invalidate. -/
def execDcmInvalidate (e : Eng) (way : Bool) (hi : BitVec 21) (s : State) : Out := dcmOp e way hi .write false true s

/-- DCM clean-invalidate. -/
def execDcmCleanInvalidate (e : Eng) (way : Bool) (hi : BitVec 21) (s : State) : Out := dcmOp e way hi .write true true s

/-- ICM invalidate: the I-cache line, and a line-buffer entry of the same line. BY = 1 is legal (DEDUCED) and a fill of the line that
is in flight is left to land (DESIGN CHOICE): log 23. -/
def execIcmInvalidate (e : Eng) (way : Bool) (hi : BitVec 21) (s : State) : Out :=
  issue s e .long true true false (reservedFrom hi 0) fun s =>
    if way && (regGet s e).priv == 0 then .fault s (privilege (regGet s e) 1)
    else (pops s e 1 0).bind fun s1 vs =>
      let x := vs.headD 0
      let drop := fun (s : State) (l : LineAddr) (frame : Option Nat) =>
        let s2 := putCells s e 1 []
        let g := engGet s2 e
        let m := { g.m with lbuf := g.m.lbuf.filter (·.1 ≠ l), ic := match frame with | some f => tdel g.m.ic f | none => g.m.ic }
        Ans.ok (engPut s2 e { g with m := m }) none
      if way then
        match tfind (engGet s1 e).m.ic (frameOf x) with
          | some c => drop s1 c.line (some (frameOf x))
          | none => .ok (putCells s1 e 1 []) none
      else ((xlate s1 e .fetch x).mapFault maintFault).bind fun s2 pa =>
        if inWindow s2 pa then .ok (putCells s2 e 1 []) none
        else drop s2 (lineOf pa) (named (engGet s2 e).m.ic (lineOf pa))

end Sys2Proof.Machine
end

