-- ==== Sys2Proof/Machine/Digest.lean ====
section
/-! DEFINITION. The check codes of images, records and flits: CRC-32C (06 R131, 14 R325) and SHA-256 (02 R32). -/

namespace Sys2Proof.Machine

open Sys2Proof

/-- One bit of CRC-32C, least significant bit first. -/
def crcStep (c : Word) : Word := if c.getLsbD 0 then (c >>> 1) ^^^ 0x82F63B78#32 else c >>> 1

/-- One byte. -/
def crcTake (c : Word) (b : Byte) : Word :=
  crcStep (crcStep (crcStep (crcStep (crcStep (crcStep (crcStep (crcStep (c ^^^ b.setWidth 32))))))))

/-- CRC-32C with initial value and final XOR 0xFFFF_FFFF. -/
def crc32c (bs : List Byte) : Word := bs.foldl crcTake 0xFFFFFFFF#32 ^^^ 0xFFFFFFFF#32

/-! ### SHA-256 (02 R32): the algorithm is PRESUMED, that of FIPS 180-4, which the rule names (log 31) -/

/-- The integer n-th root of x, below 2^36, by its bits from the highest down. -/
def intRoot (n x : Nat) : Nat :=
  (List.range 36).foldr (fun k r => if (r + 2 ^ k) ^ n ≤ x then r + 2 ^ k else r) 0

/-- 32 bits after the point of the n-th root of p. -/
def rootFraction (n p : Nat) : Word := BitVec.ofNat 32 (intRoot n (p * 2 ^ (32 * n)))

/-- The first 64 primes: those up to 311. -/
def digestPrimes : List Nat := (List.range 312).filter fun p => decide (2 ≤ p) && (List.range p).all fun d => decide (d < 2) || p % d != 0

/-- What each of the 64 steps adds, and the eight words that a digest starts from: cube and square roots of primes. -/
def stepConstants : List Word := digestPrimes.map (rootFraction 3)
def digestStart : List Word := (digestPrimes.take 8).map (rootFraction 2)

/-- Three rotations of a word combined; with `shift` the last is a shift. -/
def rotations (x : Word) (i j k : Nat) (shift : Bool) : Word :=
  x.rotateRight i ^^^ x.rotateRight j ^^^ (if shift then x >>> k else x.rotateRight k)

/-- A block's sixteen words, the newest first, go on for n more. -/
def schedule : Nat → List Word → List Word
  | 0, l => l
  | n + 1, l =>
    let w := fun k => (l[k]?).getD 0
    schedule n ((w 15 + rotations (w 14) 7 18 3 true + w 6 + rotations (w 1) 17 19 10 true) :: l)

/-- One step; `add` is its constant and its word of the schedule together. -/
def digestStep (v : List Word) (add : Word) : List Word :=
  match v with
  | [a, b, c, d, e, f, g, h] =>
    let low := add + h + (g ^^^ (e &&& (f ^^^ g))) + rotations e 6 11 25 false
    [low + ((b &&& (a ||| c)) ||| (a &&& c)) + rotations a 2 13 22 false, a, b, c, low + d, e, f, g]
  | v => v

/-- A number of bytes, the highest first. -/
def beNat (bs : List Byte) : Nat := bs.foldl (fun n b => 256 * n + b.toNat) 0
def beBytes (k n : Nat) : List Byte := (List.range k).map fun i => BitVec.ofNat 8 (n / 256 ^ (k - 1 - i))

/-- n blocks of 64 bytes. -/
def digestBlocks : Nat → List Word → List Byte → List Word
  | 0, v, _ => v
  | n + 1, v, bs =>
    let words := (List.range 16).map fun k => BitVec.ofNat 32 (beNat ((bs.drop (4 * k)).take 4))
    let adds := List.zipWith (· + ·) stepConstants (schedule 48 words.reverse).reverse
    digestBlocks n (List.zipWith (· + ·) v (adds.foldl digestStep v)) (bs.drop 64)

/-- The SHA-256 digest, 32 bytes: the bytes are followed by 0x80, zeros, and their number of bits in 8 bytes. -/
def sha256 (bs : List Byte) : List Byte :=
  let n := bs.length
  let whole := bs ++ [0x80#8] ++ List.replicate ((119 - n % 64) % 64) 0 ++ beBytes 8 (8 * n)
  (digestBlocks (whole.length / 64) digestStart whole).flatMap fun w => beBytes 4 w.toNat

end Sys2Proof.Machine
end

