-- ==== Sys2Proof/Machine/Image.lean ====
section
/-! DEFINITION. A Weave image and its checks (02 R21-R36). -/

namespace Sys2Proof.Machine

open Sys2Proof

/-! ### Reading -/

/-- n bytes of a memory from address a, in one pass over what it lists. -/
def mslice (d : Byte) : Mem → Nat → Nat → List Byte
  | [], _, n => List.replicate n d
  | (k, v) :: r, a, n =>
    if k < a then mslice d r a n
    else if n ≤ k - a then List.replicate n d
    else List.replicate (k - a) d ++ v :: mslice d r (k + 1) (n - (k - a) - 1)

/-- What the loader reads from: the bytes there are so far, and the 8-byte words among them that are uncorrectable, by offset. -/
structure Reader where
  b : Array Byte
  bad : List Nat

/-- n bytes at offset o as a number. -/
def Reader.num (r : Reader) (o n : Nat) : Nat :=
  leNat ((List.range n).map fun k => (r.b[o + k]?).getD 0)

/-- n bytes at offset o. -/
def Reader.bytes (r : Reader) (o n : Nat) : List Byte := (List.range n).map fun k => (r.b[o + k]?).getD 0

/-- What a check comes to. A failure holds the code of 02 R36, and SECTION and ERRADDR where the manual states them. -/
inductive Chk (α : Type) where
  | ok (a : α)
  | fail (err : BitVec 4) (sec : Option Nat) (addr : Option Nat)
  /-- the bytes it needs have not arrived -/
  | more

def Chk.bind {α β : Type} (x : Chk α) (f : α → Chk β) : Chk β :=
  match x with
  | .ok a => f a
  | .fail e s a => .fail e s a
  | .more => .more

/-- The first uncorrectable word among n bytes from offset o. -/
def Reader.spoilt (r : Reader) (o n : Nat) : Option Nat :=
  (r.bad.filter fun w => decide (w < o + n ∧ o < w + 8)).min?

/-- The bytes from offset o on, n of them, have been read: an uncorrectable word among them is SOURCE, with what `place` says of its
section and offset. -/
def Reader.need (r : Reader) (o n : Nat) (place : Nat → Option Nat × Option Nat) : Chk Unit :=
  match r.spoilt o n with
  | some w => .fail 11 (place w).1 (place w).2
  | none => if r.b.size < o + n then .more else .ok ()

/-- The header's fields: offset and size (02 R22). -/
def headerFields : List (Nat × Nat) :=
  [(0, 4), (4, 2), (6, 2), (8, 4), (0x0C, 4), (0x10, 16), (0x20, 4), (0x24, 24), (0x3C, 4)]

/-- The header field that the uncorrectable word at offset w spoils, when it spoils no other (log 28): section 0, its offset. -/
def headerPlace (w : Nat) : Option Nat × Option Nat :=
  (some 0, match headerFields.filter fun f => decide (w < f.1 + f.2 ∧ f.1 < w + 8) with
    | [f] => some f.1
    | _ => none)

/-- A check with its error. -/
def Chk.must (b : Bool) (err : BitVec 4) (sec addr : Nat) : Chk Unit := if b then .ok () else .fail err (some sec) (some addr)

/-! ### Header and sections (02 R22-R24, R34 steps 2 and 3) -/

/-- The header's checks, in order. -/
def Reader.header (r : Reader) : Chk Unit :=
  (r.need 0 64 headerPlace).bind fun _ =>
  (Chk.must (r.bytes 0 4 == [0x57, 0x45, 0x41, 0x56]) 1 0 0).bind fun _ =>
  (Chk.must ((crc32c (r.bytes 0 60)).toNat == r.num 0x3C 4) 2 0 0x3C).bind fun _ =>
  (Chk.must (r.num 4 2 == 3) 3 0 4).bind fun _ =>
  (Chk.must (r.num 0x22 2 == 3 && decide (r.num 0x20 2 ≤ 1)) 4 0 0x20).bind fun _ =>
  let len := r.num 8 4
  (Chk.must (len % 4 == 0 && decide (120840 ≤ len ∧ len ≤ 393216)) 5 0 8).bind fun _ =>
  (Chk.must (r.num 6 2 == 7 || r.num 6 2 == 8) 6 0 6).bind fun _ =>
  (Chk.must (r.num 0x0C 4 == 0) 6 0 0x0C).bind fun _ =>
  Chk.must (r.num 0x24 24 == 0) 6 0 0x24

/-- The fixed body length of a section; FALLBACK's has a range. -/
def blenOk (t n : Nat) : Bool :=
  match t with
  | 1 => n == 280
  | 2 => n == 72712
  | 3 => n == 23064
  | 4 => n == 16384
  | 5 => n == 6144
  | 6 => n == 2048
  | 7 => n % 4 == 0 && decide (8 ≤ n ∧ n ≤ 272360)
  | 8 => n == 32
  | _ => false

/-- The sections, from offset p: their types as SECTIONS announces them. Answers the body offsets and lengths by type. -/
def Reader.sections (r : Reader) (len : Nat) : List Nat → Nat → Tab (Nat × Nat) → Chk (Tab (Nat × Nat))
  | [], p, acc => (Chk.must (p == len) 5 8 p).bind fun _ => .ok acc
  | t :: ts, p, acc =>
    if len < p + 16 then
      if len < p + 2 then .fail 5 none (some p)
      else (r.need p 2 fun _ => (none, none)).bind fun _ => .fail 5 (some (r.num p 2)) (some p)
    else
      (r.need p 16 fun w => (if w < p + 2 then none else some (r.num p 2), none)).bind fun _ =>
      let ty := r.num p 2
      let n := r.num (p + 4) 4
      (Chk.must (ty == t) 6 ty p).bind fun _ =>
      (Chk.must (r.num (p + 2) 2 == 0) 6 ty (p + 2)).bind fun _ =>
      (Chk.must (r.num (p + 12) 4 == 0) 6 ty (p + 12)).bind fun _ =>
      (Chk.must (blenOk ty n) 6 ty (p + 4)).bind fun _ =>
      (Chk.must (decide (p + 16 + n ≤ len)) 5 ty p).bind fun _ =>
      (r.need (p + 16) n fun _ => (some ty, some (p + 16))).bind fun _ =>
      (Chk.must ((crc32c (r.bytes (p + 16) n)).toNat == r.num (p + 8) 4) 7 ty (p + 16)).bind fun _ =>
      r.sections len ts (p + 16 + n) (tput acc t (p + 16, n))

/-- Steps 2 and 3 of 02 R34. -/
def Reader.structure_ (r : Reader) : Chk (Tab (Nat × Nat)) :=
  r.header.bind fun _ =>
  r.sections (r.num 8 4) (if r.num 6 2 == 8 then [1, 2, 3, 4, 5, 6, 7, 8] else [1, 2, 3, 4, 5, 6, 8]) 64 []

/-- The body of section t. -/
def bodyAt (secs : Tab (Nat × Nat)) (t : Nat) : Nat := (tget (0, 0) secs t).1

/-! ### Content (02 R33) -/

/-- An OWNER and LEND pair that 02 R33 forbids. -/
def slotBad (o l : Nat) : Bool :=
  decide (74 ≤ o ∧ o ≤ 0xFE) || decide (74 ≤ l ∧ l ≤ 0xFE) || (o == l && o != 0xFF)

/-- A transmit-frame slot byte that 02 R33 forbids. -/
def txBad (b : Byte) : Bool := (fld b 6 2 != 0) || (b.getLsbD 5 && b.getLsbD 2 && fld b 3 2 == fld b 0 2)

/-- A ROUTES entry that 02 R28 or R33 forbids. -/
def routeBad (w : Word) : Bool :=
  w &&& 0xFFFF0088#32 != 0 ||
  (w.getLsbD 6 && (!w.getLsbD 2 || fld w 4 2 == fld w 0 2)) ||
  (w.getLsbD 2 && fld w 8 8 == 0)

/-- A region register that 02 R33 forbids, or with a reserved bit (02 R21); or, valid or not, one with a BASE bit outside [23:3] or a
LIMIT bit outside [24:3] (DESIGN CHOICE: CONTENT, log 28). -/
def regionBad (base limit attr : Word) : Bool :=
  base &&& 0xFF000007#32 != 0 || limit &&& 0xFE000007#32 != 0 || attr &&& ~~~0x3F07#32 != 0 ||
  (attr.getLsbD 2 && (limit.ult base || decide (0x1000000 < limit.toNat)))

/-- The first offender among n entries, with its offset. -/
def firstBad (n base size : Nat) (bad : Nat → Bool) : Option Nat :=
  ((List.range n).find? fun k => bad (base + k * size)).map fun k => base + k * size

/-- Several places in order: the first whose condition holds. -/
def firstOf (l : List (Nat × Bool)) : Option Nat := (l.find? (·.2)).map (·.1)

/-- Quotas: minimum above maximum, maximum above the pool, or the minimums' sum above the pool (from the first channel on). -/
def quotaBad (nb : Nat) : List (Nat × Nat × Nat) → Nat → Option Nat
  | [], _ => none
  | (o, mn, mx) :: r, sum => if mx < mn ∨ nb < mx ∨ nb < sum + mn then some o else quotaBad nb r (sum + mn)

/-- An enabled instance's fields as an image or a commit gives them. -/
structure InstDef where
  eng : BitVec 64
  first : Nat
  count : Nat
  share : Nat

/-- An instance clashes with those before it, with the engines that exist or with the pool. -/
def instBad (enable : BitVec 64) (nb : Nat) (x : InstDef) (before : List InstDef) : Bool :=
  x.eng &&& ~~~enable != 0 || before.any (fun y => x.eng &&& y.eng != 0) ||
  (x.count != 0 && (decide (1024 < x.first + x.count) ||
    before.any fun y => y.count != 0 && decide (x.first < y.first + y.count ∧ y.first < x.first + x.count))) ||
  decide (nb < (before.map (·.share)).sum + x.share)

/-- Instances in ascending order; the first that clashes, by its offset. -/
def instsBad (enable : BitVec 64) (nb : Nat) : List (Nat × InstDef) → List InstDef → Option Nat
  | [], _ => none
  | (o, x) :: r, before => if instBad enable nb x before then some o else instsBad enable nb r (x :: before)

/-- The bytes of a plan's records and frames. -/
def planLen (r : Reader) (o : Nat) : Nat :=
  32 + 4 * r.num (o + 8) 4 + 512 * ((List.range 4).filter fun p => (r.num (o + 12) 4).testBit p).length

/-- The plans' offsets; else the offset that 02 R36 names when they do not end at the body's last byte. -/
def planWalk (r : Reader) (end_ : Nat) : Nat → Nat → List Nat × Option Nat
  | 0, p => ([], if p = end_ then none else some p)
  | n + 1, p =>
    if end_ < p + 32 ∨ end_ < p + planLen r p then ([], some p)
    else
      let (l, e) := planWalk r end_ n (p + planLen r p)
      (p :: l, e)

/-- The plan at offset o. -/
def planAt (r : Reader) (o : Nat) : Plan :=
  let n := r.num (o + 8) 4
  let ports := (List.range 4).filter fun p => (r.num (o + 12) 4).testBit p
  { retired := r.bytes o 4, widths := BitVec.ofNat 8 (r.num (o + 4) 1)
    slots := (List.range n).map fun k => BitVec.ofNat 32 (r.num (o + 32 + 4 * k) 4)
    txmask := BitVec.ofNat 4 (r.num (o + 12) 4)
    frames := (List.range ports.length).map fun k => r.bytes (o + 32 + 4 * n + 512 * k) 512
    subst := r.bytes (o + 16) 4, off := o, len := planLen r o }

/-- An engine number names an engine that exists. -/
def namesEngine (enable : BitVec 64) (b : Byte) : Bool := decide (b.toNat < 64) && enable.getLsbD b.toNat

/-- A plan's own offence, by its offset. A `SUBST` entry other than 0xFF against an unused `RETIRED` entry, and a used `RETIRED` entry
after an unused one, break the form of 02 R31 (DESIGN CHOICE: CONTENT, log 28). -/
def planBad (r : Reader) (enable : BitVec 64) (o : Nat) : Option Nat :=
  let x := planAt r o
  let used := x.retired.filter (· ≠ 0xFF#8)
  let pairs := x.retired.zip x.subst
  let w := fun p => fld x.widths (2 * p) 2
  let rec_ := fun k => o + 32 + 4 * k
  let slots := (List.range x.slots.length).find? fun k =>
    let v := r.num (rec_ k) 4
    decide (137 < v % 256) || slotBad (v / 65536 % 256) (v / 16777216) ||
      (List.range k).any fun j => r.num (rec_ j) 2 == v % 65536
  let frame := (List.range (512 * x.frames.length)).find? fun k => txBad (BitVec.ofNat 8 (r.num (rec_ x.slots.length + k) 1))
  match firstOf [(o, used.length < 4 && (x.retired.take used.length).contains 0xFF#8),
                 (o, used.any fun b => !namesEngine enable b || used.count b != 1),
                 (o + 4, (List.range 4).any fun p => w p == 3),
                 (o, used.isEmpty && x.widths == 0),
                 (o + 5, r.num (o + 5) 3 != 0),
                 (o + 12, decide (16 ≤ r.num (o + 12) 4)),
                 (o + 16, pairs.any fun p =>
                   if p.1 = 0xFF#8 then p.2 != 0xFF#8
                   else !namesEngine enable p.2 || used.contains p.2),
                 (o + 20, r.num (o + 20) 12 != 0)] with
  | some a => some a
  | none =>
    match slots with
    | some k => some (rec_ k)
    | none => frame.map (rec_ x.slots.length + ·)

/-- The first plan whose key equals an earlier one's. -/
def keyTwice (r : Reader) : List Nat → List (BitVec 64 × BitVec 8) → Option Nat
  | [], _ => none
  | o :: l, seen =>
    let x := planAt r o
    let key := (x.retired.foldl (fun m b => if b.toNat < 64 then setBit m b.toNat true else m) (0 : BitVec 64), x.widths)
    if seen.contains key then some o else keyTwice r l (key :: seen)

/-- The engines, events, pool buffers and instances of an image. -/
def Reader.enable (r : Reader) (secs : Tab (Nat × Nat)) : BitVec 64 := BitVec.ofNat 64 (r.num (bodyAt secs 1) 8)
def Reader.buffers (r : Reader) (secs : Tab (Nat × Nat)) : Nat := r.num (bodyAt secs 3 + 0x10) 4 / 256
def Reader.inst (r : Reader) (secs : Tab (Nat × Nat)) (i : Nat) : InstDef :=
  let o := bodyAt secs 6 + 32 * i
  ⟨BitVec.ofNat 64 (r.num o 8), r.num (o + 8) 2, r.num (o + 10) 2, r.num (o + 12) 4⟩
def Reader.instEn (r : Reader) (secs : Tab (Nat × Nat)) (i : Nat) : Bool := (r.num (bodyAt secs 6 + 32 * i + 16) 4).testBit 0

/-- The first condition of 02 R33 that holds, by section and offset: sections ascending, each in the order of its table. -/
def Reader.content (r : Reader) (secs : Tab (Nat × Nat)) : Option (Nat × Nat) :=
  let at_ := bodyAt secs
  let en := r.enable secs
  let nb := r.buffers secs
  let s1 := (((List.range 64).find? fun k => en.getLsbD k && r.num (at_ 1 + 0x18 + 4 * k) 1 % 4 != 0).map
    fun k => at_ 1 + 0x18 + 4 * k)
  let s2 := (firstOf [(at_ 2, r.num (at_ 2) 2 != 138), (at_ 2 + 2, r.num (at_ 2 + 2) 2 != 4),
                      (at_ 2 + 4, r.num (at_ 2 + 4) 4 != 0)]).or
    ((firstBad 35328 (at_ 2 + 8) 2 fun o => slotBad (r.num o 1) (r.num (o + 1) 1)).or
     (firstBad 2048 (at_ 2 + 0x11408) 1 fun o => txBad (BitVec.ofNat 8 (r.num o 1))))
  let p := at_ 3
  let spwin := r.num p 8
  let lr := r.num (p + 8) 4
  let pb := r.num (p + 0xC) 4
  let ps := r.num (p + 0x10) 4
  let s3 := (firstOf [(p, spwin % 0x1000000 != 0 || decide (2 ^ 44 ≤ spwin)),
                      (p + 8, lr % 4096 != 0 || decide (0x1000000 < lr + 0x40000)),
                      (p + 0xC, pb % 256 != 0 || decide (0x1000000 ≤ pb ∨ 0x1000000 < pb + ps) ||
                        (ps != 0 && decide (pb < lr + 0x40000 ∧ lr < pb + ps))),
                      (p + 0x10, ps % 256 != 0 || decide (8388608 < ps)),
                      (p + 0x14, r.num (p + 0x14) 4 != 0)]).or
    ((quotaBad nb ((List.range 1024).map fun c =>
        (p + 0x18 + 4 * c, r.num (p + 0x18 + 4 * c) 2, r.num (p + 0x1A + 4 * c) 2)) 0).or
     (firstBad 1184 (p + 0x1018) 16 fun o =>
        regionBad (BitVec.ofNat 32 (r.num o 4)) (BitVec.ofNat 32 (r.num (o + 4) 4)) (BitVec.ofNat 32 (r.num (o + 8) 4)) ||
        r.num (o + 12) 4 != 0))
  let s4 := firstBad 4096 (at_ 4) 4 fun o => routeBad (BitVec.ofNat 32 (r.num o 4))
  let s5 := ((List.range 384).find? fun k =>
      let o := at_ 5 + 16 * k
      let w := r.num o 4
      decide (2 ^ 22 ≤ w) || r.num (o + 6) 2 != 0 || decide (4 < w % 8) || (decide (256 ≤ k) && w % 8 != 0) ||
        BitVec.ofNat 64 (r.num (o + 8) 8) &&& ~~~en != 0 || (w.testBit 3 && !r.instEn secs (w / 65536))).map
    fun k => at_ 5 + 16 * k
  let on := (List.range 64).filter fun i => r.instEn secs i
  let s6 := (firstBad 64 (at_ 6) 32 fun o => decide (2 ≤ r.num (o + 16) 4) || r.num (o + 20) 12 != 0).or
    (instsBad en nb (on.map fun i => (at_ 6 + 32 * i, r.inst secs i)) [])
  let s7 := match tfind secs 7 with
    | none => none
    | some (o, n) =>
      let plans := r.num o 2
      if 32 < plans ∨ r.num (o + 2) 6 ≠ 0 then some (if 32 < plans then o else o + 2)
      else
        let (l, e) := planWalk r (o + n) plans (o + 8)
        match e with
        | some a => some a
        | none => (l.findSome? (planBad r en)).or (keyTwice r l [])
  (s1.map (1, ·)).or ((s2.map (2, ·)).or ((s3.map (3, ·)).or ((s4.map (4, ·)).or ((s5.map (5, ·)).or
    ((s6.map (6, ·)).or (s7.map (7, ·)))))))

end Sys2Proof.Machine
end

