-- ==== Sys2Proof/Machine/Views.lean ====
section
/-! DEFINITION. Who makes an I/O access, and what view it has (16 R370, 21 R462, R465, R466).
What is DEDUCED or a DESIGN CHOICE here is said in notes/assumptions, log 11, 13 and 20. -/

namespace Sys2Proof.Machine

open Sys2Proof

/-- What an access sees. -/
inductive View where
  | manager
  | inst (i : Nat)
  | empty
  deriving DecidableEq, Repr

/-- A source may make I/O accesses: an engine that exists and is above U (05 R108, 21 R462), the host, a TAP that is not locked. -/
def srcActs (s : State) (src : IoSrc) : Bool :=
  match src with
  | .engine e => engExists s e.val && (regGet s e).priv != 0
  | .host => true
  | .tap => !s.cpx.taplock && !s.cpx.nvlock

/-- The view of a source (21 R462). -/
def viewOf (s : State) (src : IoSrc) : View :=
  match src with
  | .engine e =>
    if (regGet s e).priv = 2 then .manager
    else match instOf s e with
      | some i => .inst i
      | none => .empty
  | .host => .manager
  | .tap => .manager

/-- The master ID of a source; the test access port counts as the host port (21 R466). -/
def masterOf (src : IoSrc) : Nat :=
  match src with
  | .engine e => e.val
  | .host => 66
  | .tap => 66

/-- A write of master m to a register in which hardware counts is kept: it takes effect after what hardware does in the cycle, and of several
the highest master's stands (21 R466). -/
def noteSet (s : State) (addr : BitVec 24) (m : Nat) (v : Word) : State :=
  let l := s.cyc.sets
  let low := fun (x : BitVec 24 × Nat × Word) => decide (x.2.1 ≤ m)
  { s with cyc := { s.cyc with sets := l.takeWhile low ++ (addr, m, v) :: l.dropWhile low } }

/-- An unmapped access (21 R465): UNMAPPED and its capture, or UNMULTI. -/
def unmapped (s : State) (src : IoSrc) (addr : BitVec 24) (write : Bool) : State :=
  let c := s.cpx
  let v := viewOf s src
  if c.unmapped then fresh { s with cpx := { c with unmulti := true } } 0x04 2
  else fresh { s with cpx := { c with
    unmapped := true, unmmst := BitVec.ofNat 8 (masterOf src),
    unmaddr := addr.setWidth 32 ||| (bitW write <<< 24) ||| (bitW (v != .manager) <<< 25) |||
      (match v with | .inst i => BitVec.ofNat 32 (i % 64) <<< 26 | _ => 0) } } 0x04 1

end Sys2Proof.Machine
end

