-- ==== Sys2Proof/Machine/Evg.lean ====
section
/-! DEFINITION. The Event Gatherer's inputs, exchange and registers (10 R228-R233, R241, R244, R245). -/

namespace Sys2Proof.Machine

open Sys2Proof


/-! ### Inputs -/

/-- The synchronised level of a wire. -/
def setInput (s : State) (w : Nat) (level : Bool) : State :=
  { s with evg := { s.evg with input := setBit s.evg.input w level } }

/-- A qualifying edge (10 R228): rising for SENSE 2, falling for 3, each for 4. -/
def qualifies (x : Source) (rising : Bool) : Bool :=
  x.sense == 4 || (rising && x.sense == 2) || (!rising && x.sense == 3)

/-- The synchronised input of a wire takes a level: a qualifying edge of an occurrence source is one occurrence (10 R228), unless the
start-up latches stand in for the input stage (10 R241); a level source that deasserts leaves service (10 R230). -/
def wireTo (s : State) (wire : BitVec 8) (level : Bool) : State :=
  let n := wire.toNat + 1
  let s1 := setInput s wire.toNat level
  if s.evg.input.getLsbD wire.toNat != level && qualifies (srcGet s n) level && !s.evg.latched then occur s1 n else levelOut s1 n

/-- EV_IN_EDGE (10 R228). -/
def execEvInEdge (wire : BitVec 8) (rising : Bool) (s : State) : Host.Outcome State Fault Refusal :=
  when (fclkOn s && s.evg.input.getLsbD wire.toNat != rising) s (wireTo s wire rising)

/-- EV_IN_LEVEL_CHANGE (10 R230). -/
def execEvInLevelChange (wire : BitVec 8) (level : Bool) (s : State) : Host.Outcome State Fault Refusal :=
  when (fclkOn s) s (wireTo s wire level)

/-- INTERNAL_OCCURRENCE (10 R228, R242): one occurrence from the producer's carry count, or from the lowest pending-stop bit. -/
def execInternalOccurrence (id : BitVec 9) (s : State) : Host.Outcome State Fault Refusal :=
  let n := id.toNat
  let x := srcGet s n
  .next (
    if !fclkOn s || n < 257 || 384 < n then s
    else if n = 361 then
      match (List.range 64).find? fun k => s.evg.stops.getLsbD k with
      | some k => occur { s with evg := { s.evg with stops := setBit s.evg.stops k false } } 361
      | none => s
    else if x.carry = 0 then s
    else occur (srcPut s n { x with carry := x.carry - 1 }) n)

/-- BATCH_TIMER_EXPIRY (10 R229): a batch whose count or time has come becomes a release. -/
def execBatchTimerExpiry (id : BitVec 9) (s : State) : Host.Outcome State Fault Refusal :=
  when (fclkOn s) s (batchCheck s id.toNat)

/-- START_UP_LATCH_EDGE (10 R241): an armed latch holds its edge; the latches are armed from reset until the hand-over of a full image
(log 29). -/
def execStartUpLatchEdge (wire : BitVec 8) (rising : Bool) (s : State) : Host.Outcome State Fault Refusal :=
  let v := s.evg
  when (s.power && v.latched) s { s with evg :=
    if rising then { v with latRise := setBit v.latRise wire.toNat true }
    else { v with latFall := setBit v.latFall wire.toNat true } }

/-! ### Presentation and reports -/

/-- PRESENTATION (10 R231). -/
def execPresentation (e : Eng) (s : State) : Host.Outcome State Fault Refusal :=
  .next (match best s e with
    | some (n, q) => if fclkOn s && aboveHeld s e q && offered s n == some e then present s e n q else s
    | none => s)

/-- WITHDRAWAL (10 R232). -/
def execWithdrawal (e : Eng) (s : State) : Host.Outcome State Fault Refusal :=
  when (fclkOn s && !staysPresented s e) s (withdraw s e)

/-- The presentation of e withdrawn when it may not stay. -/
def withdrawIf (s : State) (e : Eng) : State := if staysPresented s e then s else withdraw s e

/-- The oldest report of e without it. -/
def popReport (s : State) (e : Eng) : State :=
  let g := engGet s e
  engPut s e { g with repq := g.repq.drop 1 }

/-- CLAIM_REPORT (10 R232): a CONSUMED or RELEASED report settles; the mask it carries may withdraw a presentation. -/
def execClaimReport (e : Eng) (s : State) : Host.Outcome State Fault Refusal :=
  .next (match (engGet s e).repq.head? with
    | some (.consumed n m) => if fclkOn s then withdrawIf (settle (popReport s e) e (.consumed n m)) e else s
    | some (.released n) => if fclkOn s then settle (popReport s e) e (.released n) else s
    | _ => s)

/-- MASK_SHADOW_UPDATE (10 R233). -/
def execMaskShadowUpdate (e : Eng) (s : State) : Host.Outcome State Fault Refusal :=
  .next (match (engGet s e).repq.head? with
    | some (.mask m) => if fclkOn s then withdrawIf (settle (popReport s e) e (.mask m)) e else s
    | _ => s)

/-! ### Registers -/

def evgErr (s : State) : State := fresh { s with evg := { s.evg with cfgerr := true } } 0x4000 0

/-- A source number that exists. -/
def isSource (n : Nat) : Bool := decide (1 ≤ n ∧ n ≤ 384)

/-- A write of `EVG.SWRAISE`. -/
def swraise (s : State) (v : Word) : State :=
  let n := (fld v 0 9).toNat
  if !isSource n || isLevel n (srcGet s n) then evgErr s else occur s n

/-- EVG_SWRAISE (10 R245). -/
def execEvgSwraise (v : Word) (s : State) : Host.Outcome State Fault Refusal := when (fclkOn s) s (swraise s v)

/-- EVG_PEND_CLR (10 R245, R232). -/
def execEvgPendClr (id : BitVec 9) (s : State) : Host.Outcome State Fault Refusal :=
  when (fclkOn s && isSource id.toNat) s (clearSource s id.toNat)

/-- A level source leaves service. -/
def eoi (s : State) (n : Nat) : State :=
  let x := srcGet s n
  if isLevel n x then srcPut s n { x with insvc := false } else s

/-- EVG_PEND_EOI (10 R230). -/
def execEvgPendEoi (id : BitVec 9) (s : State) : Host.Outcome State Fault Refusal :=
  when (fclkOn s && isSource id.toNat) s (eoi s id.toNat)

/-- Half of a 64-bit register written. -/
def setHalf (x : BitVec 64) (hi : Bool) (v : Word) : BitVec 64 := if hi then v ++ fld x 0 32 else fld x 32 32 ++ v

/-- The engines an access from a view may name as targets: those that exist, and in an instance's view its own (10 R245). -/
def targetSet (s : State) (v : View) : BitVec 64 :=
  match v with
  | .inst i => s.wvl.enable &&& (insGet s i).eng
  | _ => s.wvl.enable

/-- A new CCOUNT or CTIME of source n: the register changes at the end of the cycle (10 R229). -/
def coalesce (s : State) (n : Nat) (count : Option (BitVec 8)) (time : Option Half) : State :=
  let c := s.cyc
  { s with cyc := { c with ccounts := match count with | some k => tput c.ccounts n k | none => c.ccounts
                           ctimes := match time with | some k => tput c.ctimes n k | none => c.ctimes } }

/-- The cycle ends: its new CCOUNTs and CTIMEs are there. -/
def endCoalesce (s : State) : State :=
  let s1 := s.cyc.ccounts.foldl (fun s p => srcPut s p.1 { srcGet s p.1 with ccount := p.2 }) s
  s.cyc.ctimes.foldl (fun s p => srcPut s p.1 { srcGet s p.1 with ctime := p.2 }) s1

/-- A source's field written: 0 CFG, 1 CTIME, 2 and 3 TARGET. Reserved encodings leave their field and set CFGERR. -/
def srcWrite (s : State) (v : View) (n : Nat) (field : BitVec 2) (w : Word) : State :=
  let x := srcGet s n
  if field = 0 then
    let sense := fld w 0 3
    let bad := decide (5 ≤ sense.toNat) || (decide (257 ≤ n) && sense != 0)
    let s1 := srcPut s n { x with sense := if bad then x.sense else sense, en := w.getLsbD 3, prio := fld w 4 4,
                                  inst := fld w 16 6 }
    let s2 := coalesce s1 n (some (fld w 8 8)) none
    if bad then evgErr s2 else s2
  else if field = 1 then coalesce s n none (some (fld w 0 16))
  else
    let hi := field == 3
    let allowed : Word := if hi then fld (targetSet s v) 32 32 else fld (targetSet s v) 0 32
    if w &&& ~~~allowed = 0 then srcPut s n { x with target := setHalf x.target hi w } else evgErr s

/-- What a changed source brings about at once: the end of service, and withdrawals (10 R230, R232). -/
def srcChanged (s : State) (n : Nat) : State := (List.finRange 64).foldl withdrawIf (levelOut s n)

/-- A source's registers are in a view: the manager's, or that of the instance the source belongs to (10 R245). -/
def srcVisible (s : State) (v : View) (n : Nat) : Bool :=
  isSource n && (match v with
    | .manager => true
    | .inst i => (srcGet s n).inst.toNat == i
    | .empty => false)

/-- The I/O address of a source's configuration word. -/
def srcAddr (n : Nat) (field : BitVec 2) : BitVec 24 := BitVec.ofNat 24 (0x5000 + 16 * (n - 1) + 4 * field.toNat)

/-- EVG_SOURCE_CONFIG_WRITE (10 R229, R245). -/
def execEvgSourceConfigWrite (src : IoSrc) (id : BitVec 9) (field : BitVec 2) (v : Word) (s : State) :
    Host.Outcome State Fault Refusal :=
  let n := id.toNat
  let w := viewOf s src
  when (fclkOn s && srcActs s src) s (
    if srcVisible s w n then srcChanged (srcWrite s w n field v) n
    else unmapped s src (srcAddr n field) true)

/-- `EVG.EVOUT` after the cycle's writes (10 R244): a write of it first, then the clears, then the sets, in whatever order they came. -/
def evoutNow (s : State) (c : Cyc) : State :=
  { s with cyc := c, evg := { s.evg with evout := (c.evBase.getD 0 &&& ~~~c.evClr) ||| c.evSet } }

/-- The cycle's record with the value from before its first write. -/
def evCyc (s : State) : Cyc := { s.cyc with evBase := some (s.cyc.evBase.getD s.evg.evout) }

def evoutWrite (s : State) (v : Word) : State := evoutNow s { evCyc s with evBase := some v }
def evoutSet (s : State) (v : Word) : State := evoutNow s { evCyc s with evSet := s.cyc.evSet ||| v }
def evoutClr (s : State) (v : Word) : State := evoutNow s { evCyc s with evClr := s.cyc.evClr ||| v }

/-- EVG_EVOUT_WRITE (10 R244). -/
def execEvgEvoutWrite (v : Word) (s : State) : Host.Outcome State Fault Refusal := when (fclkOn s) s (evoutWrite s v)

/-- EVG_EVOUTSET (10 R244). -/
def execEvgEvoutset (v : Word) (s : State) : Host.Outcome State Fault Refusal := when (fclkOn s) s (evoutSet s v)

/-- EVG_EVOUTCLR (10 R244). -/
def execEvgEvoutclr (v : Word) (s : State) : Host.Outcome State Fault Refusal := when (fclkOn s) s (evoutClr s v)

end Sys2Proof.Machine
end

