-- ==== Sys2Proof/Machine/Link.lean ====
section
/-! DEFINITION. What every use of an Ibfel port shares: its states and error bits, its queues, routes, and the layout of messages
(13 R285, 14 R320, R335-R343).
What is DEDUCED or a DESIGN CHOICE here is said in notes/assumptions, log 11 and 15. -/

namespace Sys2Proof.Machine

open Sys2Proof

/-! ### Error bits and states (14 R343) -/

def eCfg : Nat := 0
def eLink : Nat := 1
def eReplay : Nat := 2
def eRetrymax : Nat := 3
def eLanefail : Nat := 4
def eLanethr : Nat := 5
def eTrainfail : Nat := 6
def eProto : Nat := 7
def eHopdrop : Nat := 8
def eUnreach : Nat := 9
def eLost : Nat := 10
def eMgovf : Nat := 11
def eMgrx : Nat := 12

/-- A bit of `IBF.ERR` set: source 338 + 2n when it was 0 and enabled. -/
def ibfErr (s : State) (p k : Nat) : State :=
  let x := ibfGet s p
  raiseIf (!x.err.getLsbD k && x.even.getLsbD k) (fresh (ibfPut s p { x with err := setBit x.err k true }) (0x30008 + 0x1000 * p) k) (338 + 2 * p)

/-- A port enters a state: source 337 + 2n at a change. -/
def portState (s : State) (p : Nat) (st : PortSt) : State :=
  let x := ibfGet s p
  raiseIf (x.st != st) (ibfPut s p { x with st := st }) (337 + 2 * p)

/-- Flits counted in `IBF.LOST` (14 R333, R339). -/
def countLost (s : State) (p n : Nat) : State :=
  if n = 0 then s
  else
    let x := ibfGet s p
    ibfErr (ibfPut s p { x with lost := satAdd x.lost n }) p eLost

/-! ### Transmit queues (14 R338) -/

def txQueue (s : State) (p v : Nat) : List LaneFlit := tget [] (ibfGet s p).tx v
def txRoom (s : State) (p v : Nat) : Bool := decide ((txQueue s p v).length < 32)

/-- Flits of a lane appended to a port's transmit queue. -/
def txPush (s : State) (p v : Nat) (l : List LaneFlit) : State :=
  let x := ibfGet s p
  ibfPut s p { x with tx := tset [] x.tx v (tget [] x.tx v ++ l) }

/-- Crossbar output of port p (02 R26). -/
def outTable (p : Nat) : Nat := 133 + p

/-- A message under way is named by the master that puts its flits, and, where one master puts messages of several kinds, by its kind: 0 one
forwarded or its own, 1 a management request that software sends, 2 a response, 3 a health
message. -/
def txName (m kind : Nat) : Nat := m + 128 * kind

/-- A message may put its next flit on a lane: the queue has room, and the lane is held by the message, or is free with none waiting
longer. -/
def txReady (s : State) (p v m : Nat) : Bool :=
  let x := ibfGet s p
  let h := tget 0 x.txHold v
  txRoom s p v && (h == m || (h == 0 && ((tget [] x.txWait v).head?.getD m == m)))

/-- Its master is served in the present slot of the crossbar output (02 R40). -/
def txServe (s : State) (p v m : Nat) : Option State :=
  if txReady s p v m then outServe s (outTable p) (m % 128) true else none

/-- A message waits for lane v nowhere. -/
def txForget (s : State) (v m : Nat) : State :=
  (List.range 4).foldl (fun s p =>
    let x := ibfGet s p
    ibfPut s p { x with txWait := tset [] x.txWait v ((tget [] x.txWait v).filter (· ≠ m)) }) s

/-- A message that may not take a lane waits for it, after those that came before; one without a slot has not reached the queue. -/
def txJoin (s : State) (p v m : Nat) : State :=
  let x := ibfGet s p
  if (slotFor s (outTable p) (m % 128) true).isNone || tget 0 x.txHold v == m || (tget [] x.txWait v).contains m then s
  else
    let s1 := txForget s v m
    let y := ibfGet s1 p
    ibfPut s1 p { y with txWait := tset [] y.txWait v (tget [] y.txWait v ++ [m]) }

/-- The message that holds a lane; 0 for none. -/
def txHeld (s : State) (p v m : Nat) : State :=
  let x := ibfGet s p
  ibfPut s p { x with txHold := tset 0 x.txHold v m }

/-! ### Routes (14 R337, R338) -/

/-- A destination is this device: its number, or the number that the twin alias stands for (15 R360). -/
def isOwn (s : State) (d : BitVec 12) : Bool := d == s.cpx.devid || (s.twn.alias_ && d == s.twn.peer)

def routeOf (s : State) (d : BitVec 12) : Half := tget 0 s.wvl.routes d.toNat

/-- HOPS of the ROUTES entry. -/
def hopsOf (s : State) (d : BitVec 12) : Byte := fld (routeOf s d) 8 8

/-- The port a message for d takes; else it is unreachable, counted at the port that PRI names. -/
def routePort (s : State) (d : BitVec 12) : Option Nat :=
  let r := routeOf s d
  let pri := (fld r 0 2).toNat
  let alt := (fld r 4 2).toNat
  if r.getLsbD 2 && (ibfGet s pri).st == .active then some pri
  else if r.getLsbD 2 && r.getLsbD 6 && (ibfGet s alt).st == .active then some alt
  else none

/-- A message is discarded as unreachable. -/
def unreachable (s : State) (d : BitVec 12) : State :=
  let p := (fld (routeOf s d) 0 2).toNat
  let x := ibfGet s p
  ibfErr (ibfPut s p { x with unreach := satAdd x.unreach 1 }) p eUnreach

/-! ### Bytes of a flit and a header -/

/-- n bytes at offset o, as a number. -/
def flitNat (d : LineData) (o n : Nat) : Nat := d.toNat / 2 ^ (8 * o) % 2 ^ (8 * n)

/-- Byte o replaced. -/
def flitByte (d : LineData) (o : Nat) (b : Byte) : LineData := mergeLine d (toLine o [b]) (lineMask o 1)

/-- A message header's field at offset o, of n bytes (13 R285). -/
def hdrNat (h : BitVec 256) (o n : Nat) : Nat := h.toNat / 2 ^ (8 * o) % 2 ^ (8 * n)

/-- A header's field replaced. -/
def hdrSet (h : BitVec 256) (o n v : Nat) : BitVec 256 :=
  (h &&& ~~~ BitVec.ofNat 256 ((2 ^ (8 * n) - 1) * 2 ^ (8 * o))) ||| BitVec.ofNat 256 (v % 2 ^ (8 * n) * 2 ^ (8 * o))

/-- The header of a message, from its first flit. -/
def hdrOf (d : LineData) : BitVec 256 := fld d 0 256

/-- Payload bytes that a header's LENGTH gives the message on the link: a greater one than 16,384 makes a one-flit message (14
R335). -/
def hdrFlits (h : BitVec 256) : Nat :=
  let n := hdrNat h 0x10 2
  if 16384 < n then 1 else (32 + n + 63) / 64

/-- Flits of the message whose first flit is d (14 R335). -/
def flitsOf (v : Nat) (d : LineData) : Nat := if v < 2 then hdrFlits (hdrOf d) else 1

/-- The destination of a message (14 R337): DSTDEV, or GADDR[55:44] on the management lane. -/
def flitDest (v : Nat) (d : LineData) : BitVec 12 :=
  if v = 3 then BitVec.ofNat 12 (flitNat d 8 7 / 2 ^ 44) else BitVec.ofNat 12 (flitNat d 6 2)

/-- Where HOPLEFT lies (14 R337). -/
def hopAt (v : Nat) : Nat := if v = 3 then 1 else 0x1B

/-- Bytes cut into flits of 64, the last filled with zeros (14 R335). -/
def toFlits (bs : List Byte) : Nat → List LineData
  | 0 => []
  | n + 1 => toLine 0 (bs.take 64) :: toFlits (bs.drop 64) n

/-! ### Management messages (14 R340) -/

/-- The payload of a management flit. -/
def mgFlit (mop hop : Byte) (srcdev : BitVec 12) (tag : Half) (chan : BitVec 10) (gaddr : BitVec 56) (count status : Byte)
    (data : List Byte) : LineData :=
  toLine 0 ([mop, hop] ++ toBytes 2 srcdev.toNat ++ toBytes 2 tag.toNat ++ toBytes 2 chan.toNat ++ toBytes 8 gaddr.toNat ++
    [count, status] ++ List.replicate 14 0 ++ data.take 32)

/-- What the transport layer makes of a message it is given (14 R337, R338, R342). -/
inductive Put where
  | done (s : State)
  /-- the queue of lane v at port p has no room or no slot for message m, or other messages come before -/
  | wait (p v m : Nat)

/-- The one-flit message m of lane v is queued at port p. -/
def putAt (s : State) (p v m : Nat) (d : LineData) : Put :=
  match if tget 0 (ibfGet s p).txHold v = 0 then txServe s p v m else none with
  | some s1 => .done (txForget (txPush s1 p v [.flit d]) v m)
  | none => .wait p v m

/-- A management operation the manual names (14 R341). -/
def mopKnown (d : LineData) : Bool := decide (1 ≤ flitNat d 0 1 ∧ flitNat d 0 1 ≤ 7)

/-- A management message enters the transport layer at port p; a zero HOPLEFT is set from ROUTES. One for this device is
delivered at p, or discarded there for a reserved MOP (14 R341). `kind` tells requests that software sends from responses. -/
def mgSend (s : State) (p kind : Nat) (d : LineData) : Put :=
  let dst := flitDest 3 d
  if isOwn s dst then
    let x := ibfGet s p
    .done (if mopKnown d then ibfPut s p { x with mgLoop := x.mgLoop ++ [d] } else ibfErr s p eProto)
  else match routePort s dst with
    | none => .done (txForget (unreachable s dst) 3 (txName (67 + p) kind))
    | some q => putAt s q 3 (txName (67 + p) kind) (if flitNat d 1 1 = 0 then flitByte d 1 (hopsOf s dst) else d)

/-! ### Buffers released (12 R281) -/

/-- The pool's buffers, NB (12 R279). -/
def poolBufs (s : State) : Nat := s.wvl.poolsize.toNat / 256

/-- One release. -/
def freeBuf (s : State) (b : Nat) : State :=
  match tfind s.che.owner b with
  | some c =>
    if b < poolBufs s then
      { s with che := { s.che with owner := tdel s.che.owner b }, cyc := { s.cyc with rel := tput s.cyc.rel b c } }
    else fresh { s with che := { s.che with badrel := true } } 0x2F000 16
  | none => fresh { s with che := { s.che with badrel := true } } 0x2F000 16

def freeBufs (s : State) (bs : List Nat) : State := bs.foldl freeBuf s

/-- The buffers of a message that is part received (13 R291). -/
def freePart (s : State) (a : Option PartMsg) : State := freeBufs s ((a.map (·.bufs)).getD [])

/-! ### Ports that go down (14 R339) -/

/-- An ABORT ends a forwarded message at its output, which is free again. -/
def abortOut (s : State) (m v : Nat) : State := txHeld (txPush s m v [.abort]) m v 0

/-- The whole messages of a receive buffer, when the message in progress still has `left` flits; and whether that one is whole. -/
def wholes (v left : Nat) (l : List LaneFlit) : List LaneFlit × Bool :=
  let r := l.foldl (fun (a : Nat × List LaneFlit × List LaneFlit × Bool) x =>
    let (left, cur, out, fin) := a
    match x with
    | .abort => (0, [], out ++ cur ++ [.abort], true)
    | .flit d =>
      let n := if left = 0 then flitsOf v d - 1 else left - 1
      if n = 0 then (0, [], out ++ cur ++ [.flit d], true) else (n, cur ++ [.flit d], out, fin)) (left, [], [], left == 0)
  (r.2.2.1, r.2.2.2)

/-- The partial message of a receive lane is discarded; one being forwarded receives an ABORT at its output. -/
def rxCut (s : State) (p v : Nat) : State :=
  let x := ibfGet s p
  let (dest, left) := tget (RxDest.drop, 0) x.rxMsg v
  let (keep, fin) := wholes v left (tget [] x.rx v)
  let x1 := { x with rx := tset [] x.rx v keep, rxLeft := tset 0 x.rxLeft v 0 }
  if fin then ibfPut s p x1
  else
    let s0 := freePart (txForget s v (67 + p)) (tfind x.rxPart v)
    let y := { x1 with txWait := (ibfGet s0 p).txWait }
    let s1 := ibfPut s0 p { y with rxMsg := tset (RxDest.drop, 0) x.rxMsg v (RxDest.drop, 0), rxPart := tdel x.rxPart v }
    match dest with
    | .port m => abortOut s1 m v
    | _ => s1

/-- Messages on their way to port p go nowhere. -/
def loseRoutes (s : State) (p : Nat) : State :=
  let s1 := (List.range 4).foldl (fun s q =>
    let x := ibfGet s q
    ibfPut s q { x with rxMsg := x.rxMsg.foldl (fun t e =>
      if e.2.1 = RxDest.port p then tset (RxDest.drop, 0) t e.1 (RxDest.drop, e.2.2) else t) x.rxMsg }) s
  let lose := fun (o : OutMsg) => if o.port = some p then { o with flits := [], abort := false } else o
  { s1 with che := { s1.che with out := s1.che.out.map lose } }

/-- What leaving ACTIVE ends on a port: flits received and not processed, and both streams of its PCS. -/
def leaveActive (s : State) (p : Nat) : State :=
  let x := ibfGet s p
  ibfPut s p { x with mark := none, ctl := none, initSeen := false
                      ptx := { frame := x.ptx.frame, scr := x.ptx.scr, am := x.ptx.am }
                      prx := { rxd := x.prx.rxd, valid := x.prx.valid, sig := x.prx.sig, cyc := x.prx.cyc, low := x.prx.low
                               words := x.prx.words, seen := x.prx.seen, inb := x.prx.inb } }

/-- A port enters DOWN or OFF; RETRAIN clears in DOWN (14 R344). -/
def portDown (s : State) (p : Nat) (st : PortSt) : State :=
  let x := ibfGet s p
  let n := (x.tx.map fun q => q.2.length).sum + x.retry.length
  let s1 := portState (leaveActive s p) p st
  let s2 := countLost s1 p n
  let y := ibfGet s2 p
  let s3 := ibfPut s2 p { y with tx := [], txHold := [], txWait := [], txLeft := [], txSkip := [], retry := [], resend := none, replay := none,
                                 naksent := false, first := true, retrain := y.retrain && st == .off, ready := false, held := 0, phys := [], taken := none }
  loseRoutes ((List.range 4).foldl (fun s v => rxCut s p v) s3) p

end Sys2Proof.Machine
end

