-- ==== Sys2Proof/Machine/Health.lean ====
section
/-! DEFINITION. The health logic's shared operations (17 R398-R403) and fallback plans (02 R44, R45).
What is DEDUCED or a DESIGN CHOICE here is said in notes/assumptions, log 5 and 17. -/

namespace Sys2Proof.Machine

open Sys2Proof

/-! ### Messages (17 R403) -/

/-- The 32 data bytes of a health message. -/
def healthData (s : State) (code unit : Byte) : List Byte :=
  [s.hlt.state.setWidth 8, code, unit, 0] ++ toBytes 2 s.cpx.devid.toNat ++ [0, 0] ++ toBytes 8 s.tmr.gtime.toNat ++
    toBytes 8 s.hlt.retired.toNat ++ (List.range 4).map (fun p => (ibfGet s p).retired) ++ [0, 0, 0, 0]

/-- The health message as a management message to the twin port's peer. -/
def healthFlit (s : State) (data : List Byte) : LineData :=
  let peer := (ibfGet s s.twn.port.val).peer
  mgFlit 6 (hopsOf s peer) s.cpx.devid 0 0 (BitVec.ofNat 56 (peer.toNat * 2 ^ 44)) 32 0 data

/-- Health messages that wait for the twin port's queue move into it while it has room. -/
def twinFlush (s : State) : State :=
  match s.hlt.twinMsgs with
  | [] => s
  | d :: r =>
    match putAt s s.twn.port.val 3 (txName (67 + s.twn.port.val) 3) d with
    | .done s1 => { s1 with hlt := { s1.hlt with twinMsgs := r } }
    | .wait p v m => txJoin s p v m

/-- The oldest health message for the host becomes a write of half a line (20 R445). -/
def hostFlush (s : State) : State :=
  match s.hlt.hostMsgs with
  | [] => s
  | d :: r =>
    let half := if s.hlt.hostaddr.getLsbD 5 then 32 else 0
    let gone := fun (s1 : State) => { s1 with hlt := { s1.hlt with hostMsgs := r } }
    match mpSendTo s 4 true (lineOf s.hlt.hostaddr) 0 (toLine half (toBytes 32 d.toNat)) (lineMask half 32) .other with
    | .sent s1 => gone s1
    | .refused s1 => gone s1
    | .full => s

/-- A health message is sent to each receiver that `HLT.CTL` enables. -/
def healthMsg (s : State) (code unit : Byte) : State :=
  let data := healthData s code unit
  let s1 := if s.hlt.twinen && (ibfGet s s.twn.port.val).st == .active then
    twinFlush { s with hlt := { s.hlt with twinMsgs := s.hlt.twinMsgs ++ [healthFlit s data] } } else s
  if s1.hlt.hosten then
    hostFlush { s1 with hlt := { s1.hlt with hostMsgs := s1.hlt.hostMsgs ++ [BitVec.ofNat 256 (leNat data)] } }
  else s1

/-! ### States (17 R398) -/

/-- The health state becomes st; a change raises source 363 and is logged with code 1. -/
def stateChange (s : State) (st : BitVec 2) (unit detail : Option Nat) : State :=
  if s.hlt.state = st then s
  else logPut (raiseSrc { s with hlt := { s.hlt with state := st } } 363) 1 unit detail

/-- A state change that no retirement brings: its health message carries code 1. The manual names no unit or detail for it. -/
def setHealth (s : State) (st : BitVec 2) : State :=
  if s.hlt.state = st then s
  else
    let (s1, u) := takeFree s 1
    healthMsg (stateChange s1 st (some u) none) 1 (BitVec.ofNat 8 u)

/-- A retirement of a unit: FADED unless STOPPED, the record with its code, and one health message (17 R398, R402, R403). -/
def retireNote (s : State) (code unit : Nat) (detail : Option Nat) : State :=
  let s1 := if s.hlt.state = 3 then s else stateChange s 2 (some unit) detail
  healthMsg (logPut s1 (BitVec.ofNat 8 code) (some unit) detail) (BitVec.ofNat 8 code) (BitVec.ofNat 8 unit)

/-- A threshold crossing of a unit (17 R399): source 364, FAST becomes FADING, log code 7. -/
def crossing (s : State) (unit count : Nat) : State :=
  let s0 := { s with cyc := { s.cyc with crossed := true } }
  let s1 := raiseSrc s0 364
  let s2 := if s1.hlt.state = 0 then healthMsg (stateChange s1 1 (some unit) (some count)) 1 (BitVec.ofNat 8 unit) else s1
  logPut s2 7 (some unit) (some count)

def hltErr (s : State) : State := fresh { s with hlt := { s.hlt with cfgerr := true } } 0x70000 4

/-- A write of CLEAR (17 R406): in FADING it acts at the end of its cycle. -/
def healthClear (s : State) : State :=
  if s.hlt.state = 1 then { s with cyc := { s.cyc with clear := true } } else hltErr s

/-- A CLEAR of the cycle that ends: ignored when a threshold was crossed in it (17 R399). -/
def clearNow (s : State) : State :=
  if !s.cyc.clear then s else if s.cyc.crossed || s.hlt.state != 1 then hltErr s else setHealth s 0

/-- Some unit is retired (17 R398). -/
def anyRetired (s : State) : Bool :=
  s.hlt.retired != 0 || s.hlt.wordRetired || (List.range 4).any fun p => (ibfGet s p).retired != 0

/-- The state that a successful load leads to. -/
def loadedHealth (s : State) : BitVec 2 := if anyRetired s then 2 else 0

/-! ### Fallback plans (02 R44, R45) -/

/-- The width a key names for a port: its choice in PLAN, else the width in force (14 R324). -/
def keyWidth (s : State) (p : Nat) : BitVec 2 :=
  let x := ibfGet s p
  if x.st = .plan then fld x.choice 0 2 else x.width

/-- A key: the retired engines, and the ports' widths. -/
def keyWith (s : State) (width : Nat → BitVec 2) : BitVec 64 × BitVec 8 :=
  (s.hlt.retired, BitVec.ofNat 8 ((List.range 4).foldl (fun a p => a + (width p).toNat * 4 ^ p) 0))

/-- The key of the present condition. -/
def keyOf (s : State) : BitVec 64 × BitVec 8 := keyWith s (keyWidth s)

/-- The key at the application of an image: the width in force of every port (19 R426). -/
def bootKey (s : State) : BitVec 64 × BitVec 8 := keyWith s fun p => (ibfGet s p).width

/-- The width that a key names for a port. -/
def keyPort (k : BitVec 8) (p : Nat) : BitVec 2 := fld k (2 * p) 2

/-- The engines that a plan's key names. -/
def Plan.engines (x : Plan) : BitVec 64 :=
  x.retired.foldl (fun m b => if b.toNat < 64 then setBit m b.toNat true else m) 0

/-- The plan with a key. -/
def findPlan (s : State) (key : BitVec 64 × BitVec 8) : Option Nat :=
  (List.range s.wvl.plans.length).find? fun i =>
    (s.wvl.plans[i]?).any fun x => (x.engines, x.widths) == key

/-- An engine leaves every event target set and every instance engine set, that of the staging copy too (DESIGN CHOICE, log 28); with a
substitute, that takes its place. -/
def leaveSets (s : State) (e : Nat) (sub : Option Nat) : State :=
  let move := fun (m : BitVec 64) =>
    if m.getLsbD e then
      let m1 := setBit m e false
      match sub with | some k => setBit m1 k true | none => m1
    else m
  let s1 := s.evg.src.foldl (fun s p => srcPut s p.1 { p.2 with target := move p.2.target }) s
  s1.ins.i.foldl (fun s p => insPut s p.1 { p.2 with eng := move p.2.eng, engStg := move p.2.engStg }) s1

/-- The numbers in a set. -/
def bitsOf (m : BitVec 64) : List Nat := (List.range 64).filter fun e => m.getLsbD e

/-- No plan: a retired engine leaves every set, a port in PLAN whose narrower width the key names goes down, source 367 (02 R45, 17 R404), log
code 6. -/
def noPlan (s : State) (detail : Option Nat) : State :=
  let s1 := (bitsOf s.hlt.retired).foldl (fun s e => leaveSets s e none) s
  let s2 := (List.range 4).foldl (fun s p =>
    if (ibfGet s p).st = .plan ∧ fld (ibfGet s p).choice 0 2 = keyPort s.wvl.planKey p then portDown s p .down else s) s1
  logPut (raiseSrc s2 367) 6 none detail

/-- A retirement or narrowing forms the new key (02 R44, 17 R400): an earlier plan's read is abandoned; the plan that matches is read,
else 02 R45 applies. With five engines retired, or without plans, none can match. -/
def newKey (s : State) : State :=
  let s0 := { s with wvl := { s.wvl with planRead := none, planReady := none, planKey := (keyOf s).2 } }
  if 5 ≤ (bitsOf s.hlt.retired).length ∨ s.hlt.noplans then
    noPlan (fresh { s0 with hlt := { s0.hlt with planlim := true } } 0x70000 5) none
  else match findPlan s0 (keyOf s0) with
    | some i => { s0 with wvl := { s0.wvl with planRead := some i } }
    | none => noPlan s0 none

end Sys2Proof.Machine
end

