-- ==== Sys2Proof/Machine/Plans.lean ====
section
/-! DEFINITION. Warp tables and transmit frames written as wholes, and fallback plans applied (02 R44, R45; 17 R401).
What is DEDUCED or a DESIGN CHOICE here is said in notes/assumptions, log 17 and 24. -/

namespace Sys2Proof.Machine

open Sys2Proof

/-- A table of n entries, those equal to the default left out. -/
def mkTab {α : Type} [DecidableEq α] (d : Nat → α) (n : Nat) (f : Nat → α) : Tab α :=
  (List.range n).filterMap fun k => if f k = d k then none else some (k, f k)

/-- A transmit-frame slot of the minimal Weave (02 R38): OV 1, OVL 3. -/
def txMin : BitVec 8 := 7
/-- A slot of a port's transmit frame. -/
def txAt (t : Tab (BitVec 8)) (p k : Nat) : BitVec 8 := tget txMin t (512 * p + k)
/-- Port p's frame in one table taken from another. -/
def txCopy (dst src : Tab (BitVec 8)) (p : Nat) : Tab (BitVec 8) :=
  mkTab (fun _ => txMin) 2048 fun k => if k / 512 = p then tget txMin src k else tget txMin dst k

/-- A plan's slot records over the base tables (02 R31). -/
def overlay (base : Tab Half) (recs : List Word) : Tab Half :=
  recs.foldl (fun t v => slotSet t (fld v 0 8).toNat (fld v 8 8).toNat (fld v 16 16)) base

/-- The transmit frames a plan brings: its own, and the base frame where only the earlier plan had one. -/
def planFrames (s : State) (x : Plan) (cur : Tab (BitVec 8)) : Tab (BitVec 8) :=
  let old := ((s.wvl.plans[s.wvl.plan.toNat]?).map (·.txmask)).getD 0
  let ports := (List.range 4).filter fun p => x.txmask.getLsbD p
  mkTab (fun _ => txMin) 2048 fun k =>
    let p := k / 512
    if x.txmask.getLsbD p then (((x.frames[ports.idxOf p]?).getD [])[k % 512]?).getD 0
    else if old.getLsbD p then tget txMin s.wvl.txfBase k
    else tget txMin cur k

/-- Plan i takes effect (02 R44): tables, frames, their staging copies too (DESIGN CHOICE, log 28), substitutions, `WVL.PLAN`, source 367 and log code 5. It overlays the base tables
also where a group 0x700 was committed at the same boundary (DESIGN CHOICE, log 28). -/
def applyPlan (s : State) (i : Nat) : State :=
  match s.wvl.plans[i]? with
  | none => s
  | some x =>
    let w := overlay s.wvl.warpBase x.slots
    let s1 := { s with wvl := { s.wvl with
      warp := w, warpStg := w, txf := planFrames s x s.wvl.txf, txfStg := planFrames s x s.wvl.txfStg
      plan := BitVec.ofNat 8 i, planReady := none } }
    let s2 := (x.retired.zip x.subst).foldl (fun s p =>
      if p.1.toNat < 64 then leaveSets s p.1.toNat (if p.2.toNat < 64 then some p.2.toNat else none) else s) s1
    logPut (raiseSrc s2 367) 5 none (some i)

/-- The ports in PLAN complete their training at the width that the applied plan's key names for them (14 R324). -/
def planPorts (s : State) : State :=
  (List.range 4).foldl (fun s p =>
    let x := ibfGet s p
    if x.st = .plan then ibfPut s p { x with planFor := some (keyPort s.wvl.planKey p) } else s) s

/-- No word of a plan is uncorrectable in the NVM slot of the running Weave, and the slot has not been written since (17 R390). -/
def planReadable (s : State) (x : Plan) : Bool :=
  let a := 0x60000 * s.wvl.srcused.toNat + x.off
  !s.hlt.noplans && s.nvc.bad.all fun w => decide (8 * w + 8 ≤ a ∨ a + x.len ≤ 8 * w)

/-- FALLBACK_PLAN_READ (17 R401): the plan has been read from the NVM slot; an uncorrectable word, one that holds its error already or one
that shows it now, means no plan, and log code 6. -/
def execFallbackPlanRead (ok : Bool) (s : State) : Host.Outcome State Fault Refusal :=
  .next (match s.wvl.planRead with
    | none => s
    | some i =>
      if !clkOn s .mgclk then s
      else
        let s1 := { s with wvl := { s.wvl with planRead := none } }
        if ok && (s.wvl.plans[i]?).any (planReadable s) then { s1 with wvl := { s1.wvl with planReady := some i } } else noPlan s1 (some i))

/-- FALLBACK_PLAN_APPLY (02 R44): at the warp boundary; a commit of the warp tables at the same boundary comes first. -/
def execFallbackPlanApply (s : State) : Host.Outcome State Fault Refusal :=
  .next (match s.wvl.planReady with
    | none => s
    | some i =>
      if fclkOn s && s.wvl.slot == 0 && !s.cpx.commitq.contains (0x700#12, false) then planPorts (applyPlan s i) else s)

end Sys2Proof.Machine
end

