-- ==== Sys2Proof/Machine/Weave.lean ====
section
/-! DEFINITION. The Weave loader: loading, verification and application (02 R34-R38, R53; 10 R241; 19 R426).
What is DEDUCED or a DESIGN CHOICE here is said in notes/assumptions, log 24. -/

namespace Sys2Proof.Machine

open Sys2Proof

/-! ### Application -/

/-- The hand-over from the start-up latches (10 R241): each latched edge that fits its source is one occurrence; the latches clear. -/
def handOver (s : State) : State :=
  let v := s.evg
  let s1 := { s with evg := { v with latRise := 0, latFall := 0, latched := false } }
  (List.range 256).foldl (fun s w =>
    let x := srcGet s (w + 1)
    let up := v.latRise.getLsbD w && (x.sense == 2 || x.sense == 4)
    let down := v.latFall.getLsbD w && (x.sense == 3 || x.sense == 4)
    let s2 := if up then occur s (w + 1) else s
    if down then occur s2 (w + 1) else s2) s1

/-- What cycle A brings for any image (02 R39, R49; 19 R426): the commit queue empties, the warp starts again. -/
def cycleA (s : State) : State :=
  { s with cpx := { s.cpx with commitq := [], step := 6 }, wvl := { s.wvl with slot := 0, frame := 0, load := false } }

/-- The built-in minimal Weave applied (02 R34 step 1, R37, R38); while it is active the start-up latches stay armed (10 R241). -/
def applyMinimal (s : State) : State :=
  let w := s.wvl
  let s1 := { s with
    wvl := { w with
      enable := 0, auxsel := 0, vecen := 0, boot := [], spwin := 0, lrbase := 0, poolbase := 0, poolsize := 0
      warpBase := [], warp := [], warpStg := [], txfBase := [], txf := [], txfStg := [], routes := [], routesStg := []
      plans := [], full := false, buildid := 0, target := 0, len := 0, plan := 0xFF, state := 5 }
    spc := { s.spc with reg := minRegions, regStg := minRegions, regCopy := minRegions }
    che := { s.che with quota := [], quotaStg := [] } }
  let s2 := (List.range 384).foldl (fun s k =>
    let x := srcGet s (k + 1)
    srcPut s (k + 1) { x with sense := 0, en := false, prio := 0, ccount := 0, inst := 0, ctime := 0, target := 0 }) s1
  let s3 := (List.range 64).foldl (fun s i =>
    let x := insGet s i
    insPut s i { x with eng := 0, engStg := 0, first := 0, firstStg := 0, chans := 0, chansStg := 0, share := 0
                        shareStg := 0, en := false }) s2
  let s4 := handOver (cycleA s3)
  setHealth { s4 with evg := { s4.evg with latched := true } } 3

/-- A verified image. -/
structure Verified where
  r : Reader
  secs : Tab (Nat × Nat)
  digest : BitVec 256

/-- The registers that an image's sections fill (02 R25-R31). Of an enabled instance with CHCOUNT 0, whose range is empty, a CHFIRST above
1,023 keeps its low 10 bits (DESIGN CHOICE, log 28). -/
def writeImage (s : State) (i : Verified) : State :=
  let r := i.r
  let o := bodyAt i.secs
  let half := fun a => BitVec.ofNat 16 (r.num a 2)
  let word := fun a => BitVec.ofNat 32 (r.num a 4)
  let en := r.enable i.secs
  let boot := mkTab (fun _ => (0 : Word)) 64 fun k => if en.getLsbD k then word (o 1 + 0x18 + 4 * k) else 0
  let warp := mkTab warpMin 35328 fun k => half (o 2 + 8 + 2 * k)
  let txf := mkTab (fun _ => txMin) 2048 fun k => BitVec.ofNat 8 (r.num (o 2 + 0x11408 + k) 1)
  let quota := mkTab (fun _ => (0 : Word)) 1024 fun c => word (o 3 + 0x18 + 4 * c)
  let reg := mkTab (fun _ => ({} : Region)) 1184 fun k =>
    let a := o 3 + 0x1018 + 16 * k
    let at_ := word (a + 8)
    { base := fld (word a) 0 24, limit := fld (word (a + 4)) 0 25, r := at_.getLsbD 0, w := at_.getLsbD 1
      v := at_.getLsbD 2, inst := fld at_ 8 6 }
  let routes := mkTab (fun _ => (0 : Half)) 4096 fun d => half (o 4 + 4 * d)
  let plans := match tfind i.secs 7 with
    | some (b, n) => (planWalk r (b + n) (r.num b 2) (b + 8)).1.map (planAt r)
    | none => []
  let s1 := { s with
    wvl := { s.wvl with
      enable := en, auxsel := BitVec.ofNat 64 (r.num (o 1 + 8) 8), vecen := BitVec.ofNat 64 (r.num (o 1 + 16) 8), boot := boot
      spwin := BitVec.ofNat 44 (r.num (o 3) 8), lrbase := BitVec.ofNat 24 (r.num (o 3 + 8) 4)
      poolbase := BitVec.ofNat 24 (r.num (o 3 + 0xC) 4), poolsize := BitVec.ofNat 24 (r.num (o 3 + 0x10) 4)
      warpBase := warp, warp := warp, warpStg := warp, txfBase := txf, txf := txf, txfStg := txf
      routes := routes, routesStg := routes, plans := plans, full := true
      buildid := BitVec.ofNat 128 (r.num 0x10 16), target := word 0x20, len := BitVec.ofNat 19 (r.num 8 4), plan := 0xFF }
    spc := { s.spc with reg := reg, regStg := reg, regCopy := reg }
    che := { s.che with quota := quota, quotaStg := quota } }
  let s2 := (List.range 384).foldl (fun s k =>
    let a := o 5 + 16 * k
    let w := word a
    srcPut s (k + 1) { srcGet s (k + 1) with
      sense := fld w 0 3, en := w.getLsbD 3, prio := fld w 4 4, ccount := fld w 8 8, inst := fld w 16 6
      ctime := half (a + 4), target := BitVec.ofNat 64 (r.num (a + 8) 8) }) s1
  let s3 := (List.range 64).foldl (fun s k =>
    if r.instEn i.secs k then
      let d := r.inst i.secs k
      let c := BitVec.ofNat 11 d.count
      let f := BitVec.ofNat 10 d.first
      let h := BitVec.ofNat 16 d.share
      insPut s k { insGet s k with eng := d.eng, engStg := d.eng, first := f, firstStg := f, chans := c, chansStg := c
                                   share := h, shareStg := h, en := true }
    else
      insPut s k { insGet s k with eng := 0, engStg := 0, first := 0, firstStg := 0, chans := 0, chansStg := 0, share := 0
                                   shareStg := 0, en := false }) s2
  (List.finRange 64).foldl (fun s e =>
    engPut s e { engGet s e with restartpc := tget 0 boot e.val }) s3

/-- The plan for engines that BIST retired, or 02 R45, at the application itself (19 R426). -/
def bootPlan (s : State) : State :=
  if s.hlt.retired = 0 then s
  else match (if 5 ≤ (bitsOf s.hlt.retired).length then none else findPlan s (bootKey s)) with
    | some i => applyPlan s i
    | none =>
      let s1 := noPlan { s with wvl := { s.wvl with planKey := (bootKey s).2 } } none
      if 5 ≤ (bitsOf s.hlt.retired).length then fresh { s1 with hlt := { s1.hlt with planlim := true } } 0x70000 5 else s1

/-- A full image applied (02 R34 step 6, 19 R426); step 7 begins when the hand-over of step 6 is done (19 R420). -/
def applyImage (s : State) (i : Verified) (src : BitVec 2) : State :=
  let s1 := writeImage s i
  let s2 := { s1 with
    wvl := { s1.wvl with state := 3, err := 0, section_ := 0, erraddr := 0 }
    hlt := { s1.hlt with noplans := s1.hlt.noplans || src.getLsbD 1 }
    cpx := { s1.cpx with releaseDue := true } }
  let s3 := handOver (bootPlan (cycleA s2))
  setHealth { s3 with cpx := { s3.cpx with step := 7 } } (loadedHealth s2)

/-! ### Verification -/

/-- The four pinned digest entries, none for one that an uncorrectable word spoils, and the lock bit (02 R35, 17 R396). -/
def pinned (s : State) : List (Option (List Byte)) × Bool :=
  let c := s.nvc
  let bad := fun o n => c.bad.any fun w => decide (8 * w < o + n ∧ o < 8 * w + 8)
  ((List.range 4).map fun k =>
      let o := 0xF4000 + 32 * k
      if bad o 32 then none else some (mread nvmDefault c.nvm o 32),
   bad 0xF4080 4 || leNat (mread nvmDefault c.nvm 0xF4080 4) != 0xFFFFFFFF)

/-- Steps 4 and 5 of 02 R34 on a structurally sound image: UNPINNED and the digest, and the first failure. -/
def verify (s : State) (r : Reader) (secs : Tab (Nat × Nat)) : Bool × BitVec 256 × Chk Verified :=
  let d := bodyAt secs 8
  let dig := sha256 (r.bytes 0 (d - 16))
  let num := BitVec.ofNat 256 (leNat dig)
  let (pins, lock) := pinned s
  let blank := fun (p : Option (List Byte)) => p == some (List.replicate 32 0xFF#8)
  let unp := !lock && pins.all blank
  let chk := (Chk.must (dig == r.bytes d 32) 8 8 d).bind fun _ =>
    (Chk.must (unp || pins.any fun p => !blank p && p == some dig) 9 8 d).bind fun _ =>
    match r.content secs with
    | some (t, a) => .fail 10 (some t) (some a)
    | none => .ok ⟨r, secs, num⟩
  (unp && dig == r.bytes d 32, num, chk)

/-- The outcome of a failed attempt in `WVL.STAT` and `WVL.ERRADDR` (02 R36), and log code 10 (17 R402); what the manual does not
state there is a free value, and of a TYPE above 15 SECTION holds the low 4 bits (DESIGN CHOICE, log 28). -/
def loadFail (s : State) (err : BitVec 4) (sec addr : Option Nat) : State :=
  let (s1, t) := match sec with | some t => (s, t) | none => takeFree s 1
  let (s2, a) := match addr with | some a => (s1, a) | none => takeFree s1 3
  logPut { s2 with wvl := { s2.wvl with err := err, section_ := BitVec.ofNat 4 t, erraddr := BitVec.ofNat 19 a } }
    10 none (some err.toNat)

/-- What a slot of the NVM holds. -/
def slotReader (s : State) (src : BitVec 2) : Reader :=
  let base := if src = 0 then 0 else 0x60000
  ⟨(mslice nvmDefault s.nvc.nvm base 393216).toArray,
   (s.nvc.bad.filter fun w => decide (base ≤ 8 * w ∧ 8 * w < base + 393216)).map (8 * · - base)⟩

/-- One attempt from an NVM slot. -/
def trySlot (s : State) (src : BitVec 2) : State × Option Verified :=
  let s0 := { s with wvl := { s.wvl with srcused := src, unpinned := false } }
  let r := slotReader s src
  match r.structure_ with
  | .more => (loadFail s0 5 none none, none)
  | .fail e t a => (loadFail s0 e t a, none)
  | .ok secs =>
    let (unp, dig, chk) := verify s r secs
    let s1 := { s0 with wvl := { s0.wvl with unpinned := unp, digest := dig } }
    match chk with
    | .ok i => (s1, some i)
    | .fail e t a => (loadFail s1 e t a, none)
    | .more => (loadFail s1 5 none none, none)

/-- A load from the NVM: the named slot, then the other, then the minimal Weave (02 R37). -/
def loadNvm (s : State) (src : BitVec 2) : State :=
  match trySlot { s with wvl := { s.wvl with retried := false } } src with
  | (s1, some i) => applyImage s1 i src
  | (s1, none) =>
    match trySlot { s1 with wvl := { s1.wvl with retried := true } } (src ^^^ 1) with
    | (s2, some i) => applyImage s2 i (src ^^^ 1)
    | (s2, none) => applyMinimal s2

/-! ### Images that arrive in words -/

/-- The loader waits for a new attempt (02 R37). -/
def toWait (s : State) : State :=
  setHealth { s with wvl := { s.wvl with state := 4, load := false, words := [] } } 3

/-- The words received so far. -/
def wordReader (s : State) : Reader := ⟨(s.wvl.words.reverse.flatMap fun w => toBytes 4 w.toNat).toArray, []⟩

/-- A load begins: the loader reads. -/
def beginWords (s : State) (src : BitVec 2) : State :=
  { s with wvl := { s.wvl with state := 1, srcused := src, unpinned := false, retried := false, words := [],
                               wordAt := s.tmr.gtime } }

/-- The image received is checked against its digest and its content, and applied (02 R34 steps 4-6). -/
def finishWords (s : State) : State :=
  let r := wordReader s
  match r.structure_ with
  | .ok secs =>
    let (unp, dig, chk) := verify s r secs
    let s1 := { s with wvl := { s.wvl with unpinned := unp, digest := dig } }
    match chk with
    | .ok i => applyImage { s1 with wvl := { s1.wvl with words := [] } } i s.wvl.srcused
    | .fail e t a => toWait (loadFail s1 e t a)
    | .more => s
  | .fail e t a => toWait (loadFail s e t a)
  | .more => s

/-- A word that the loader takes: the first failing check ends the load; when all of the image is there the loader is checking. -/
def takeWord (s : State) (v : Word) : State :=
  let s1 := { s with wvl := { s.wvl with words := v :: s.wvl.words, wordAt := s.tmr.gtime } }
  match (wordReader s1).structure_ with
  | .more => s1
  | .fail e t a => toWait (loadFail s1 e t a)
  | .ok _ => { s1 with wvl := { s1.wvl with state := 2 } }

/-! ### Commands -/

def wvlErr (s : State) : State := fresh { s with wvl := { s.wvl with cfgerr := true } } 0x1004 8

/-- A load starts from `WVL.CTL.SRC`, whatever `STRAP_SAFE_WEAVE` was sampled as (DESIGN CHOICE, log 28). -/
def startLoad (s : State) : State :=
  let s1 := beginWords s s.wvl.src
  { s1 with wvl := { s1.wvl with load := true } }

/-- WEAVE_LOAD (02 R34-R38): step 4 of the start-up order begins, or the loader goes on with the load in progress. -/
def execWeaveLoad (s : State) : Host.Outcome State Fault Refusal :=
  happens s (
    if !clkOn s .mgclk || !fclkOn s then s
    else if s.wvl.state = 0 then
      if s.cpx.step ≠ 3 || s.cpx.testhold then s
      else
        let s1 := { s with cpx := { s.cpx with step := 4 } }
        if s.cpx.bistfail then toWait s1
        else if s.cpx.straps.safe then applyMinimal s1
        else if s.wvl.src.getLsbD 1 then beginWords s1 s.wvl.src
        else loadNvm s1 s.wvl.src
    else if s.wvl.state = 1 && !s.wvl.srcused.getLsbD 1 then loadNvm s s.wvl.srcused
    else if s.wvl.state = 2 then finishWords s
    else s)

/-- A write of `WVL.CTL`: SRC, and LOAD in WAIT or MINIMAL; elsewhere LOAD is ignored (02 R53), and under BISTFAIL too (19 R422). -/
def wvlCtl (s : State) (v : Word) : State :=
  let s1 := { s with wvl := { s.wvl with src := fld v 0 2 } }
  if !v.getLsbD 2 then s1
  else if s.wvl.state = 4 ∨ s.wvl.state = 5 then (if s.cpx.bistfail then s1 else startLoad s1)
  else wvlErr s1

/-- WVL_CTL_LOAD (02 R53). -/
def execWvlCtlLoad (v : Word) (s : State) : Host.Outcome State Fault Refusal := when (fclkOn s) s (wvlCtl s (v ||| 4))

/-- A write of `WVL.DATA`; the source is the one the load in progress began with (DESIGN CHOICE, log 28). -/
def wvlData (s : State) (v : Word) : State :=
  if s.wvl.state = 1 ∧ s.wvl.srcused.getLsbD 1 then takeWord s v else wvlErr s

/-- WVL_DATA_WRITE (02 R53). -/
def execWvlDataWrite (v : Word) (s : State) : Host.Outcome State Fault Refusal := when (fclkOn s) s (wvlData s v)

/-- WEAVE_LOAD_TIMEOUT (02 R34, R36): the gap since the last word has passed `WVL.TIMEOUT`. -/
def execWeaveLoadTimeout (s : State) : Host.Outcome State Fault Refusal :=
  let w := s.wvl
  when (fclkOn s && w.state == 1 && w.srcused.getLsbD 1 && w.timeout != 0 &&
        decide (w.timeout.toNat * 1000 < s.tmr.gtime.toNat - w.wordAt.toNat)) s
    (toWait (loadFail s 11 none none))

end Sys2Proof.Machine
end

