-- ==== Sys2Proof/Machine/Commit.lean ====
section
/-! DEFINITION. Commit groups (02 R46-R52).
What is DEDUCED or a DESIGN CHOICE here is said in notes/assumptions, log 24. -/

namespace Sys2Proof.Machine

open Sys2Proof

/-- The commit groups of 02 R47. -/
inductive Group where
  | inst (i : Nat)
  | regions (m : Nat)
  | quota (c : Nat)
  | frame (p : Nat)
  | warp
  | routes
  deriving DecidableEq, Repr

/-- The group a GROUP value names; none for 0 and the reserved values. -/
def groupOf (g : BitVec 12) : Option Group :=
  let n := g.toNat
  if 1 ≤ n ∧ n ≤ 0x40 then some (.inst (n - 1))
  else if 0x100 ≤ n ∧ n ≤ 0x149 then some (.regions (n - 0x100))
  else if 0x200 ≤ n ∧ n ≤ 0x5FF then some (.quota (n - 0x200))
  else if 0x600 ≤ n ∧ n ≤ 0x603 then some (.frame (n - 0x600))
  else if n = 0x700 then some .warp
  else if n = 0x701 then some .routes
  else none

/-- A boundary's own cycle, and the last four slots, belong to the boundary after the next (02 R48). -/
def lateSlot (slot : BitVec 8) : Bool := decide (slot = 0 ∨ 252 ≤ slot.toNat)

/-- A write of `CPX.COMMIT` (02 R48, R49, R52). -/
def commitWrite (s : State) (w : Word) : State :=
  let c := s.cpx
  let v := w1cWord s 0x40 w
  let g : BitVec 12 := fld v 0 12
  let s1 := { s with cpx := { c with cerr := c.cerr && !v.getLsbD 17, covf := c.covf && !v.getLsbD 18 } }
  if g = 0 then s1
  else if (groupOf g).isNone then cpxErr s1
  else if c.commitq.any (·.1 == g) then s1
  else if 8 ≤ c.commitq.length then fresh { s1 with cpx := { s1.cpx with covf := true } } 0x40 18
  else { s1 with cpx := { s1.cpx with commitq := c.commitq ++ [(g, lateSlot s.wvl.slot)] } }

/-- CPX_COMMIT_WRITE (02 R48). -/
def execCpxCommitWrite (v : Word) (s : State) : Host.Outcome State Fault Refusal := when (fclkOn s) s (commitWrite s v)

/-- MIN and MAX of a quota. -/
def quotaMin (q : Word) : Nat := (fld q 0 16).toNat
def quotaMax (q : Word) : Nat := (fld q 16 16).toNat

/-- An instance's staged and active fields. -/
def Inst.staged (x : Inst) : InstDef := ⟨x.engStg, x.firstStg.toNat, x.chansStg.toNat, x.shareStg.toNat⟩
def Inst.active (x : Inst) : InstDef := ⟨x.eng, x.first.toNat, x.chans.toNat, x.share.toNat⟩

/-- The checks of 02 R33 that concern a group's fields, on its staging copy. -/
def groupOk (s : State) (g : Group) : Bool :=
  match g with
  | .inst i =>
    let x := insGet s i
    !x.en || !instBad s.wvl.enable (poolBufs s) x.staged
      ((s.ins.i.filter fun p => p.1 != i && p.2.en).map fun p => p.2.active)
  | .regions m =>
    (List.range 16).all fun r =>
      let x := tget {} s.spc.regStg (16 * m + r)
      !x.v || decide (x.base.toNat ≤ x.limit.toNat ∧ x.limit.toNat ≤ 0x1000000)
  | .quota c =>
    let q := tget 0 s.che.quotaStg c
    let others := ((s.che.quota.filter fun p => p.1 != c).map fun p => quotaMin p.2).sum
    decide (quotaMin q ≤ quotaMax q ∧ quotaMax q ≤ poolBufs s ∧ others + quotaMin q ≤ poolBufs s)
  | .frame p => (List.range 512).all fun k => !txBad (txAt s.wvl.txfStg p k)
  | .warp => (List.range 35328).all fun k =>
      let x := tget (warpMin k) s.wvl.warpStg k
      !slotBad (slotOwner x) (slotLend x)
  | .routes => s.wvl.routesStg.all fun p => !routeBad (p.2.setWidth 32)

/-- An engine that leaves instance i's set: its TARGET bit clears in every source that i owns, and its presentation of such a
source is withdrawn (16 R373). -/
def leaveInst (s : State) (i e : Nat) : State :=
  s.evg.src.foldl (fun s p =>
    if p.2.inst.toNat = i ∧ p.2.target.getLsbD e then
      withdrawIf (srcPut s p.1 { srcGet s p.1 with target := setBit p.2.target e false }) (Fin.ofNat 64 e)
    else s) s

/-- H(c) (12 R280). -/
def heldBy (s : State) (c : Nat) : Nat := s.che.owner.countP fun p => p.2.val == c

/-- HI(i) (16 R371). -/
def instHeld (s : State) (i : Nat) : Nat :=
  let x := insGet s i
  if x.en then s.che.owner.countP fun p =>
    decide (x.first.toNat ≤ p.2.val ∧ p.2.val < x.first.toNat + x.chans.toNat) else 0

/-- PEAK of an instance follows HELD up (16 R385). -/
def instPeak (s : State) (i : Nat) : State :=
  let x := insGet s i
  if x.peak.toNat < instHeld s i then insPut s i { x with peak := BitVec.ofNat 16 (instHeld s i) } else s

/-- A group applied. -/
def groupApply (s : State) (g : Group) : State :=
  match g with
  | .inst i =>
    let x := insGet s i
    let s1 := insPut s i { x with eng := x.engStg, first := x.firstStg, chans := x.chansStg, share := x.shareStg }
    instPeak ((bitsOf (x.eng &&& ~~~x.engStg)).foldl (fun s e => leaveInst s i e) s1) i
  | .regions m =>
    let t := (List.range 16).foldl (fun t r => tset {} t (16 * m + r) (tget {} s.spc.regStg (16 * m + r))) s.spc.reg
    { s with spc := { s.spc with reg := t } }
  | .quota c => { s with che := { s.che with quota := tset 0 s.che.quota c (tget 0 s.che.quotaStg c) } }
  | .frame p => { s with wvl := { s.wvl with txf := txCopy s.wvl.txf s.wvl.txfStg p } }
  | .warp => { s with wvl := { s.wvl with warp := s.wvl.warpStg } }
  | .routes => { s with wvl := { s.wvl with routes := s.wvl.routesStg } }

/-- A queued group at its boundary (02 R50): applied, or kept back with ERR and ERRGROUP. -/
def commitOne (s : State) (g : BitVec 12) : State :=
  match groupOf g with
  | none => s
  | some k =>
    if groupOk s k then groupApply s k else fresh { s with cpx := { s.cpx with cerr := true, errgroup := g } } 0x40 17

/-- COMMIT_GROUP_APPLY (02 R50): at the warp boundary, every group that is due, in the order of the writes. -/
def execCommitGroupApply (s : State) : Host.Outcome State Fault Refusal :=
  let due := s.cpx.commitq.filter (!·.2)
  when (fclkOn s && s.wvl.slot == 0 && !due.isEmpty) s
    (due.foldl (fun s p => commitOne s p.1) { s with cpx := { s.cpx with commitq := s.cpx.commitq.filter (·.2) } })

end Sys2Proof.Machine
end

