-- ==== Sys2Proof/Machine/Masters.lean ====
section
/-! DEFINITION. Scratchpad accesses of masters 64-73 (12 R269-R277, R471; 15 R349; 16 R377, R380, R381).
What is DEDUCED or a DESIGN CHOICE here is said in notes/assumptions, log 10, 11, 16 and 18. -/

namespace Sys2Proof.Machine

open Sys2Proof

/-- What becomes of a master's write request. -/
inductive MstAns where
  | done (s : State)
  /-- a region refuses it, or a merge meets an uncorrectable word -/
  | refused (s : State)
  | bad (s : State)
  /-- the journal buffer is full: not accepted in this slot (15 R351) -/
  | held (s : State)
  deriving DecidableEq, Repr

/-- The instance condition of a master that acts for a channel (12 R274). -/
def presOf (s : State) (m c : Nat) : Pres :=
  if m = 64 ∨ (67 ≤ m ∧ m ≤ 70) then .only (instOfChan s c) else .every

/-- The instance a master's write of some bytes is attributed to: that of the lowest region that grants one of them (12 R274, 16 R380). -/
def mstInst (s : State) (m : Nat) (p : Pres) (os : List Nat) : Option Nat :=
  ((List.range 16).find? fun r => os.any fun o => (granting s m p true o).contains r).map fun r => (regionGet s m r).inst.toNat

/-- Masters whose writes are captured (15 R349). -/
def capturedMst (m : Nat) : Bool := m == 64 || (decide (66 ≤ m) && decide (m ≤ 70))

/-- The offsets of the bytes that a write names. -/
def namedBytes (o : Nat) (bs : List (Option Byte)) : List Nat :=
  ((List.range bs.length).filter fun k => ((bs[k]?).getD none).isSome).map (· + o)

/-- The masters' writes that a stale lot drops: counted with their instance (16 R377). -/
def staleDrop (s : State) (i : Nat) : State := insPut s i { insGet s i with dropcnt := satAdd (insGet s i).dropcnt 1 }

/-- What an accepted write request of master m at offset o does: each word is attributed to its instance and marks its frames; the words of
a stale lot are dropped, which counts once for the request; the rest is captured and written. -/
def mstPerform (s : State) (m : Nat) (p : Pres) (o : Nat) (bs : List (Option Byte)) (lot : Option Half) : MstAns :=
  let os := namedBytes o bs
  let pa := s.wvl.spwin.toNat
  let ws := (os.map (· / 8)).eraseDups.map fun w => (w, mstInst s m p (os.filter (· / 8 == w)))
  let stale := fun (i : Option Nat) => i.filter fun i => lot.isSome && lot != some (insGet s i).lot
  let old := (ws.filter fun x => (stale x.2).isSome).map (·.1)
  let kept := (List.range bs.length).map fun k => if old.contains ((o + k) / 8) then none else ((bs[k]?).getD none : Option Byte)
  let s1 := ws.foldl (fun s x => match x.2 with | some i => markWrite s i (pa + 8 * x.1) 8 | none => s) s
  let s2 := match ws.findSome? fun x => stale x.2 with | some i => staleDrop s1 i | none => s1
  match (if capturedMst m then capture s2 m (pa + o) kept else some s2) with
  | none => .held (captureHeld s)
  | some s3 =>
    match spWriteRun s3 m o kept with
    | (s4, none) => .done s4
    | (s4, some _) => .bad s4

/-- A write request of master m at offset o (12 R471): it takes its slots (02 R40), waits for the journal (15 R351), and is checked against
the regions (12 R275). `lot` is the lot of a channel-engine message; `pre` is what reading the words it merges with shows. -/
def mstWriteWith (pre : State → State) (s : State) (m : Nat) (p : Pres) (o : Nat) (bs : List (Option Byte)) (lot : Option Half) : MstAns :=
  let os := namedBytes o bs
  let (s1, ok) := wordsServe s m (os.map (· / 8)).eraseDups
  if !ok then .held s1
  else if capturedMst m && !captureFits s1 (s1.wvl.spwin.toNat + o) bs then .held (captureHeld s1)
  else match firstRefused s1 m p true os with
    | some r => .refused (violation s1 m r true (presInst p))
    | none => mstPerform (pre s1) m p o bs lot

def mstWrite (s : State) (m : Nat) (p : Pres) (o : Nat) (bs : List (Option Byte)) (lot : Option Half) : MstAns :=
  mstWriteWith id s m p o bs lot

/-! ### One slot of a bank (12 R269, R272, R273) -/

/-- The bank of a word (12 R268). -/
def bankOf (w : BitVec 21) : Nat := w.toNat % 64

/-- The request that a port serves in the slot: its owner's, else its lend-to master's; `true` for the owner's. It serves one access in a
slot, and a bank one of each master. -/
def portServes (s : State) (t : Nat) (all : List SpReq) : Option (SpReq × Bool) :=
  let x := slotAt s.wvl.warp t s.wvl.slot.toNat
  let reqs := all.filter fun q => s.cyc.used.all fun u => u.tbl ≠ t && !(u.tbl / 2 == t / 2 && u.mst == q.mst.toNat)
  match reqs.find? fun q => q.mst.toNat == slotOwner x with
  | some q => some (q, true)
  | none => (reqs.find? fun q => q.mst.toNat == slotLend x).map (·, false)

/-- The slot of port t is taken by the request it serves. -/
def portTake (s : State) (t : Nat) (r : Option (SpReq × Bool)) : State :=
  match r with
  | some (q, own) => slotTake s ⟨t, q.mst.toNat, own, some q.word.toNat⟩
  | none => s

/-- What a served access comes to: the read's data or the completion of a write, and the word as the write leaves it. -/
inductive Served where
  | none_ (s : State)
  /-- an answer to the master: data of a read, 0 for a write performed, none for an error -/
  | answer (s : State) (d : Option (BitVec 64))
  /-- a write that is performed unless the other port's prevails -/
  | write (s : State)

def Served.state : Served → State
  | .none_ s => s
  | .answer s _ => s
  | .write s => s

/-- The offsets of the bytes of the request that an access is part of (12 R471). -/
def reqSpan (q : SpReq) : List Nat :=
  if q.bytes = 0 then ((List.range 8).filter fun k => !q.write || q.mask.getLsbD k).map (· + 8 * q.word.toNat)
  else ((List.range 64).filter fun k => q.bytes.getLsbD k).map (· + q.start.toNat)

/-- The access goes on with a request whose first word has been served. -/
def OpenReq.fits (x : OpenReq) (q : SpReq) : Bool :=
  x.mst == q.mst && x.write == q.write && x.start == q.start && x.bytes == q.bytes && x.left.any (·.1 == q.word.toNat)

/-- The check of the request that an access is part of (12 R471): made when its first word is served, once for every word of it; of a
request that it refuses no more is served. The state after it, whether the request is granted, and the instance that the access is attributed to. -/
def requestCheck (s : State) (q : SpReq) : State × Bool × Option Nat :=
  let m := q.mst.toNat
  let w := q.word.toNat
  let p := presOf s m q.chan.val
  let step := fun (s : State) (x : OpenReq) =>
    let rest := (x.left.filter (·.1 != w))
    ({ s with spc := { s.spc with reqs := if rest.isEmpty then s.spc.reqs else { x with left := rest } :: s.spc.reqs } },
     true, (x.left.find? (·.1 == w)).bind (·.2))
  match s.spc.reqs.find? (OpenReq.fits · q) with
  | some x => step { s with spc := { s.spc with reqs := s.spc.reqs.filter (!OpenReq.fits · q) } } x
  | none =>
    let os := reqSpan q
    let bad := firstRefused s m p q.write os
    let s1 := match bad with | some r => violation s m r q.write (presInst p) | none => s
    let word := fun (k : Nat) => if q.write then mstInst s m p (os.filter (· / 8 == k)) else none
    if bad.isSome then (s1, false, none)
    else step s1 ⟨q.mst, q.write, q.start, q.bytes, (os.map (· / 8)).eraseDups.map fun k => (k, word k)⟩

/-- A request is served: held by the journal, checked, attributed and captured, with `old` the word as it was before the cycle. -/
def serveOne (s : State) (q : SpReq) (old : BitVec 64) : Served :=
  let m := q.mst.toNat
  let w := q.word.toNat
  let bs := maskBytes q.data q.mask
  let pa := s.wvl.spwin.toNat + 8 * w
  if q.write && capturedMst m && !captureFits s pa bs then .none_ (captureHeld s)
  else
    let (s0, ok, i) := if 64 ≤ m then requestCheck s q else (s, true, none)
    if !ok then .answer s0 none
    else if !q.write then
      let (s1, ok) := bankRead s0 m w q.ecc
      .answer s1 (if ok then some old else none)
    else
      let mark := fun (s : State) => match i with | some i => markWrite s i pa 8 | none => s
      match i.filter fun i => m == 64 && q.lot != (insGet s0 i).lot with
      | some i => .answer (staleDrop (mark s0) i) (some 0)
      | none =>
        match (if capturedMst m then capture s0 m pa bs else some s0) with
        | none => .none_ (captureHeld s)
        | some s1 =>
          if q.mask = 0xFF#8 then .write (mark s1)
          else
            let s2 := mark s1
            if q.ecc = .uncorrectable ∨ spBad s2.spc w then .answer (eccRead s2 w q.ecc).1 none
            else .write (if q.ecc = .corrected then soften s2 w else s2)

/-- A write performed in its bank (12 R272). -/
def putWord (s : State) (r : Option (SpReq × Bool)) (v : Served) : State :=
  match r, v with
  | some (q, _), .write _ => (spStore s q.mst.toNat q.word.toNat q.mask q.data).getD s
  | _, _ => s

/-- The answer list of a slot (log 11). -/
def noteServed (s : State) (l : List (BitVec 8 × Option (BitVec 64))) : State := { s with spc := { s.spc with served := l } }

/-- SCRATCHPAD_ACCESS (12 R269-R273): one slot of a bank. Each master presents at most one access, to a word of this bank; an engine
that does not exist presents none (02 R25). Of two accesses served the one with the lower master ID is checked, logged and numbered
first (12 R277, 15 R350). -/
def execScratchpadAccess (bank : Fin 64) (reqs : List SpReq) (s : State) : Host.Outcome State Fault Refusal :=
  if reqs.any (fun q => bankOf q.word != bank.val || decide (73 < q.mst.toNat)) || !decide (reqs.map (·.mst)).Nodup then
    .fault .badOperand
  else if !fclkOn s then .next s
  else
    let shown := reqs.filter fun q => decide (64 ≤ q.mst.toNat) || engExists s q.mst.toNat
    let a := portServes s (2 * bank.val) shown
    let b := portServes s (2 * bank.val + 1) (shown.filter fun q => a.all fun p => p.1.mst != q.mst)
    let s0 := portTake (portTake s (2 * bank.val) a) (2 * bank.val + 1) b
    let old := fun (q : SpReq) => oldWord s q.mst.toNat q.word.toNat
    let serve := fun (s : State) (r : Option (SpReq × Bool)) => match r with | some (q, _) => serveOne s q (old q) | none => .none_ s
    let bFirst := match a, b with | some (x, _), some (y, _) => y.mst.ult x.mst | _, _ => false
    let r1 := serve s0 (if bFirst then b else a)
    let r2 := serve r1.state (if bFirst then a else b)
    let (ra, rb) := if bFirst then (r2, r1) else (r1, r2)
    let s4 := putWord (putWord r2.state a ra) b rb
    let ans := fun (r : Option (SpReq × Bool)) (v : Served) =>
      match r, v with
      | some (q, _), .answer _ d => [(q.mst, d)]
      | some (q, _), .write _ => [(q.mst, some 0)]
      | _, _ => []
    .next (noteServed s4 (ans a ra ++ ans b rb))

/-! ### Scrubbing (12 R271, 17 R401) -/

/-- The place of a bank port in the scrub tables. -/
def scrubPort (bank : Nat) (portB : Bool) : Nat := 2 * bank + if portB then 1 else 0

/-- The row a port scrubs next: port A upward from 0, port B downward from 32,767 (log 10). -/
def scrubRowAt (s : State) (bank : Nat) (portB : Bool) : Nat :=
  tget (if portB then 32767 else 0) s.spc.scrubRow (scrubPort bank portB)

/-- The slot of a bank port is idle so far (12 R271). -/
def portIdle (s : State) (k : Nat) : Bool := s.cyc.used.all (·.tbl ≠ k)

/-- A scrub access takes the idle slot; it is no master's. -/
def scrubTake (s : State) (k : Nat) : State := { s with cyc := { s.cyc with used := ⟨k, 0xFF, false, none⟩ :: s.cyc.used } }

/-- SCRUB_ACCESS (12 R271): an idle slot of a bank port reads one word. -/
def execScrubAccess (bank : Fin 64) (portB : Bool) (ecc : Ecc) (s : State) : Host.Outcome State Fault Refusal :=
  let k := scrubPort bank.val portB
  let row := scrubRowAt s bank.val portB
  let w := 64 * row + bank.val
  happens s (
    if !fclkOn s || !s.spc.scrub || (tfind s.spc.scrubFix k).isSome || !portIdle s k then s
    else
      let next := if portB then (row + 32767) % 32768 else (row + 1) % 32768
      let s1 := pmuAdd { scrubTake s k with spc := { s.spc with
        scrubRow := tset (if portB then 32767 else 0) s.spc.scrubRow k next } } 596 1
      let soft := ecc == .corrected || s1.spc.soft.contains w
      let (s2, ok) := eccRead s1 w ecc
      let c := s2.spc
      if ok && soft then
        { s2 with spc := { c with scrubFix := tput (tdel c.scrubFix k) k w
                                  scrubTwo := if c.scrubHit.contains w then w :: c.scrubTwo.filter (· ≠ w) else c.scrubTwo
                                  scrubHit := w :: c.scrubHit.filter (· ≠ w) } }
      else { s2 with spc := { c with scrubHit := c.scrubHit.filter (· ≠ w) } })

/-- SCRUB_WRITE (12 R271): in the next idle slot of the port the corrected word goes back and holds what the word held (log 11). Whether
another write of the word suppresses it shows at the end of the cycle. -/
def execScrubWrite (bank : Fin 64) (portB : Bool) (s : State) : Host.Outcome State Fault Refusal :=
  let k := scrubPort bank.val portB
  happens s (match tfind s.spc.scrubFix k with
    | none => s
    | some w =>
      if !fclkOn s || !portIdle s k then s
      else
        let s1 := scrubTake s k
        { s1 with spc := { s.spc with scrubFix := tdel s.spc.scrubFix k }, cyc := { s1.cyc with scrubs := s.cyc.scrubs ++ [(k, w)] } })

/-- A scrub write of the cycle that ends: it stands, or a write of the word at the other port has suppressed it, and the scrubber reads the
word again at its next idle slot (12 R271). -/
def scrubEnd (s : State) (x : Nat × Nat) : State :=
  let c := s.spc
  if s.cyc.wrote.any (·.word == x.2) then
    { s with spc := { c with scrubRow := tset (if x.1 % 2 = 1 then 32767 else 0) c.scrubRow x.1 (x.2 / 64) } }
  else pmuAdd { s with spc := { c with soft := c.soft.filter (· ≠ x.2) } } 597 1

end Sys2Proof.Machine
end

