-- ==== Sys2Proof/Machine/Pool.lean ====
section
/-! DEFINITION. The buffer pool (12 R279-R281, 16 R371), writes of a master other than an engine to any address, and the bytes of
chains (13 R287, R305).
What is DEDUCED or a DESIGN CHOICE here is said in notes/assumptions, log 14. -/

namespace Sys2Proof.Machine

open Sys2Proof

/-! ### Counts (12 R280) -/

/-- F. -/
def poolFree (s : State) : Nat := poolBufs s - s.che.owner.length

/-- RSV. -/
def poolRsv (s : State) : Nat := (s.che.quota.map fun p => quotaMin p.2 - heldBy s p.1).sum

/-! ### Allocation and release (12 R280, R281) -/

/-- The pool as it stood before the releases of the cycle: allocations see it so (12 R281). -/
def poolBefore (s : State) : State :=
  { s with che := { s.che with owner := s.cyc.rel.foldl (fun t q => tput t q.1 q.2) s.che.owner } }

/-- The conditions of an allocation for channel c. -/
def mayAlloc (s : State) (c : Nat) : Bool :=
  let q := tget 0 s.che.quota c
  let h := heldBy s c
  decide (h < quotaMax q) && decide (1 ≤ poolFree s) && (decide (h < quotaMin q) || decide (poolRsv s + 1 ≤ poolFree s)) &&
    (match instOfChan s c with
     | some i => decide (instHeld s i < (insGet s i).share.toNat)
     | none => true)

/-- A refused allocation is counted. -/
def allocRefused (s : State) : State :=
  pmuAdd { s with che := { s.che with poolref := satAdd s.che.poolref 1 } } 570 1

/-- The peaks of channel c and of its instance follow the held counts. -/
def notePeaks (s : State) (c : Nat) : State :=
  let h := heldBy s c
  let s1 := if (tget 0 s.che.peak c).toNat < h then
    { s with che := { s.che with peak := tset 0 s.che.peak c (BitVec.ofNat 16 h) } } else s
  match instOfChan s c with
  | some i => instPeak s1 i
  | none => s1

/-- One allocation: the lowest-numbered free buffer, or a refusal. -/
def allocBuf (s : State) (c : ChanNo) : State × Option Nat :=
  if !mayAlloc (poolBefore s) c.val then (allocRefused s, none)
  else match (List.range (poolBufs s)).find? fun b => (tfind (poolBefore s).che.owner b).isNone with
    | some b => (notePeaks { s with che := { s.che with owner := tput s.che.owner b c } } c.val, some b)
    | none => (allocRefused s, none)

/-- n buffers for a message, one at a time; the buffers taken so far when one is refused (13 R291). -/
def allocMany (s : State) (c : ChanNo) : Nat → List Nat → State × List Nat × Bool
  | 0, got => (s, got, true)
  | n + 1, got =>
    match allocBuf s c with
    | (s1, some b) => allocMany s1 c n (got ++ [b])
    | (s1, none) => (s1, got, false)

/-! ### Writes of masters 64-73 to physical addresses (11 R262, 12 R275, 15 R349) -/

/-- What becomes of such a write: performed or queued, refused or failed, or held: the state then says by what. -/
inductive WrAns where
  | done (s : State)
  | failed (s : State)
  | held (s : State)
  deriving DecidableEq, Repr

/-- Work that a held write `t` keeps from going on at s: it keeps the words that slots have served (02 R40) and counts the journal's hold
(15 R351). -/
def heldBack (s t : State) : State := if t.cyc.heldNow then captureHeld (slotsBack s t) else slotsBack s t

/-- The same for the work of a command, which waits as a whole for its slots. -/
def heldState (s t : State) : State := if t.cyc.stalled then t else heldBack s t

/-- Master m writes bytes within one line. -/
def physWrite (s : State) (m : Nat) (p : Pres) (pa : PAddr) (bs : List (Option Byte)) (lot : Option Half) (owner : MpOwner) :
    WrAns :=
  if inWindow s pa then
    match mstWrite s m p (winOff s pa) bs lot with
    | .done s1 => .done s1
    | .refused s1 => .failed s1
    | .bad s1 => .failed s1
    | .held s1 => .held s1
  else match (if capturedMst m then capture s m pa.toNat bs else some s) with
    | none => .held (captureHeld s)
    | some s1 =>
      let o := (fld pa 0 6).toNat
      let data := toLine o (bs.map fun b => b.getD 0)
      let mask : BitVec 64 := BitVec.ofNat 64 ((List.range bs.length).foldl (fun a k =>
        if ((bs[k]?).getD none).isSome then a + 2 ^ (o + k) else a) 0)
      match mpSend s1 true (lineOf pa) m data mask owner with
      | .sent s2 => .done s2
      | .full => .held { s with cyc := { s.cyc with heldNow := false } }
      | .refused s2 => .failed s2

/-- Bytes cut at line boundaries. -/
def cutLines (pa : Nat) (bs : List (Option Byte)) : Nat → List (PAddr × List (Option Byte))
  | 0 => []
  | k + 1 =>
    if bs.isEmpty then []
    else
      let n := 64 - pa % 64
      (BitVec.ofNat 44 pa, bs.take n) :: cutLines (pa + n) (bs.drop n) k

/-! ### Chains in the scratchpad (13 R287) -/

def bufOff (s : State) (b : Nat) : Nat := s.wvl.poolbase.toNat + 256 * b

/-- The channel engine's presence when it acts for channel c. -/
def chePres (s : State) (c : Nat) : Pres := presOf s 64 c

/-- A read request of the channel engine acting for channel c (12 R275, R471). -/
def cheRead (s : State) (c o n : Nat) : State × Option (List Byte) := mstRead s 64 (chePres s c) o n

/-- Reads n bytes that begin at byte `pos` of a message, one request for each flit that they belong to, until one fails: the bytes
read, and whether all were. -/
def readReqs (c : Nat) : Nat → State → Nat → Nat → Nat → List Byte → State × List Byte × Bool
  | 0, s, _, _, _, got => (s, got, false)
  | fuel + 1, s, o, pos, n, got =>
    if n = 0 then (s, got, true)
    else
      let k := min n (64 - pos % 64)
      match cheRead s c o k with
      | (s1, some bs) => readReqs c fuel s1 (o + k) (pos + k) (n - k) (got ++ bs)
      | (s1, none) => (s1, got, false)

/-- The link word of a buffer: the next buffer's number. -/
def linkOf (s : State) (c b : Nat) : State × Option Nat :=
  match cheRead s c (bufOff s b + 252) 4 with
  | (s1, some bs) => (s1, some (leNat bs % 65536))
  | (s1, none) => (s1, none)

/-- A buffer that a link word reaches belongs to the chain of channel c with first buffer b, or joins it, being an owned chain of
the same channel (13 R305). -/
def joins (s : State) (c b : Nat) (own : List Nat) (n : Nat) : Bool :=
  own.contains n ||
    (tfind s.che.chains n).any fun x => x.chan.val == c && x.st == .owned && n != b

/-- What the walk of a chain found (13 R305). -/
structure Walk where
  s : State
  /-- buffers read, in order -/
  seen : List Nat
  /-- buffers recorded as the chain's: its own and those of the chains that joined -/
  own : List Nat
  data : List Byte
  /-- CHAIN or READ -/
  err : BitVec 4

/-- Reads `len` payload bytes from buffer `cur` on. -/
def walkChain (c b len : Nat) : Nat → Nat → Walk → Walk
  | 0, _, w => { w with err := 5 }
  | fuel + 1, cur, w =>
    let first := cur = b
    let o := bufOff w.s cur + if first then 32 else 0
    let n := min (len - w.data.length) (if first then 220 else 252)
    let (s1, bs, ok) := readReqs c 8 w.s o (32 + w.data.length) n []
    let w1 := { w with s := s1, seen := w.seen ++ [cur], data := w.data ++ bs }
    if !ok then { w1 with err := 6 }
    else if len ≤ w1.data.length then w1
    else match linkOf s1 c cur with
      | (s2, none) => { w1 with s := s2, err := 6 }
      | (s2, some n) =>
        if w1.seen.contains n || !joins s2 c b w1.own n then { w1 with s := s2, err := 5 }
        else
          let more := match tfind s2.che.chains n with | some x => x.bufs | none => []
          let s3 := if n = b then s2 else { s2 with che := { s2.che with chains := tdel s2.che.chains n } }
          walkChain c b len fuel n { w1 with s := s3, own := w1.own ++ more.filter fun k => !w1.own.contains k }

/-- The buffers that a release of a chain takes: those recorded, and those its link words reach (13 R303). -/
def linkWalk (c b : Nat) : Nat → Nat → State → List Nat → List Nat → State × List Nat
  | 0, _, s, _, own => (s, own)
  | fuel + 1, cur, s, seen, own =>
    match linkOf s c cur with
    | (s1, none) => (s1, own)
    | (s1, some n) =>
      if n = 0xFFFF ∨ seen.contains n then (s1, own)
      else if joins s1 c b own n then
        let more := match tfind s1.che.chains n with | some x => x.bufs | none => []
        let s2 := { s1 with che := { s1.che with chains := if n = b then s1.che.chains else tdel s1.che.chains n } }
        linkWalk c b fuel n s2 (n :: seen) (own ++ more.filter fun k => !own.contains k)
      else if (tfind s1.che.owner n).isNone then (fresh { s1 with che := { s1.che with badrel := true } } 0x2F000 16, own)
      else (s1, own)

def chainOf (s : State) (b : Nat) : Option Chain := tfind s.che.chains b
def chainPut (s : State) (b : Nat) (x : Chain) : State := { s with che := { s.che with chains := tput s.che.chains b x } }
def chainDel (s : State) (b : Nat) : State := { s with che := { s.che with chains := tdel s.che.chains b } }

/-- A chain is released with the buffers recorded for it. -/
def dropChain (s : State) (b : Nat) : State :=
  match chainOf s b with
  | some x => freeBufs (chainDel s b) x.bufs
  | none => s

/-- A chain is released under its link words (13 R303). -/
def releaseChain (s : State) (b : Nat) : State :=
  match chainOf s b with
  | some x =>
    let (s1, bs) := linkWalk x.chan.val b (poolBufs s) b s [b] x.bufs
    freeBufs (chainDel s1 b) bs
  | none => s

end Sys2Proof.Machine
end

