-- ==== Sys2Proof/Machine/Ledger.lean ====
section
/-! DEFINITION. NACKs and outgoing messages of the channel engine (13 R307, 14 R335), and the ledger filter (13 R295-R300).
What is DEDUCED or a DESIGN CHOICE here is said in notes/assumptions, log 5 and 14. -/

namespace Sys2Proof.Machine

open Sys2Proof

/-! ### The channel engine's status (13 R311) -/

/-- A bit of `CHE.STAT` [5:1] is set: source 336 when STATEV is 1. -/
def cheStat (s : State) (k : Nat) : State :=
  raiseIf s.che.statev (fresh { s with che := { s.che with stat := setBit s.che.stat k true } } 0x20000 k) 336

/-- `CHE.SENDERR` takes a code. -/
def sendErrReg (s : State) (code : BitVec 4) (b : Nat) : State :=
  { s with che := { s.che with errcode := code, errbuf := BitVec.ofNat 16 b } }

/-- A send check fails (13 R304, R305). -/
def sendErr (s : State) (code : BitVec 4) (b : Nat) : State := cheStat (sendErrReg s code b) 1

def countDisc (s : State) (n : Nat) : State := { s with che := { s.che with disccnt := satAdd s.che.disccnt n } }

/-! ### Header fields (13 R285, R286) -/

def hChan (h : BitVec 256) : ChanNo := Fin.ofNat 1024 (hdrNat h 0 2)
def hLot (h : BitVec 256) : Half := BitVec.ofNat 16 (hdrNat h 2 2)
def hSrc (h : BitVec 256) : BitVec 12 := BitVec.ofNat 12 (hdrNat h 4 2)
def hDst (h : BitVec 256) : BitVec 12 := BitVec.ofNat 12 (hdrNat h 6 2)
def hKey (h : BitVec 256) : BitVec 64 := BitVec.ofNat 64 (hdrNat h 8 8)
def hLen (h : BitVec 256) : Nat := hdrNat h 0x10 2
def hFlags (h : BitVec 256) : BitVec 16 := BitVec.ofNat 16 (hdrNat h 0x12 2)
def hKind (h : BitVec 256) : Nat := hdrNat h 0x12 1 % 4
def hSeq (h : BitVec 256) : Word := BitVec.ofNat 32 (hdrNat h 0x14 4)
def hRchan (h : BitVec 256) : BitVec 10 := BitVec.ofNat 10 (hdrNat h 0x18 2)
def hCode (h : BitVec 256) : Nat := hdrNat h 0x1A 1

/-- A reserved field or bit is nonzero, or LENGTH is above 16,384. -/
def hReserved (h : BitVec 256) : Bool :=
  hdrNat h 0 2 / 1024 != 0 || hdrNat h 4 2 / 4096 != 0 || hdrNat h 6 2 / 4096 != 0 || decide (16384 < hLen h) ||
    hdrNat h 0x12 2 / 32 != 0 || hdrNat h 0x18 2 / 1024 != 0 || hdrNat h 0x1B 1 != 0

/-- The lane of a message (13 R305): requests and one-way messages on 0, replies and NACKs on 1. -/
def laneOf (h : BitVec 256) : Fin 4 := if hKind h % 2 = 1 then 1 else 0

/-! ### Messages for the link -/

/-- The first n flits of a message. -/
def msgFlits (h : BitVec 256) (payload : List Byte) (n : Nat) : List LineData := toFlits (toBytes 32 h.toNat ++ payload) n

/-- A whole message is given to the transport layer. -/
def cheOut (s : State) (h : BitVec 256) (payload : List Byte) (buf : Option Nat) : State :=
  { s with che := { s.che with out := s.che.out ++ [⟨laneOf h, none, msgFlits h payload (hdrFlits h), false, buf⟩] } }

/-- A NACK sent is counted. -/
def countNack (s : State) : State := pmuAdd { s with che := { s.che with nackcnt := satAdd s.che.nackcnt 1 } } 569 1

/-- The NACK of a request (13 R307), to one device and channel. The manual states no RCHAN or APP for it, and no DYELOT where the
request's channel has no instance. -/
def nackTo (s : State) (req : BitVec 256) (dev : BitVec 12) (chan : BitVec 10) (seq : Word) (code : BitVec 8) :
    State × BitVec 256 :=
  let (s1, x) := takeFree s 8
  let lot := match instOfChan s (hChan req).val with
    | some i => (insGet s i).lot
    | none => BitVec.ofNat 16 x
  let h := BitVec.ofNat 256 (leNat (toBytes 2 chan.toNat ++ toBytes 2 lot.toNat ++ toBytes 2 (hDst req).toNat ++
    toBytes 2 dev.toNat ++ toBytes 8 (hKey req).toNat ++ [0, 0, 3, 0] ++ toBytes 4 seq.toNat ++
    toBytes 2 (x / 65536 % 1024) ++ [code, 0] ++ toBytes 4 (x / 2 ^ 32)))
  (cheOut (countNack s1) h [] none, h)

/-- The NACK of a request to its sender. -/
def nack (s : State) (req : BitVec 256) (code : BitVec 8) : State × BitVec 256 :=
  nackTo s req (hSrc req) (hRchan req) (hSeq req) code

/-- A NACK to each recorded repeat. -/
def nackRepeats (s : State) (req : BitVec 256) (rs : List Repeat) (code : BitVec 8) : State :=
  rs.foldl (fun s r => (nackTo s req r.dev r.chan r.seq code).1) s

/-- A copy of a reply for a repeat (13 R299). -/
def copyHdr (h : BitVec 256) (r : Repeat) : BitVec 256 :=
  hdrSet (hdrSet (hdrSet (hdrSet h 6 2 r.dev.toNat) 0 2 r.chan.toNat) 0x14 4 r.seq.toNat) 0x12 2 ((hFlags h ||| 16).toNat)

def sendCopies (s : State) (h : BitVec 256) (payload : List Byte) (rs : List Repeat) : State :=
  rs.foldl (fun s r => cheOut s (copyHdr h r) payload none) s

/-! ### On-chip entries (13 R297) -/

def groupOfChan (s : State) (c : Nat) : BitVec 6 := fld (tget 0 s.che.chcfg c) 5 6
def grpWindow (s : State) (g : BitVec 6) : Nat := (fld (tget 0 s.che.grp g.toNat) 0 16).toNat
def grpTmo (s : State) (g : BitVec 6) : Nat := (fld (tget 0 s.che.grp g.toNat) 16 16).toNat

/-- Global time bits [47:16]. -/
def ledgerTime (s : State) : Word := fld s.tmr.gtime 16 32

/-- An entry recorded at a time is live (13 R298). -/
def isLive (s : State) (g : BitVec 6) (time : Word) : Bool := decide ((ledgerTime s - time).toNat < grpWindow s g * 16)

def ledgerById (s : State) (id : Nat) : Option Ledger := s.che.ledger.find? fun x => x.id == id
def ledgerOf (s : State) (o : Option Nat) : Option Ledger := o.bind (ledgerById s)
def ledgerFind (s : State) (g : BitVec 6) (key : BitVec 64) : Option Ledger :=
  s.che.ledger.find? fun x => x.group == g && x.key == key && !x.old

def ledgerSet (s : State) (l : List Ledger) : State := { s with che := { s.che with ledger := l } }
/-- An entry changed in its place. -/
def ledgerPut (s : State) (x : Ledger) : State := ledgerSet s (s.che.ledger.map fun y => if y.id = x.id then x else y)
/-- An entry changed and touched. -/
def ledgerTouch (s : State) (x : Ledger) : State := ledgerSet s (x :: s.che.ledger.filter fun y => y.id ≠ x.id)
def ledgerDel (s : State) (id : Nat) : State := ledgerSet s (s.che.ledger.filter fun y => y.id ≠ id)

/-- An entry that a key missing on chip may replace. -/
def replaceable (x : Ledger) : Bool := x.st == .done && !x.held

/-- Room for one more on-chip entry, made if need be: none when every entry is open. -/
def ledgerRoom (s : State) : Option State :=
  if s.che.ledger.length < 8192 then some s
  else (s.che.ledger.reverse.find? replaceable).map fun x => ledgerDel s x.id

/-! ### The memory-resident table (13 R296) -/

/-- The bucket of a key. -/
def bucketOf (s : State) (g : BitVec 6) (key : BitVec 64) : Nat :=
  (crc32c (toBytes 8 key.toNat ++ [g.setWidth 8])).toNat % 2 ^ s.che.log2b.toNat

def bucketPA (s : State) (b : Nat) : Nat := s.che.ldgbase.toNat + 64 * b
def storePA (s : State) (b : Nat) (w : BitVec 2) : Nat :=
  s.che.ldgbase.toNat + 64 * 2 ^ s.che.log2b.toNat + 256 * (4 * b + w.toNat)

/-- A tag. -/
def tagBytes (x : Ledger) (st : Nat) : List Byte :=
  toBytes 8 x.key.toNat ++ toBytes 4 x.time.toNat ++
    toBytes 4 (x.group.toNat + 64 * st + if x.nostore then 256 else 0)

/-- What a tag holds: group, key, time, whether done, NOSTORE; none for one that counts as empty. -/
def readTag (n : Nat) : Option (BitVec 6 × BitVec 64 × Word × Bool × Bool) :=
  let w := n / 2 ^ 96
  let st := w / 64 % 4
  if w / 512 != 0 || st == 0 || st == 3 then none
  else some (BitVec.ofNat 6 w, BitVec.ofNat 64 n, BitVec.ofNat 32 (n / 2 ^ 64), st == 2, w / 256 % 2 == 1)

/-- A ledger error (13 R300). -/
def ledgerErr (s : State) : State := pmuAdd (cheStat s 2) 575 1

/-- A done entry's tag write has been acknowledged or given up: nothing holds its reply (13 R306). -/
def unhold (s : State) (id : Nat) : State :=
  match ledgerById s id with
  | some x =>
    let s1 := if x.old then ledgerDel s id else ledgerPut s { x with held := false, nostore := x.nostore || x.failed }
    s1.che.chains.foldl (fun s p =>
      if p.2.led == some id && p.2.st == .sending && !s.che.out.any (·.buf == some p.1) && !s.che.sendq.any (·.buf == p.1)
      then dropChain s p.1 else s) s1
  | none => s

/-- A response to a ledger write: an entry with an error is kept on chip only (13 R300). -/
def ledgerAck (s : State) (id : Nat) (kind : LedgerWr) (err : Bool) : State :=
  let s1 := if err then ledgerErr s else s
  match kind, ledgerById s1 id with
  | .store, some x => ledgerPut s1 { x with stores := x.stores - 1, failed := x.failed || err }
  | .done, some _ => unhold s1 id
  | .tag, some x => ledgerPut s1 { x with failed := x.failed || err }
  | _, none => s1

/-- The waiting writes to the table go out in order, a done tag only after its reply store is acknowledged. -/
def cheFlush : Nat → State → State
  | 0, s => s
  | fuel + 1, s =>
    match s.che.wq with
    | [] => s
    | w :: r =>
      let x := ledgerById s w.id
      let pop := { s with che := { s.che with wq := r } }
      if w.kind = .done && x.any (fun x => x.failed && x.stores == 0) then cheFlush fuel (unhold pop w.id)
      else if w.kind = .done && x.any (fun x => x.stores != 0) then s
      else match physWrite s 64 (chePres s w.chan.val) w.pa w.bs none (.ledger w.id w.kind) with
        | .held t => heldBack s t
        | .failed s1 => cheFlush fuel (ledgerAck { s1 with che := { s1.che with wq := r } } w.id w.kind true)
        | .done s1 =>
          let s2 := { s1 with che := { s1.che with wq := r } }
          cheFlush fuel (if inWindow s w.pa then ledgerAck s2 w.id w.kind false else s2)

/-- Writes to the table join the queue. -/
def cheWrites (s : State) (l : List CheWrite) : State :=
  let s1 := { s with che := { s.che with wq := s.che.wq ++ l } }
  cheFlush s1.che.wq.length s1

/-- The write of an entry's tag: 0 empty, 1 open, 2 done. -/
def tagWrite (s : State) (c : ChanNo) (x : Ledger) (st : Nat) : CheWrite :=
  ⟨x.id, c, if st = 2 then .done else .tag,
   BitVec.ofNat 44 (bucketPA s (bucketOf s x.group x.key) + 16 * x.way.toNat),
   ((if st = 0 then List.replicate 16 0 else tagBytes x st).map some)⟩

/-- An entry is removed on chip and, when it has been recorded there and not been superseded, in the table (13 R297). -/
def entryRemove (s : State) (c : ChanNo) (o : Option Nat) : State :=
  match ledgerOf s o with
  | some x =>
    let s1 := ledgerDel s x.id
    if s.che.ten && !x.old && x.st != .pending && !x.failed then cheWrites s1 [tagWrite s c x 0] else s1
  | none => s

/-- A request ends with a reply or a TIMEOUT NACK of header h and payload: its entry becomes done, stored in the table (13 R306,
R308). `hold` while repeats take copies from the reply's buffers. -/
def entryDone (s : State) (c : ChanNo) (o : Option Nat) (h : BitVec 256) (payload : List Byte) (hold : Bool) : State :=
  match ledgerOf s o with
  | none => s
  | some x =>
    if x.old then ledgerDel s x.id
    else if !s.che.ten || x.failed then ledgerPut s { x with st := .done, nostore := true, repeats := [] }
    else
      let b := bucketOf s x.group x.key
      let bytes := (toBytes 32 h.toNat ++ payload.take 192).map some
      let cuts := cutLines (storePA s b x.way) bytes 5
      let y := { x with st := .done, nostore := decide (192 < payload.length), repeats := [], held := hold,
                        stores := cuts.length, failed := false }
      cheWrites (ledgerPut s y) (cuts.map (fun p => ⟨x.id, c, .store, p.1, p.2⟩) ++ [tagWrite s c y 2])

/-! ### Reads of the table (13 R296) -/

/-- The k-th read for the ledger decision on the request in buffer b, acting for channel c: n bytes of one line, from the scratchpad when
they lie in the window, else by master 64's owned slots of the memory port. None while it waits. -/
def ledgerRead (s : State) (b c k : Nat) (pa : PAddr) (n : Nat) : State × Option (Option LineData) :=
  if !inWindow s pa then askRead s (.ledger b) k 64 (lineOf pa)
  else match readOf s (.ledger b) k with
    | some x => (s, x.ans)
    | none =>
      let (s1, r) := cheRead s c (winOff s pa) n
      if s1.cyc.stalled then (s1, none)
      else (readNote s1 (.ledger b) k (some (r.map (toLine 0))), some (r.map (toLine 0)))

/-- A bucket, one read of 64 bytes. -/
def readBucket (s : State) (b c bucket : Nat) : State × Option (Option LineData) :=
  ledgerRead s b c 0 (BitVec.ofNat 44 (bucketPA s bucket)) 64

/-- The 224 bytes of a reply-store entry, line by line; none while one waits. -/
def storeBytes (s : State) (b c bucket : Nat) (w : BitVec 2) : State × Option (Option (List Byte)) :=
  (List.range 4).foldl (fun p k =>
    let n := min 64 (224 - 64 * k)
    let (s1, r) := ledgerRead p.1 b c (k + 1) (BitVec.ofNat 44 (storePA p.1 bucket w + 64 * k)) n
    (s1, match p.2, r with
      | some (some bs), some (some d) => some (some (bs ++ lineBytes d 0 n))
      | some none, _ => some none
      | _, some none => some none
      | _, _ => none)) (s, some (some []))

/-- A stored reply: header and payload. -/
def storedReply (bs : List Byte) : BitVec 256 × List Byte :=
  let h : BitVec 256 := BitVec.ofNat 256 (leNat (bs.take 32))
  (h, (bs.drop 32).take (min (hLen h) 192))

end Sys2Proof.Machine
end

