-- ==== Sys2Proof/Machine/Channel.lean ====
section
/-! DEFINITION. The channel engine (13 R288-R310).
What is DEDUCED or a DESIGN CHOICE here is said in notes/assumptions, log 11 and 14. -/

namespace Sys2Proof.Machine

open Sys2Proof

/-! ### Ownership of instances and closed channels (13 R288, 15 R345, R346, R361) -/

/-- The device owns instance i under its role. -/
def ownsInst (s : State) (i : Nat) : Bool :=
  if s.twn.role = 2 then false else if s.twn.role = 3 then s.twn.own.getLsbD i else true

/-- A channel counts as closed. -/
def chanClosed (s : State) (c : Nat) : Bool :=
  !(tget 0 s.che.chcfg c).getLsbD 0 ||
    (match instOfChan s c with
     | none => true
     | some i => !ownsInst s i || s.twn.fence.getLsbD i)

/-- The dye lot of a channel's instance, or `d`. -/
def chanLot (s : State) (c : Nat) (d : Half) : Half :=
  match instOfChan s c with
  | some i => (insGet s i).lot
  | none => d

/-! ### Taking messages from the ports (13 R290, 14 R335-R337) -/

/-- The first flit waiting in lane v of port p is the channel engine's to take: of a message for this device, or a remainder that it
discards. -/
def arrivesAt (s : State) (p v : Nat) : Bool :=
  let x := ibfGet s p
  let (dest, left) := tget (RxDest.drop, 0) x.rxMsg v
  match tget [] x.rx v with
  | [] => false
  | .abort :: _ => if left = 0 then true else dest == .own || dest == .drop
  | .flit d :: _ => if left = 0 then isOwn s (flitDest v d) else dest == .own || dest == .drop

/-- That flit is taken: `n` places are freed, and `left` flits of its message go to `dest`, with what has been made of it. -/
def takeFlit (s : State) (p v n : Nat) (dest : RxDest) (left : Nat) (a : Option PartMsg) : State :=
  let x := ibfGet s p
  ibfPut s p { x with rx := tset [] x.rx v ((tget [] x.rx v).drop 1)
                      rxPart := match a with | some a => tput (tdel x.rxPart v) v a | none => tdel x.rxPart v
                      rxMsg := tset (RxDest.drop, 0) x.rxMsg v (if left = 0 then (RxDest.drop, 0) else (dest, left))
                      freed := tset 0 x.freed v (tget 0 x.freed v + BitVec.ofNat 12 n) }

/-- The ports' request and reply lanes, in the order of 13 R290; the request lane of a port first (log 14). -/
def cheLanes : List (Nat × Nat) := [(0, 0), (0, 1), (1, 0), (1, 1), (2, 0), (2, 1), (3, 0), (3, 1)]

/-! ### Checks and buffers of an arriving message (13 R287, R290, R291) -/

/-- Buffers that n bytes of a message take, its header among them. -/
def bufsFor (n : Nat) : Nat := (n + 251) / 252

/-- The checks of 13 R290 before the ledger, but for the count of flits: the code of the first that fails. -/
def arrivalCheck (s : State) (h : BitVec 256) : Option (BitVec 8) :=
  let c := (hChan h).val
  if hReserved h || (hKind h == 3 && (hCode h == 0 || decide (10 < hCode h))) then some 4
  else if chanClosed s c then some 2
  else if hKind h == 0 && (hFlags h).getLsbD 2 && hLot h != chanLot s c (hLot h) then some 1
  else none

/-- A message that fails a check: a request receives a NACK, any other is discarded. -/
def turnAway (s : State) (h : BitVec 256) (code : BitVec 8) : State :=
  if hKind h = 0 then (nack s h code).1 else countDisc s 1

/-- A request passes through the ledger filter. -/
def filtered (s : State) (h : BitVec 256) : Bool :=
  hKind h == 0 && !(hFlags h).getLsbD 3 && grpWindow s (groupOfChan s (hChan h).val) != 0

/-- The channel engine writes bytes of a message, one request for each flit that they belong to. -/
def writeReqs (c : Nat) (lot : Half) : Nat → State → Nat → Nat → List Byte → WrAns
  | 0, s, _, _, _ => .done s
  | fuel + 1, s, o, pos, bs =>
    if bs.isEmpty then .done s
    else
      let k := 64 - pos % 64
      match mstWrite s 64 (chePres s c) o ((bs.take k).map some) (some lot) with
      | .done s1 => writeReqs c lot fuel s1 (o + k) (pos + k) (bs.drop k)
      | .refused s1 => .failed s1
      | .bad s1 => .failed s1
      | .held s1 => .held s1

/-- Bytes of a message from `pos` on go into its buffers; the link word of a buffer is written before the first bytes of the next one, that
of the last after the last byte. -/
def writePart (c : Nat) (lot : Half) (bufs : List Nat) (last : Bool) : Nat → State → Nat → List Byte → WrAns
  | 0, s, _, _ => .done s
  | fuel + 1, s, pos, bs =>
    let buf := fun k => (bufs[k]?).getD 0
    let link := fun (s : State) k n => writeReqs c lot 2 s (bufOff s (buf k) + 252) 0 (toBytes 4 n)
    if bs.isEmpty then (if last then link s ((pos - 1) / 252) 0xFFFF else .done s)
    else
      let k := pos / 252
      match (if pos % 252 = 0 ∧ 0 < pos then link s (k - 1) (buf k) else .done s) with
      | .done s1 =>
        let n := 252 - pos % 252
        match writeReqs c lot 8 s1 (bufOff s1 (buf k) + pos % 252) pos (bs.take n) with
        | .done s2 => writePart c lot bufs last fuel s2 (pos + min n bs.length) (bs.drop n)
        | w => w
      | w => w

/-- The chain that an arriving message makes. -/
def newChain (s : State) (h : BitVec 256) (lot : Half) (bufs : List Nat) (code : Option (BitVec 8)) : Chain :=
  { chan := hChan h, bufs := bufs, st := .filling, hdr := h, lot := lot, posted := 0,
    dec := if filtered s h then .waiting else .post, timedOut := false, refusal := code, led := none }

/-- A chain recorded against its first buffer; one that the ledger decides joins the order of arrival. -/
def putArrival (s : State) (b : Nat) (x : Chain) : State :=
  let s1 := chainPut s b x
  if x.dec = .waiting then { s1 with che := { s1.che with probeq := s1.che.probeq ++ [b] } } else s1

/-- The key under which a refused request waits for its ledger decision; one at a time (log 14). -/
def parked : Nat := 0xFFFF

/-- What taking a flit of an arriving message comes to. -/
inductive Took where
  /-- the message goes on -/
  | more (s : State) (a : PartMsg)
  /-- the message is dealt with; what is still to come of it is discarded -/
  | over (s : State)
  /-- the flit stays where it is -/
  | held (s : State)

/-- A message whose buffers were refused, or whose write failed (13 R291): `s1` is the state without its buffers, `s` the one before.
While an earlier refused request waits for its ledger decision, it waits (log 14). -/
def arrivalRefused (s s1 : State) (a : PartMsg) (code : BitVec 8) : Took :=
  let s2 := cheStat s1 (if code = 3 then 3 else 5)
  if !filtered s a.hdr then .over (turnAway s2 a.hdr code)
  else if (chainOf s parked).isSome then .held s
  else .over (putArrival s2 parked (newChain s2 a.hdr a.lot [] (some code)))

/-- The message that a first flit begins. -/
def partOf (s : State) (d : LineData) : PartMsg :=
  let h := hdrSet (hdrOf d) 0x1B 1 0
  { hdr := h, left := hdrFlits h, pos := 0, lot := chanLot s (hChan h).val 0, code := arrivalCheck s h, bufs := [] }

/-- The next flit of an arriving message: its buffers are allocated as its bytes come to them, and written. One that has failed a check
only runs out. -/
def takePart (s : State) (a0 : PartMsg) (d : LineData) : Took :=
  let a := { a0 with left := a0.left - 1 }
  let bytes := if a.pos = 0 then toBytes 32 a.hdr.toNat ++ lineBytes d 32 32 else lineBytes d 0 64
  let bs := bytes.take (32 + hLen a.hdr - a.pos)
  let pos := a.pos + bs.length
  match a.code with
  | some code => if a.left = 0 then .over (turnAway s a.hdr code) else .more s { a with pos := pos }
  | none =>
    let c := hChan a.hdr
    match allocMany s c (bufsFor pos - a.bufs.length) [] with
    | (s1, got, false) => arrivalRefused s (freeBufs s1 (a.bufs ++ got)) a 3
    | (s1, got, true) =>
      let bufs := a.bufs ++ got
      match writePart c.val a.lot bufs (a.left == 0) 4 s1 a.pos bs with
      | .held j => .held (heldState s j)
      | .failed s2 => arrivalRefused s (freeBufs s2 bufs) a 10
      | .done s2 =>
        if a.left = 0 then .over (putArrival s2 (bufs.head?.getD 0) (newChain s2 a.hdr a.lot bufs none))
        else .more s2 { a with bufs := bufs, pos := pos }

/-- A message that an ABORT ends short of its length: MALFORMED (14 R336). -/
def cutShort (s : State) (a : PartMsg) : State := turnAway (freePart s (some a)) a.hdr 4

/-- A first flit of a message has come to the channel engine. -/
def countArrival (s : State) : State := pmuAdd s 566 1

/-- Flits of lane v of port p until a message is dealt with. -/
def arriveLane (p v : Nat) : Nat → State → State
  | 0, s => s
  | fuel + 1, s =>
    let x := ibfGet s p
    let (dest, left) := tget (RxDest.drop, 0) x.rxMsg v
    let part := tfind x.rxPart v
    if !arrivesAt s p v then s
    else match tget [] x.rx v, part with
      | [], _ => s
      | .abort :: _, some a => cutShort (takeFlit s p v 0 .drop 0 none) a
      | .abort :: _, none => arriveLane p v fuel (takeFlit s p v 0 .drop 0 none)
      | .flit d :: _, _ =>
        if left ≠ 0 ∧ dest = .drop then arriveLane p v fuel (takeFlit s p v 1 .drop (left - 1) none)
        else
          let s0 := if part.isSome then s else countArrival s
          let a := part.getD (partOf s d)
          match takePart s0 a d with
          | .more s1 b => arriveLane p v fuel (takeFlit s1 p v 1 .own b.left (some b))
          | .over s1 => takeFlit s1 p v 1 .drop (a.left - 1) none
          | .held s1 => if s1.cyc.stalled then slotsBack s s1 else s1

/-- Flits of the loopback until its first message is dealt with (13 R294). -/
def arriveLoop : Nat → State → State
  | 0, s => s
  | fuel + 1, s =>
    let put := fun (s : State) l a => { s with che := { s.che with loop := l, loopPart := a } }
    match s.che.loop with
    | [] => s
    | [] :: r => put s r none
    | (d :: fl) :: r =>
      let s0 := if s.che.loopPart.isSome then s else countArrival s
      match takePart s0 (s.che.loopPart.getD (partOf s d)) d with
      | .more s1 b =>
        if fl.isEmpty then put (cutShort s1 b) r none else arriveLoop fuel (put s1 (fl :: r) (some b))
      | .over s1 => put s1 r none
      | .held s1 => if s1.cyc.stalled then slotsBack s s1 else s1

/-- MESSAGE_ARRIVAL (13 R290, R291): the flits that have come of the next message. -/
def execMessageArrival (s : State) : Host.Outcome State Fault Refusal :=
  when (fclkOn s) s (match cheLanes.find? fun q => arrivesAt s q.1 q.2 with
    | some (p, v) => arriveLane p v (tget [] (ibfGet s p).rx v).length s
    | none => arriveLoop 258 s)

/-! ### The ledger decision (13 R297-R300) -/

/-- A request ends without work for a handler. -/
def endRequest (s : State) (b : Nat) (x : Chain) (code : BitVec 8) : State := (nack (dropChain s b) x.hdr code).1

/-- A request is new work: it will be posted, or ends with the refusal it met. -/
def newWork (s : State) (b : Nat) (x : Chain) (led : Option Nat) : State :=
  match x.refusal with
  | some code => endRequest s b x code
  | none => chainPut s b { x with dec := .post, led := led }

def countDup (s : State) : State := pmuAdd { s with che := { s.che with dupcnt := satAdd s.che.dupcnt 1 } } 568 1

def repeatOf (h : BitVec 256) : Repeat := ⟨hSrc h, hRchan h, hSeq h⟩

/-- The reply whose tag write is awaited, from its buffers. -/
def heldReply (s : State) (id : Nat) : Option (Nat × Chain) :=
  s.che.chains.find? fun p => p.2.led == some id && p.2.st == .sending

/-- A repeat of an open or held request (13 R298, R299, R306). -/
def asRepeat (s : State) (b : Nat) (x : Chain) (e : Ledger) : State :=
  let s1 := countDup s
  if 3 ≤ e.repeats.length then endRequest s1 b x 5
  else
    let s2 := dropChain (ledgerTouch s1 { e with repeats := e.repeats ++ [repeatOf x.hdr] }) b
    if !e.held then s2
    else match heldReply s2 e.id with
      | none => s2
      | some (k, y) =>
        let w := walkChain y.chan.val k (hLen y.hdr) (poolBufs s2) k ⟨s2, [], y.bufs, [], 0⟩
        if w.err = 0 then sendCopies w.s y.hdr w.data [repeatOf x.hdr] else w.s

/-- The decision on the request in buffer b is made: nothing of its reads is left. -/
def decided (s : State) (b : Nat) : State :=
  readsEnd { s with che := { s.che with probeq := s.che.probeq.filter (· ≠ b) } } (.ledger b)

/-- A stored reply is sent again, once its lines are read. -/
def sendStored (s : State) (b : Nat) (x : Chain) (bucket : Nat) (way : BitVec 2) : State :=
  match storeBytes s b x.chan.val bucket way with
  | (s1, none) => s1
  | (s1, some none) => endRequest (ledgerErr (decided s1 b)) b x 9
  | (s1, some (some bs)) =>
    let (h, payload) := storedReply bs
    let s2 := sendCopies (dropChain (decided s1 b) b) h payload [repeatOf x.hdr]
    if hKind h = 3 then countNack s2 else s2

/-- A repeat of a done request whose reply is stored, or not. -/
def asDone (s : State) (b : Nat) (x : Chain) (e : Ledger) : State :=
  let s1 := countDup (ledgerTouch (decided s b) e)
  if e.nostore || !s.che.ten then endRequest s1 b x 8
  else
    let bucket := bucketOf s e.group e.key
    let y := { x with dec := .stored bucket e.way, led := none }
    sendStored (chainPut s1 b y) b y bucket e.way

/-- A tag's way may take a new entry: empty, expired, or open without an on-chip entry. -/
def wayFree (s : State) (t : Option (BitVec 6 × BitVec 64 × Word × Bool × Bool)) : Bool :=
  match t with
  | none => true
  | some (g, k, time, done, _) =>
    !isLive s g time || (!done && s.che.ledger.all fun y => y.group != g || y.key != k || y.old || y.st == .pending)

/-- The pending entry e is recorded as open, in place of one of the same key that is no longer live. -/
def recordNew (s : State) (b : Nat) (x : Chain) (e : Ledger) : State :=
  if x.refusal.isSome then newWork (ledgerDel s e.id) b x none
  else
    let e1 := { e with time := ledgerTime s, st := .opened }
    let older := s.che.ledger.filterMap fun y =>
      if y.id = e.id then none
      else if y.group = e.group ∧ y.key = e.key ∧ !y.old then (if replaceable y then none else some { y with old := true }) else some y
    let s1 := ledgerSet s (e1 :: older)
    newWork (if s.che.ten then cheWrites s1 [tagWrite s x.chan e1 1] else s1) b x (some e.id)

/-- What the tag of a done entry says when it is that of a key and live: its way, its time, NOSTORE. -/
def doneTag (s : State) (g : BitVec 6) (key : BitVec 64) (t : BitVec 2 × Option (BitVec 6 × BitVec 64 × Word × Bool × Bool)) :
    Option (BitVec 2 × Word × Bool) :=
  match t.2 with
  | some (g', k', time, true, ns) => if g' = g ∧ k' = key ∧ isLive s g time then some (t.1, time, ns) else none
  | _ => none

/-- The pending entry e of a key that missed on chip is looked up in its bucket (13 R297, R300). -/
def lookUp (s : State) (b : Nat) (x : Chain) (e : Ledger) : State :=
  match readBucket s b x.chan.val (bucketOf s e.group e.key) with
  | (s1, none) => s1
  | (s1, some none) => endRequest (ledgerErr (ledgerDel (decided s1 b) e.id)) b x 9
  | (s1, some (some d)) =>
    let s2 := decided s1 b
    let tags := (List.range 4).map fun w => (BitVec.ofNat 2 w, readTag (flitNat d (16 * w) 16))
    match tags.findSome? (doneTag s e.group e.key) with
    | some (w, time, ns) => asDone s2 b x { e with time := time, st := .done, nostore := ns, way := w }
    | none =>
      match tags.find? fun t => wayFree s2 t.2 with
      | some (w, _) => recordNew s2 b x { e with way := w }
      | none => endRequest (ledgerDel s2 e.id) b x 6

/-- A key that misses on chip is given an on-chip entry in state PENDING (13 R297). -/
def beginProbe (s : State) (b : Nat) (x : Chain) : State :=
  match ledgerRoom s with
  | none => endRequest (decided s b) b x 6
  | some s1 =>
    let id := s1.che.ledNext
    let e : Ledger := { id := id, group := groupOfChan s x.chan.val, key := hKey x.hdr, time := ledgerTime s, st := .pending, nostore := false,
                        old := false, held := false, repeats := [], way := 0, stores := 0, failed := false }
    let s2 := { s1 with che := { s1.che with ledger := e :: s1.che.ledger, ledNext := id + 1 } }
    if !s.che.ten then recordNew (decided s2 b) b x e
    else
      let y := { x with led := some id }
      lookUp (chainPut (pmuAdd s2 572 1) b y) b y e

/-- A request that reaches the ledger is classified (13 R298), or goes on with the reads it waits for. -/
def probe (s : State) (b : Nat) (x : Chain) : State :=
  let g := groupOfChan s x.chan.val
  match ledgerOf s x.led with
  | some e => lookUp s b x e
  | none =>
    if grpWindow s g = 0 then newWork (decided s b) b x none
    else match ledgerFind s g (hKey x.hdr) with
      | some e =>
        if !isLive s g e.time then beginProbe s b x
        else if e.st = .done ∧ !e.held then asDone s b x e
        else asRepeat (decided s b) b x e
      | none => beginProbe s b x

/-- Two requests have one ledger identity (13 R295). -/
def sameKey (s : State) (x y : Chain) : Bool :=
  groupOfChan s x.chan.val == groupOfChan s y.chan.val && hKey x.hdr == hKey y.hdr

/-- LEDGER_PROBE (13 R297-R300) of the request in buffer `buf`, after those of its key that arrived before it: it goes as far as its reads
of the table have been answered. -/
def execLedgerProbe (buf : BitVec 16) (bucket store : Ecc) (s : State) : Host.Outcome State Fault Refusal :=
  let b := buf.toNat
  happens s (match chainOf s b with
    | some x =>
      let earlier := (s.che.probeq.takeWhile (· ≠ b)).any fun k => (chainOf s k).any (sameKey s x)
      if !fclkOn s || x.st != .filling then s
      else match x.dec with
        | .waiting => if earlier then s else withEcc [bucket, store] (probe · b x) s
        | .stored k w => withEcc [store] (sendStored · b x k w) s
        | .post => s
    | none => s)

/-! ### Posting and receiving (13 R292, R293) -/

/-- MESSAGE_POST (13 R292): the descriptor joins the queue and the channel's source is raised. -/
def execMessagePost (buf : BitVec 16) (s : State) : Host.Outcome State Fault Refusal :=
  let b := buf.toNat
  happens s (match chainOf s b with
    | some x =>
      if fclkOn s && x.st == .filling && x.dec == .post then
        let c := x.chan.val
        let s1 := chainPut s b { x with st := .queued, posted := s.tmr.gtime, lot := chanLot s c x.lot }
        let s2 := pmuAdd { s1 with che := { s1.che with descq := s1.che.descq ++ [b] } } 567 1
        raiseSrc s2 (321 + (fld (tget 0 s.che.chcfg c) 1 4).toNat)
      else s
    | none => s)

/-- The lot stamp of the engine that made an access (16 R376). -/
def setStamp (s : State) (src : IoSrc) (lot : Half) : State :=
  match src with
  | .engine e => regPut s e { regGet s e with stamp := some lot }
  | _ => s

/-- The channel source of a descriptor's chain. -/
def srcOfBuf (s : State) (b : Nat) : Option Nat :=
  (chainOf s b).map fun x => (fld (tget 0 s.che.chcfg x.chan.val) 1 4).toNat

/-- A read of `CHE.RECV`k. -/
def cheRecv (s : State) (src : IoSrc) (k : Nat) : State × Word :=
  match s.che.descq.find? fun b => srcOfBuf s b == some k with
  | none => (s, 0xFFFFFFFF#32)
  | some b =>
    match chainOf s b with
    | none => (s, 0xFFFFFFFF#32)
    | some x =>
      let kind := hKind x.hdr
      let s1 := chainPut s b { x with st := if kind = 0 then .opened else .owned }
      (setStamp { s1 with che := { s1.che with descq := s1.che.descq.filter (· ≠ b) } } src x.lot,
       BitVec.ofNat 32 (b + 65536 * x.chan.val + 2 ^ 26 * kind))

/-- `CHE.RECV`k appears in a view: the manager's, or that of the instance that owns source 321 + k (16 R370). -/
def recvVisible (s : State) (src : IoSrc) (k : Nat) : Bool :=
  match viewOf s src with
  | .manager => true
  | .inst i => (srcGet s (321 + k)).inst.toNat == i
  | .empty => false

/-- A channel's registers appear in a view. -/
def chanVisible (s : State) (src : IoSrc) (c : Nat) : Bool :=
  match viewOf s src with
  | .manager => true
  | .inst i => instOfChan s c == some i
  | .empty => false

/-- The value that a read returns to its reader (log 11). -/
def readOut (r : State × Word) : State := { r.1 with lastRead := r.2 }

/-- CHE_RECV_READ (13 R293). -/
def execCheRecvRead (src : IoSrc) (k : Fin 15) (s : State) : Host.Outcome State Fault Refusal :=
  when (fclkOn s && srcActs s src) s (readOut (if recvVisible s src k.val then cheRecv s src k.val
    else (unmapped s src (BitVec.ofNat 24 (0x02E000 + 4 * k.val)) false, 0)))

/-- A read of `CHE.ALLOC`c (13 R302). -/
def cheAlloc (s : State) (src : IoSrc) (c : ChanNo) : State × Word :=
  match allocBuf s c with
  | (s1, none) => (s1, 0xFFFF#32)
  | (s1, some b) =>
    let own := match src with | .engine e => ((regGet s e).stamp).getD 0 | _ => 0
    let lot := chanLot s c.val own
    (setStamp (chainPut s1 b { chan := c, bufs := [b], st := .owned, hdr := 0, lot := lot, posted := 0, dec := .post,
                               timedOut := false, refusal := none, led := none }) src lot, BitVec.ofNat 32 b)

/-- CHE_ALLOC_READ (13 R302). -/
def execCheAllocRead (src : IoSrc) (c : ChanNo) (s : State) : Host.Outcome State Fault Refusal :=
  when (fclkOn s && srcActs s src) s (readOut (if chanVisible s src c.val then cheAlloc s src c
    else (unmapped s src (BitVec.ofNat 24 (0x02A000 + 4 * c.val)) false, 0)))

/-! ### Freeing (13 R303) -/

/-- An entry is removed and the repeats recorded in it are dropped. -/
def entryDrop (s : State) (c : ChanNo) (o : Option Nat) : State :=
  countDisc (entryRemove s c o) (match ledgerOf s o with | some x => x.repeats.length | none => 0)

/-- A write of `CHE.FREE`. -/
def cheFree (s : State) (src : IoSrc) (v : Word) : State :=
  let b := (fld v 0 16).toNat
  match chainOf s b with
  | some x =>
    if !chanVisible s src x.chan.val || b == parked then sendErrReg s 1 b
    else if x.st = .owned then releaseChain s b
    else if x.st = .opened then releaseChain (entryDrop s x.chan x.led) b
    else sendErrReg s 1 b
  | none => sendErrReg s 1 b

/-- `CHE.SEND` and `CHE.FREE` appear in every view but an empty one (16 R368, R370). -/
def anyView (s : State) (src : IoSrc) : Bool := viewOf s src != .empty

/-- CHE_FREE (13 R303). -/
def execCheFree (src : IoSrc) (v : Word) (s : State) : Host.Outcome State Fault Refusal :=
  when (fclkOn s && srcActs s src) s (if anyView s src then cheFree s src v else unmapped s src 0x02000C#24 true)

/-! ### Sending (13 R304, R308, R309; 16 R378) -/

/-- A chain returns to owned. -/
def toOwned (s : State) (b : Nat) : State :=
  match chainOf s b with
  | some x => chainPut s b { x with st := .owned, led := none }
  | none => s

/-- The reply's header as it leaves (13 R304), from the software's and the request's. -/
def replyHdr (h req : BitVec 256) (lot : Half) : BitVec 256 :=
  let h1 := hdrSet (hdrSet (hdrSet h 0 2 (hRchan req).toNat) 2 2 lot.toNat) 4 2 (hDst req).toNat
  let h2 := hdrSet (hdrSet (hdrSet h1 6 2 (hSrc req).toNat) 8 8 (hKey req).toNat) 0x14 4 (hSeq req).toNat
  hdrSet (hdrSet h2 0x12 2 1) 0x1A 1 0

/-- The request that REQ names: an open one, or the still-owned chain of one that timed out. -/
def answered (s : State) (src : IoSrc) (r : Nat) : Option Chain :=
  (chainOf s r).filter fun x =>
    chanVisible s src x.chan.val && r != parked && ((x.st == .opened) || (x.st == .owned && x.timedOut))

/-- A reply to a request whose lot has passed is discarded (13 R309). -/
def staleReply (s : State) (b r : Nat) (x : Chain) : State :=
  let s1 := (nack s x.hdr 1).1
  let reps := match ledgerOf s x.led with | some e => e.repeats | none => []
  let s2 := entryRemove (nackRepeats s1 x.hdr reps 1) x.chan x.led
  let s3 := toOwned (toOwned s2 r) b
  pmuAdd { s3 with che := { s3.che with stalecnt := satAdd s3.che.stalecnt 1 } } 574 1

/-- A reply is tagged and held (13 R306, 15 R350). -/
def sendReply (s : State) (b r : Nat) (x y : Chain) (h : BitVec 256) (i : Nat) : State :=
  let s1 := if r = b then s else toOwned s r
  let s2 := chainPut s1 b { y with st := .sending, hdr := replyHdr h x.hdr (insGet s i).lot, led := x.led, timedOut := false }
  { s2 with che := { s2.che with sendq := s2.che.sendq ++ [⟨b, true, s.twn.txseq - 1, some i⟩] }
            cyc := { s2.cyc with sends := s2.cyc.sends ++ [(b, y, r, x)] } }

/-- The engine that sends has a stale stamp (16 R378): its instance. -/
def staleSender (s : State) (src : IoSrc) : Option Nat :=
  match src with
  | .engine e => (instOf s e).filter fun i => (regGet s e).stamp != some (insGet s i).lot
  | _ => none

/-- A request or one-way message is accepted, or discarded when its engine's stamp is stale. -/
def sendPlain (s : State) (src : IoSrc) (b : Nat) (y : Chain) (h : BitVec 256) : State :=
  match staleSender s src with
  | some i =>
    let s1 := releaseChain s b
    insPut s1 i { insGet s1 i with stalesnd := satAdd (insGet s1 i).stalesnd 1 }
  | none =>
    let s1 := chainPut s b { y with st := .sending, hdr := hdrSet h 4 2 s.cpx.devid.toNat, led := none, timedOut := false }
    { s1 with che := { s1.che with sendq := s1.che.sendq ++ [⟨b, false, 0, none⟩] } }

/-- A write of `CHE.SEND` that the send queue has room for. -/
def sendChecked (s : State) (src : IoSrc) (v : Word) : State :=
  let b := (fld v 0 16).toNat
  let r := (fld v 16 16).toNat
  match (chainOf s b).filter fun y => chanVisible s src y.chan.val && b != parked && (y.st == .owned || y.st == .opened) with
  | none => sendErr s 1 b
  | some y =>
    let x := answered s src r
    if r ≠ 0xFFFF ∧ x.isNone then sendErr (toOwned s b) 2 b
    else match cheRead s y.chan.val (bufOff s b) 32 with
      | (s1, none) => sendErr (releaseChain (if y.st = .opened then entryDrop s1 y.chan y.led else s1) b) 6 b
      | (s1, some bs) =>
        let h : BitVec 256 := BitVec.ofNat 256 (leNat bs)
        if hReserved h then sendErr (toOwned s1 b) 3 b
        else match x with
          | none => if hKind h % 2 = 1 then sendErr (toOwned s1 b) 4 b else sendPlain s1 src b y h
          | some x =>
            if x.st != .opened then
              let s2 := toOwned s1 b
              cheStat { s2 with che := { s2.che with latecnt := satAdd s2.che.latecnt 1 } } 4
            else match instOfChan s1 x.chan.val with
              | none => staleReply s1 b r x
              | some i => if x.lot = (insGet s1 i).lot then sendReply s1 b r x y h i else staleReply s1 b r x

/-- The send queue is full (13 R304): the write waits. Replies that are held stand outside it (log 14). -/
def sendqFull (s : State) : Bool := decide (64 ≤ (s.che.sendq.filter fun q => !q.reply).length)

/-- A write of `CHE.SEND`; none while its acknowledgement is held. -/
def cheSend (s : State) (src : IoSrc) (v : Word) : Option State := if sendqFull s then none else some (sendChecked s src v)

/-- CHE_SEND (13 R304). -/
def execCheSend (src : IoSrc) (v : Word) (s : State) : Host.Outcome State Fault Refusal :=
  when (fclkOn s && srcActs s src) s (if anyView s src then (cheSend s src v).getD s else unmapped s src 0x020008#24 true)

/-! ### Transmission (13 R294, R305; 14 R337, R338) -/

/-- A chain is read for transmission: whole, or broken. A broken one leaves its whole flits and an abort marker (13 R305). -/
def readOutChain (s : State) (b : Nat) (x : Chain) : State × Option (List Byte) :=
  let w := walkChain x.chan.val b (hLen x.hdr) (poolBufs s + 1) b ⟨s, [], x.bufs, [], 0⟩
  if w.err = 0 then (chainPut w.s b { x with bufs := w.own }, some w.data)
  else
    let n := (32 + w.data.length) / 64
    let o : OutMsg := ⟨laneOf x.hdr, none, msgFlits x.hdr w.data n, true, none⟩
    let s1 := sendErr (freeBufs (chainDel w.s b) w.own) w.err b
    (if n = 0 then s1 else { s1 with che := { s1.che with out := s1.che.out ++ [o] } }, none)

/-- A chain whose last flit is passed is released, unless the store of its reply is still to be acknowledged (13 R305, R306). -/
def passedChain (s : State) (o : Option Nat) : State :=
  match o with
  | none => s
  | some b =>
    match chainOf s b with
    | some x => if (ledgerOf s x.led).any (·.held) then s else dropChain s b
    | none => s

/-- The first message of lane v is done with. -/
def outDone (s : State) (v : Nat) (o : OutMsg) : State :=
  let s1 := { s with che := { s.che with out := s.che.out.eraseP fun q => q.lane.val == v } }
  passedChain (match o.port with
    | some p => txForget (if tget 0 (ibfGet s1 p).txHold v = 64 then txHeld s1 p v 0 else s1) v 64
    | none => s1) o.buf

/-- The flits of the first message of lane v move to the transmit queue of its port while it takes them, one in a slot. -/
def passFlits (v p : Nat) : Nat → State → OutMsg → State
  | 0, s, _ => s
  | fuel + 1, s, o =>
    let keep := { s with che := { s.che with out := s.che.out.eraseP fun q => q.lane.val == v } }
    let put := { keep with che := { keep.che with out := o :: keep.che.out } }
    match o.flits with
    | [] =>
      if !o.abort then outDone put v o
      else if txRoom s p v then outDone (txPush put p v [.abort]) v o else put
    | d :: r =>
      match txServe s p v 64 with
      | some s1 => passFlits v p fuel (txForget (txHeld (txPush s1 p v [.flit d]) p v 64) v 64) { o with flits := r }
      | none => txJoin put p v 64

/-- Lane v of the channel engine's output. -/
def passLane (s : State) (v : Nat) : State :=
  match s.che.out.find? fun o => o.lane.val == v with
  | none => s
  | some o =>
    match o.port, o.flits with
    | some p, _ => passFlits v p (o.flits.length + 1) s o
    | none, [] => outDone s v o
    | none, d :: r =>
      let dst := flitDest v d
      if isOwn s dst then outDone { s with che := { s.che with loop := s.che.loop ++ [o.flits] } } v o
      else match routePort s dst with
        | none => outDone (unreachable s dst) v o
        | some p => passFlits v p (o.flits.length + 1) s
            { o with port := some p, flits := flitByte d 0x1B (hopsOf s dst) :: r }

/-- No send of the same channel that was accepted before still waits: messages of one channel leave in the order of their sends (13 R305;
log 14). -/
def mayLeave (s : State) (q : SendReq) : Bool :=
  let chan := fun (q : SendReq) => (chainOf s q.buf).map (·.chan)
  (s.che.sendq.takeWhile fun r => r.buf ≠ q.buf).all fun r => chan r != chan q

/-- MESSAGE_TRANSMIT (13 R305): the oldest request or one-way message that may leave is read, and a flit of each lane passes to its
transmit queue. -/
def execMessageTransmit (s : State) : Host.Outcome State Fault Refusal :=
  let s1 := match s.che.sendq.find? fun q => !q.reply && mayLeave s q with
    | none => s
    | some q =>
      let s0 := { s with che := { s.che with sendq := s.che.sendq.filter fun r => r.buf ≠ q.buf } }
      match chainOf s q.buf with
      | none => s0
      | some x =>
        match readOutChain s0 q.buf x with
        | (s2, some data) => cheOut s2 x.hdr data (some q.buf)
        | (s2, none) => s2
  when (fclkOn s) s (passLane (passLane s1 0) 1)

/-! ### Replies (13 R306, 15 R357) -/

/-- a precedes b among journal sequences (15 R350). -/
def seqBefore (a b : BitVec 48) : Bool := decide (1 ≤ (b - a).toNat ∧ (b - a).toNat < 2 ^ 47)

/-- A held reply may leave. One that an ACK of this cycle lets go leaves in a later cycle: a fencing of this one would prevail (15 R362), and a
repeat of this one still receives its copy (13 R310). -/
def releasable (s : State) (q : SendReq) : Bool :=
  if s.twn.role = 0 then true
  else (s.twn.st == .sync || s.twn.st == .paired) && seqBefore q.tag (s.cyc.ackOld.getD s.twn.acknext)

/-- A held reply of an instance that is fenced stays (15 R361). -/
def fencedReply (s : State) (q : SendReq) : Bool := q.inst.any fun i => s.twn.fence.getLsbD i

/-- REPLY_RELEASE (13 R306): the oldest held reply goes out, with its copies and its ledger store. -/
def execReplyRelease (s : State) : Host.Outcome State Fault Refusal :=
  happens s (match s.che.sendq.find? fun q => q.reply && !fencedReply s q with
    | none => s
    | some q =>
      if !fclkOn s || !releasable s q || !mayLeave s q then s
      else
        let s0 := { s with che := { s.che with sendq := s.che.sendq.filter fun r => r.buf ≠ q.buf } }
        match chainOf s q.buf with
        | none => s0
        | some x =>
          match readOutChain s0 q.buf x with
          | (s1, none) => entryDrop s1 x.chan x.led
          | (s1, some data) =>
            let s2 := pmuAdd (cheOut s1 x.hdr data (some q.buf)) 571 1
            let reps := match ledgerOf s2 x.led with | some e => e.repeats | none => []
            entryDone (sendCopies s2 x.hdr data reps) x.chan x.led x.hdr data true)

/-! ### Timeouts (13 R308) -/

/-- A request's time is up at the last tick boundary. -/
def timeUp (s : State) (x : Chain) : Bool :=
  let tmo := grpTmo s (groupOfChan s x.chan.val)
  tmo != 0 && decide (x.posted.toNat + tmo * 1024 ≤ s.tmr.gtime.toNat / 1024 * 1024)

/-- A request may time out. -/
def mayTimeOut (s : State) (x : Chain) : Bool := hKind x.hdr == 0 && (x.st == .queued || x.st == .opened) && timeUp s x

/-- The timeout of the request in buffer b, unless something of the cycle has come before it (13 R310). -/
def timeOut (s : State) (b : Nat) : State :=
  match chainOf s b with
  | none => s
  | some x =>
    if !mayTimeOut s x then s
    else
      let (s1, h) := nack s x.hdr 7
      let reps := match ledgerOf s x.led with | some e => e.repeats | none => []
      let s2 := pmuAdd (entryDone (nackRepeats s1 x.hdr reps 7) x.chan x.led h [] false) 573 1
      if x.st = .opened then chainPut s2 b { x with st := .owned, timedOut := true, led := none }
      else dropChain { s2 with che := { s2.che with descq := s2.che.descq.filter (· ≠ b) } } b

/-- REQUEST_TIMEOUT (13 R308): it applies at the end of the cycle (13 R310). -/
def execRequestTimeout (buf : BitVec 16) (s : State) : Host.Outcome State Fault Refusal :=
  let b := buf.toNat
  when (fclkOn s && (chainOf s b).any (mayTimeOut s) && !s.cyc.tmos.contains b) s
    { s with cyc := { s.cyc with tmos := s.cyc.tmos ++ [b] } }

/-- The timeouts of the cycle that ends. -/
def endTimeouts (s : State) : State := { s.cyc.tmos.foldl timeOut s with cyc := { s.cyc with tmos := [] } }

/-! ### Sends in the cycle of a reset (13 R310) -/

/-- A reply of instance i that was sent in the cycle in which i's reset takes effect is stale (13 R309, R310): the send is undone, and its
reply discarded. -/
def staleSend (i : Nat) (s : State) (q : Nat × Chain × Nat × Chain) : State :=
  let (b, y, r, x) := q
  let now := s.che.sendq.any fun a => a.reply && a.buf == b && a.inst == some i
  if !now then s
  else
    let s1 := { s with che := { s.che with sendq := s.che.sendq.filter fun a => a.buf ≠ b } }
    staleReply (chainPut (chainPut s1 b y) r x) b r x

end Sys2Proof.Machine
end

