-- ==== Sys2Proof/Machine/Control.lean ====
section
/-! DEFINITION. Control transfers (05 R111-R113) and the return stack (03 R63, R64).
What is DEDUCED or a DESIGN CHOICE here is said in notes/assumptions, log 21. -/

namespace Sys2Proof.Machine

open Sys2Proof

/-- A compare-and-branch that pops k cells. -/
def condOp (e : Eng) (b : BForm) (k : Nat) (f : Bool → List Word → Bool) (s : State) : Out :=
  let pc := (regGet s e).pc
  issueXfer s e (bPlace b) true 0 none .cond (bTarget b pc) fun s =>
    (pops s e k 0).bind fun s1 vs =>
      let t := f (sb1Mode s e) vs
      .ok (putCells s1 e k []) (t, if t then bTarget b pc else pc + 4)

/-- A condition on two cells, at the width of the mode (03 R71, R79). -/
def cond2 (f : (w : Nat) → BitVec w → BitVec w → Bool) (sb1 : Bool) : List Word → Bool
  | b :: a :: _ => wideCmp sb1 f a b
  | _ => false

/-- A condition on one cell against zero. -/
def cond0 (f : (w : Nat) → BitVec w → BitVec w → Bool) (sb1 : Bool) : List Word → Bool
  | x :: _ => wideCmp sb1 f x 0
  | _ => false

/-- `LNK` written by a call, and the predicted link with it (08 R181). -/
def linkRegs (r : Regs) (a : Word) : Regs := { r with lnk := a, plink := some a }

/-- A call's link written; in run-ahead it is valid. -/
def linkPut (s : State) (e : Eng) (r : Regs) (a : Word) : State := markBad (regPut s e (linkRegs r a)) e .lnk false

/-- The position, from the bottom, of the return stack's top entry, and of the one a push makes. -/
def rsTop (r : Regs) : Nat := rdepth r - 1

/-- A transfer to the popped cell; a misaligned one stays on the stack (05 R111). -/
def indirectOp (e : Eng) (o : BitVec 24) (link : Bool) (s : State) : Out :=
  let pc := (regGet s e).pc
  issueXfer s e .long false (if link then 1 else 0) (reservedFrom o 0) .indirect 0 fun s =>
    (pops s e 1 0).bind fun s1 vs =>
      let t := vs.headD 0
      if fld t 0 2 != 0 then .fault s1 (alignFault 2 t)
      else
        let r := cellsPut (regGet s1 e) 1 []
        .ok (if link then linkPut s1 e r (pc + 4) else regPut s1 e r) (true, t)

/-- BEQ (05 R111). -/
def execBeq (e : Eng) (b : BForm) (s : State) : Out := condOp e b 2 (cond2 eqW) s

/-- BNE (05 R111). -/
def execBne (e : Eng) (b : BForm) (s : State) : Out := condOp e b 2 (cond2 neW) s

/-- BLT (05 R111). -/
def execBlt (e : Eng) (b : BForm) (s : State) : Out := condOp e b 2 (cond2 ltW) s

/-- BGE (05 R111). -/
def execBge (e : Eng) (b : BForm) (s : State) : Out := condOp e b 2 (cond2 geW) s

/-- BLTU (05 R111). -/
def execBltu (e : Eng) (b : BForm) (s : State) : Out := condOp e b 2 (cond2 ltuW) s

/-- BGEU (05 R111). -/
def execBgeu (e : Eng) (b : BForm) (s : State) : Out := condOp e b 2 (cond2 geuW) s

/-- BZ (05 R111). -/
def execBz (e : Eng) (b : BForm) (s : State) : Out := condOp e b 1 (cond0 eqW) s

/-- BNZ (05 R111). -/
def execBnz (e : Eng) (b : BForm) (s : State) : Out := condOp e b 1 (cond0 neW) s

/-- JMP and its short form BR (05 R111). -/
def execJmp (e : Eng) (b : BForm) (s : State) : Out :=
  let t := bTarget b (regGet s e).pc
  issueXfer s e (bPlace b) true 0 none .direct t fun s => .ok s (true, t)

/-- CALL (03 R63). -/
def execCall (e : Eng) (b : BForm) (s : State) : Out :=
  let pc := (regGet s e).pc
  issueXfer s e (bPlace b) true 1 none .direct (bTarget b pc) fun s =>
    .ok (linkPut s e (regGet s e) (pc + 4)) (true, bTarget b pc)

/-- RET (03 R63). -/
def execRet (e : Eng) (b : BForm) (s : State) : Out :=
  issueXfer s e (bPlace b) true 0 (bRes b) .ret 0 fun s =>
    let t := (regGet s e).lnk
    if raBad (engGet s e) .lnk then .inv s
    else if fld t 0 2 != 0 then .fault s (alignFault 2 t) else .ok s (true, t)

/-- JMPS (05 R111). -/
def execJmps (e : Eng) (o : BitVec 24) (s : State) : Out := indirectOp e o false s

/-- CALLS (05 R111). -/
def execCalls (e : Eng) (o : BitVec 24) (s : State) : Out := indirectOp e o true s

/-- PUSHL (03 R64). -/
def execPushl (e : Eng) (y : Syl) (s : State) : Out :=
  issue s e (sylPlace y) false false true (sylRes y 0) fun s =>
    (prepRs s e 0 1).bind fun s1 _ =>
      let g := engGet s1 e
      .ok (markBad (regPut s1 e { g.r with rs := g.r.lnk :: g.r.rs, prtop := g.r.plink }) e (.ret (rdepth g.r)) (raBad g .lnk)) none

/-- POPL (03 R64). -/
def execPopl (e : Eng) (y : Syl) (s : State) : Out :=
  issueLog s e (sylPlace y) false false true 1 (sylRes y 0) fun s =>
    (prepRs s e 1 0).bind fun s1 _ =>
      let g := engGet s1 e
      .ok (markBad (regPut s1 e { g.r with lnk := g.r.rs.headD 0, rs := g.r.rs.drop 1, plink := g.r.prtop, prtop := none }) e .lnk
        (raBad g (.ret (rsTop g.r)))) none

/-- `>RS` (03 R64): the operand stack is prepared before the return stack (05 R98 step 3). In run-ahead an invalid cell makes the
entry invalid. -/
def execToRs (e : Eng) (y : Syl) (s : State) : Out :=
  issue s e (sylPlace y) false false true (sylRes y 0) fun s =>
    let push := fun (s : State) (w : Word) (bad : Bool) =>
      let r := regGet s e
      markBad (regPut s e { r with rs := w :: r.rs, prtop := none }) e (.ret (rdepth r)) bad
    match pops s e 1 0 with
    | .ok s1 vs => (prepRs s1 e 0 1).bind fun s2 _ => .ok (push (putCells s2 e 1 []) (vs.headD 0) false) none
    | .inv s1 => (prepRs s1 e 0 1).bind fun s2 _ => .ok (push s2 0 true) none
    | .hold s1 => .hold s1
    | .fault s1 i => .fault s1 i

/-- `RS>` (03 R64). -/
def execFromRs (e : Eng) (y : Syl) (s : State) : Out :=
  issue s e (sylPlace y) false false true (sylRes y 0) fun s =>
    (prepDs s e 0 1).bind fun s1 _ =>
      (prepRs s1 e 1 0).bind fun s2 _ =>
        let g := engGet s2 e
        let r := g.r
        let c : Cell := if raBad g (.ret (rsTop r)) then .inv else .val (r.rs.headD 0)
        .ok (regPut s2 e { r with ds := c :: r.ds, rs := r.rs.drop 1, prtop := none }) none

end Sys2Proof.Machine
end

