-- ==== Sys2Proof/Machine/Fetch.lean ====
section
/-! DEFINITION. The gate store (09 R200-R204, 10 R237).
What is DEDUCED or a DESIGN CHOICE here is said in notes/assumptions, log 23. -/

namespace Sys2Proof.Machine

open Sys2Proof

/-! ### Entry words -/

/-- An engine's privilege replaced. -/
def setPriv (s : State) (e : Eng) (p : BitVec 2) : State := regPut s e { regGet s e with priv := p }

/-- A word with the SB1 mark of its page (03 R70). -/
def fetchMarked (s : State) (e : Eng) (va : Word) : Ans (Word × Bool) :=
  (fetchWord s e va).bind fun s1 w =>
    let g := engGet s1 e
    .ok s1 (w, !untranslated g.r && ((tlbFind g.m .fetch (instTag s1 e) va).map (·.sb1)).getD false)

/-- A handler's first two words, fetched at a privilege; none when the fetch fails (10 R237). -/
def entryWords (s : State) (e : Eng) (d : Gate) (at_ : BitVec 2) : Ans (Option EntryWords) :=
  let p := (regGet s e).priv
  let s0 := setPriv s e at_
  match (fetchMarked s0 e d.handler).bind fun s1 a => (fetchMarked s1 e (d.handler + 4)).bind fun s2 b =>
      .ok s2 (⟨a.1, b.1, a.2, b.2⟩ : EntryWords) with
  | .ok s' x => .ok (setPriv s' e p) (some x)
  | .hold s' => .hold (setPriv s' e p)
  | .inv s' => .hold (setPriv s' e p)
  | .fault s' _ => .ok (setPriv s' e p) none

/-! ### Gate descriptors -/

/-- A gate descriptor's first two words, none when it is treated as disabled (09 R201). -/
def gateOf (w0 w1 : Word) : Option Gate :=
  let priv := fld w1 0 2
  if w1.getLsbD 2 && (priv == 1 || priv == 2) && fld w0 0 2 == 0 && fld w1 5 3 == 0 && fld w1 14 2 == 0 && fld w1 24 8 == 0 then
    some { handler := w0, priv := priv, savemul := w1.getLsbD 3, sb1 := w1.getLsbD 4, masklvl := fld w1 8 4,
           sssel := fld w1 12 2, tpop := fld w1 16 4, tpush := fld w1 20 4 }
  else none

/-- The address of gate n in the table in use (09 R200). -/
def gateAddr (gtb : Word) (n : Nat) : PAddr := fld gtb 2 30 ++ BitVec.ofNat 14 (16 * n)

/-- The valid gates of a line of four descriptors, the first of them numbered n. -/
def gatesOf (n : Nat) (bs : List Byte) : List (Nat × Gate) :=
  let ws := wordsOfBytes bs
  (List.range 4).filterMap fun k => (gateOf ((ws[4 * k]?).getD 0) ((ws[4 * k + 1]?).getD 0)).map (n + k, ·)

/-- The lines that a gate-store load reads, by their first gate: 0-31, the event gates, 1023 (09 R203). -/
def gateLines : List Nat := (List.range 8).map (4 * ·) ++ (List.range 97).map (512 + 4 * ·) ++ [1020]

/-- Reads the lines of the table. A line that returned an error is kept in `gerr`, and not read again in this load. -/
def readGates (s : State) (e : Eng) : List Nat → List (Nat × Gate) → Ans (List (Nat × Gate))
  | [], acc => .ok s acc
  | n :: r, acc =>
    if (engGet s e).gerr.contains n then readGates s e r acc
    else (physRead s e (gateAddr (regGet s e).sp.gtb n) 64).bind fun s1 x =>
      match x with
      | some bs => readGates s1 e r (acc ++ gatesOf n bs)
      | none =>
        let g := engGet s1 e
        readGates (engPut s1 e { g with gerr := n :: g.gerr }) e r acc

/-- The entry words of every gate held, under its target privilege. -/
def readWords (s : State) (e : Eng) : List (Nat × Gate) → Tab Gate → Ans (Tab Gate)
  | [], t => .ok s t
  | (n, d) :: r, t => (entryWords s e d d.priv).bind fun s1 w => readWords s1 e r (tput t n { d with words := w })

/-- The gate store loaded from the table that `GTB` names (09 R203): 0-31, 1023, the first 31 enabled event gates. -/
def loadGates (s : State) (e : Eng) : Ans Unit :=
  (readGates s e gateLines []).bind fun s1 l =>
    let ev := l.filter fun p => decide (513 ≤ p.1 ∧ p.1 ≤ 896)
    let keep := l.filter (fun p => decide (p.1 ≤ 31)) ++ ev.take 31 ++ l.filter (·.1 == 1023)
    (readWords s1 e keep []).bind fun s2 t =>
      let g := engGet s2 e
      let p := g.r.sp
      let s3 := if g.gerr.isEmpty then s2 else mcheckPut s2 e 5
      let g3 := engGet s3 e
      .ok (engPut s3 e { g3 with
        gates := t, govf := decide (31 < ev.length), gload := false, gerr := []
        r := { g.r with sp := { p with gtbEff := p.gtb, gtbPend := false } } }) ()

end Sys2Proof.Machine
end

