-- ==== Sys2Proof/Machine/System.lean ====
section
/-! DEFINITION. Traps and serial control: TRAP, SYNC, FENCE, LFENCE, RETI, WAITE, BRK (05 R114-R122), and the background refill
of a bank (09 R219).
What is DEDUCED or a DESIGN CHOICE here is said in notes/assumptions, log 22. -/

namespace Sys2Proof.Machine

open Sys2Proof

/-! ### TRAP -/

/-- What a `TRAP` comes to once its descriptor has been read. -/
inductive TrapDo where
  | enter (d : Gate)
  | escalate (reason : BitVec 4) (dx : Nat)
  | stop
  | tableError
  deriving DecidableEq, Repr

/-- The checks before a `TRAP` commits: the descriptor through the D-cache (09 R204), DSTACK_UNDER (09 R213), the stop under LR
(09 R223), the spill (09 R216, R217), the handler's first words (10 R237). -/
def trapBody (s : State) (e : Eng) (n : Nat) : Ans TrapDo :=
  (physRead s e (gateAddr (regGet s e).sp.gtbEff (32 + n)) 16).bind fun s1 x =>
    match x with
    | none => .ok s1 .tableError
    | some bs =>
      let ws := wordsOfBytes bs
      let g := engGet s1 e
      match gateOf (ws.headD 0) ((ws[1]?).getD 0) with
      | none => .ok s1 (if g.lr then .stop else .escalate 3 (depth g.r))
      | some d =>
        if depth g.r < d.tpop.toNat then .fault s1 (stackFault 10 g.r.dsp)
        else if g.lr then .ok s1 .stop
        else match spillChk g d.sssel with
          | .busy => .hold s1
          | .over => .ok s1 (.escalate 2 (depth g.r + d.tpush.toNat - d.tpop.toNat))
          | .fine => (entryWords s1 e d (maxBV g.r.priv d.priv)).bind fun s2 w => .ok s2 (.enter { d with words := w })

/-- A `TRAP` commits: entry with resume address A + 4 and the depth its gate declares (05 R114, 09 R212). -/
def trapFin (e : Eng) (n : Nat) (s : State) (x : TrapDo) : State :=
  let r := regGet s e
  match x with
  | .tableError => mcheckPut s e 5
  | .stop => stopLast s e r.sp.fcause (r.pc + 4) none
  | .escalate c dx => escalate (engCount s e 1) e c (32 + n) none 0 (r.pc + 4) false dx
  | .enter d => reportMask (enterGate (engCount s e 1) e d (r.pc + 4) false (depth r + d.tpush.toNat - d.tpop.toNat)) e

/-- TRAP (05 R114). -/
def execTrap (e : Eng) (o : BitVec 24) (s : State) : Out :=
  let n := (fld o 0 8).toNat
  issueWith s e .long true false false (reservedFrom o 8) (fun s => trapBody s e n) (trapFin e n)

/-! ### SYNC, FENCE, LFENCE -/

/-- The instruction waits, and makes precise the faults it waits for (06 R145). -/
def waitFence (s : State) (e : Eng) (sync : Bool) : State := engPut s e { engGet s e with fence := some sync }

/-- Every earlier instruction has retired, stores drained (05 R116 step 1). -/
def drained (g : Engine) : Bool :=
  g.m.sb.isEmpty && g.div.isNone && g.prods.isEmpty && g.vq.isEmpty && g.io.isNone

/-- The line buffer emptied (08 R176). -/
def dropFetched (s : State) (e : Eng) : State :=
  let g := engGet s e
  engPut s e { g with m := { g.m with lbuf := [] } }

/-- SYNC (05 R116): pending writes take effect, the gate store loads after a `GTB` write, fetched words are discarded. -/
def execSync (e : Eng) (o : BitVec 24) (s : State) : Out :=
  issue s e .long true false false (reservedFrom o 0) fun s =>
    let g := engGet s e
    if !drained g then .hold (waitFence s e true)
    else
      let g1 := applySync { g with fence := none, gload := g.r.sp.gtbPend }
      let s1 := engPut s e g1
      if g.r.sp.gtbPend then (loadGates s1 e).bind fun s2 _ => .ok (dropFetched s2 e) none else .ok (dropFetched s1 e) none

/-- FENCE (05 R117). -/
def execFence (e : Eng) (o : BitVec 24) (s : State) : Out :=
  issue s e .long true false false (reservedFrom o 0) fun s =>
    let g := engGet s e
    if g.m.sb.isEmpty && !(g.m.wbs.any (·.dcm)) && g.io.isNone then .ok s none else .hold s

/-- LFENCE (05 R118): the divide and the queued vector arithmetic. -/
def execLfence (e : Eng) (o : BitVec 24) (s : State) : Out :=
  issue s e .long true false false (reservedFrom o 0) fun s =>
    let g := engGet s e
    if g.div.isNone && g.vq.isEmpty then .ok (engPut s e { g with fence := none }) none else .hold (waitFence s e false)

/-! ### RETI -/

/-- Moves whole blocks until `want` cells are cached, as far as whole blocks can (03 R61). -/
def moveDs (s : State) (e : Eng) (want : Nat) : Nat → Ans Unit
  | 0 => .ok s ()
  | n + 1 =>
    let c := (regGet s e).ds.length
    if c + 8 ≤ want then (fillDs s e).bind fun s1 _ => moveDs s1 e want n
    else if want + 8 ≤ c then (spillDs s e).bind fun s1 _ => moveDs s1 e want n
    else .ok s ()

/-- The same for the return stack. -/
def moveRs (s : State) (e : Eng) (want : Nat) : Nat → Ans Unit
  | 0 => .ok s ()
  | n + 1 =>
    let c := (regGet s e).rs.length
    if c + 4 ≤ want then (fillRs s e).bind fun s1 _ => moveRs s1 e want n
    else if want + 4 ≤ c then (spillRs s e).bind fun s1 _ => moveRs s1 e want n
    else .ok s ()

/-- The cached cell count that a `RETI` to c restores: the count at entry (03 R61), changed by what c's `TRAP` declared, since the
depth check allows that depth (09 R212); a frame keeps the count alone (log 22). -/
def wantDs (c : Ctx) : Int := c.ccnt + c.net.getD 0

/-- A fault of these moves is DATA_PAGE with SF, whichever check of 03 R58 or R65 it failed (03 R61). -/
def moveFault (i : FaultInfo) : FaultInfo :=
  if i.num = 4 then i else { num := 4, detail := 2, sf := true, acc := if i.num = 9 ∨ i.num = 11 then 1 else 0, faddr := i.faddr }

/-- The stack moves of `RETI` in the current areas, after which `DSP` and `RSP` are the banked ones (03 R61). Where the cache cannot
hold the count that the banked `DSP` asks for, `DSP` stays where the moves left it, so that no cell of the depth just checked is lost
(DESIGN CHOICE, log 22). -/
def retiMoves (s : State) (e : Eng) (c : Ctx) : Ans Unit :=
  let n := wantDs c
  ((moveDs s e (min n.toNat 32) 4).bind fun s1 _ =>
    let r := regGet s1 e
    (moveRs (regPut s1 e (if (r.ds.length : Int) = n then { r with dsp := c.dsp } else r)) e c.rcnt 4).bind fun s2 _ =>
      let r := regGet s2 e
      .ok (regPut s2 e (if r.rs.length = c.rcnt then { r with rsp := c.rsp } else r)) ()).mapFault moveFault

/-- What a `RETI` comes to. -/
inductive RetiDo where
  | restore (c : Ctx)
  | tail (c : Ctx) (h : Held) (d : Gate) (spur : Bool)
  deriving DecidableEq, Repr

/-- The gate a presentation would enter, held valid; the flag says gate 1023 in place of its own (09 R205). -/
def eventGate (g : Engine) (src : BitVec 9) : Option (Gate × Bool) :=
  match tfind g.gates (512 + src.toNat) with
  | some d => some (d, false)
  | none => (tfind g.gates 1023).map (·, true)

/-- The tail chain a `RETI` to context c makes, if any (10 R238). -/
def tailChain (g : Engine) (c : Ctx) : Option RetiDo :=
  if g.lr then none
  else g.held.bind fun h =>
    if c.mask.ult h.prio then (eventGate g h.src).map fun d => .tail c h d.1 d.2 else none

/-- STACK_BALANCE (09 R206, R219). -/
def balance (detail : BitVec 8) : FaultInfo := { num := 19, detail := detail }

/-- The checks of `RETI` (09 R219), then the tail chain or the stack moves. -/
def retiBody (s : State) (e : Eng) : Ans RetiDo :=
  let g := engGet s e
  if g.r.priv = 0 then .fault s (privilege g.r 1)
  else match (if g.lr then g.lrCtx else g.other) with
    | none => if g.refill.isSome then .hold s else .fault s (balance 4)
    | some c =>
      let d : BitVec 8 := (if depth g.r ≠ c.depthx.toNat then 1 else 0) + (if rdepth g.r ≠ c.rdepthx.toNat then 2 else 0)
      if d ≠ 0 then .fault s (balance d)
      else if g.r.priv.ult c.priv then .fault s (privilege g.r 2)
      else match tailChain g c with
        | some x => .ok s x
        | none => (retiMoves s e c).bind fun s1 _ => .ok s1 (.restore c)

/-- The registers of a restored context (09 R219, R223, 03 R81). -/
def restoreRegs (r : Regs) (c : Ctx) (lr : Bool) : Regs :=
  { r with pc := c.pc, syll := c.syll, rpt := c.syll, ent := [], l := c.l, lnk := c.lnk, priv := c.priv, mask := c.mask,
           ovp := c.ovp && c.syll, bnk := c.bnk, bsrc := c.bsrc, bdst := c.bdst, bcnt := c.bcnt,
           mlo := if c.mv && !lr then c.mlo else r.mlo, mhi := if c.mv && !lr then c.mhi else r.mhi,
           plink := none, prtop := none, stamp := some c.stamp }

/-- The context restored; a predecessor on a state stack begins its refill (09 R219, R224). -/
def retiRestore (g : Engine) (c : Ctx) : Engine :=
  let g1 := landAll g
  let g2 := applySync { g1 with r := restoreRegs g1.r c g1.lr }
  let g3 := if g.lr then { g2 with lr := false, lrCtx := none } else { g2 with bank := !g2.bank, other := none }
  let k : BitVec 2 := fld c.prevsel 0 2
  if c.prevsel.toNat < 4 then { sspPut g3 k (sspGet g3 k - 128) with refill := some k } else g3

/-- The registers of a handler that a tail chain starts (09 R220). -/
def tailRegs (r : Regs) (c : Ctx) (d : Gate) (stamp : Option Half) : Regs :=
  handlerRegs { r with bnk := c.bnk, bsrc := c.bsrc, bdst := c.bdst, bcnt := c.bcnt } d c.priv c.mask stamp

/-- The tail chain: claim, gate commit and report (10 R238, 09 R220). -/
def retiTail (s : State) (e : Eng) (c : Ctx) (h : Held) (d : Gate) (spur : Bool) : State :=
  let g := landAll (engGet s e)
  let r := tailRegs g.r c d (currentStamp s e g.r.stamp)
  let p := r.sp
  let r := if spur then { r with sp := { p with fcause := 0x20000#32, faddr := h.src.setWidth 32 } } else r
  let g1 := applySync { g with r := r, other := some { c with mv := d.savemul, depthx := BitVec.ofNat 32 (depth g.r) },
                               held := none, repq := g.repq ++ [.consumed h.src r.mask] }
  let s1 := pmuAdd (engCount (engPut s e g1) e 7) 588 1
  if spur then spurCount s1 e else s1

/-- RETI commits. -/
def retiFin (e : Eng) (s : State) (x : RetiDo) : State :=
  match x with
  | .tail c h d spur => retiTail (engCount s e 1) e c h d spur
  | .restore c => reportMask (engPut (engCount s e 1) e (retiRestore (engGet s e) c)) e

/-- RETI (05 R119). -/
def execReti (e : Eng) (o : BitVec 24) (s : State) : Out :=
  issueWith s e .long true false false (reservedFrom o 0) (fun s => retiBody s e) (retiFin e)

/-- STATE_STACK_REFILL (09 R219): the frame at the stack's pointer, forwarded from the spill buffer while it is there (09 R216). -/
def execStateStackRefill (e : Eng) (s : State) : Out :=
  let g := engGet s e
  .next (match g.refill with
    | none => s
    | some k =>
      if !eclkOn s || g.st == .stopped || g.st == .unreleased then s
      else
        let pa := sspGet g k
        let land := fun (s : State) (bs : Option (List Byte)) =>
          let g := engGet s e
          match bs.bind fun b => frameCtx (wordsOfBytes b) (engineBits s e) with
          | some c => engPut s e { g with refill := none, other := some c }
          | none => mcheckPut (engPut s e { g with refill := none }) e 4
        match g.spill.bind fun f => if f.pa = pa then some (frameBytes f.frame) else none with
        | some bs => land s (some bs)
        | none =>
          match (physRead s e pa 64).bind fun s1 a =>
              match a with
              | none => .ok s1 none
              | some x => (physRead s1 e (pa + 64) 64).bind fun s2 b => .ok s2 (b.map (x ++ ·)) with
          | .ok s' bs => land s' bs
          | .hold s' => slotsKept s s' s'
          | .inv s' => s'
          | .fault s' _ => s')

/-! ### WAITE and BRK -/

/-- An event that the engine could claim is presented (05 R121). -/
def claimable (g : Engine) : Bool := claimWaits g

/-- WAITE (05 R121): the engine sleeps unless a claimable event is presented. -/
def execWaite (e : Eng) (o : BitVec 24) (s : State) : Out :=
  issueWith s e .long true false false (reservedFrom o 0) (fun s => .ok s ()) fun s _ =>
    let s1 := finish s e .long 0 none
    let g := engGet s1 e
    if claimable g then s1 else engPut s1 e { g with st := .sleeping }

/-- BRK (05 R122). -/
def execBrk (e : Eng) (o : BitVec 24) (s : State) : Out :=
  issueWith s e .long true false false none (fun s => .ok s ()) fun s _ =>
    let i : FaultInfo := { num := 16, faddr := some (o.setWidth 32) }
    if faultHeld (engGet s e) i then s else takeFault s e i ((regGet s e).pc + 4) false

end Sys2Proof.Machine
end

