-- ==== Sys2Proof/Machine/Events.lean ====
section
/-! DEFINITION. Entries taken between instructions: events (10 R234-R236), faults (09 R206-R214), the last resort (09 R221-R223),
and the TLB invalidation a manager asks for (11 R257).
What is DEDUCED or a DESIGN CHOICE here is said in notes/assumptions, log 9. -/

namespace Sys2Proof.Machine

open Sys2Proof

/-- The engine's next instruction boundary is at hand: nothing of a word or of an `IN` is half done (04 R95, 10 R234). What has
issued and not committed is discarded with the claim, so that a second syllable that is an unresolved transfer, the anchor of
run-ahead or a waiting load leaves a position-1 resume point before it (08 R185, R190, R198; log 26). -/
def boundaryNow (s : State) (g : Engine) : Bool :=
  eclkOn s && (g.st == .running || g.st == .sleeping) && g.lrPend.isNone && !(g.io.any (·.isIn)) &&
    (atBoundary (discard g).r || speculative g || g.waits)

/-! ### EVENT_ENTRY -/

/-- A claim is taken here: a presented priority above `MASK`, no fault first (09 R209), no hold of 10 R234. -/
def claimNow (s : State) (g : Engine) : Bool :=
  let r := (discard g).r
  boundaryNow s g && !boundaryFault g && !g.gload && !(g.other.isSome && g.spill.isSome) &&
    g.held.any fun h => r.mask.ult h.prio

/-- The claim while the entry's first ten cycles run (10 R236): the target, the cycle of the last retarget, whether the target was
withdrawn by its response cycle, and the presentations held and displaced. -/
structure Claim where
  target : Held
  retarget : Nat := 0
  gone : Bool := false
  displaced : List (BitVec 9) := []
  deriving DecidableEq, Repr

/-- The Gatherer's side of a happening in cycles 1-9. -/
def claimEffect (s : State) (e : Eng) (x : EntryWhat) : State :=
  match x with
  | .present =>
    match best s e with
    | some (n, q) => if aboveHeld s e q && offered s n == some e then present s e n q else s
    | none => s
  | .withdraw => withdrawIf s e
  | .clear id => if isSource id.toNat then clearSource s id.toNat else s
  | .config id field v => if isSource id.toNat then srcChanged (srcWrite s .manager id.toNat field v) id.toNat else s
  | .wire w l => (List.finRange 64).foldl withdrawIf (wireTo s w l)

/-- What the engine takes of it: a presentation above the target becomes the target, any other is displaced; a target that is presented
no more by its response cycle, 6 or that of the last retarget, is gone. The engine holds none of them while the claim runs. -/
def claimStep (e : Eng) (p : State × Claim) (x : EntryEvent) : State × Claim :=
  let (s, c) := p
  let t := x.cycle.val + 1
  let was := (evgEng s e.val).pres
  let s1 := claimEffect s e x.what
  let g := engGet s1 e
  let s2 := engPut s1 e { g with held := none }
  let lost := was.any (·.1 == c.target.src) && (evgEng s1 e.val).pres != was
  match g.held with
  | some h =>
    if c.target.prio.ult h.prio then (pmuAdd s2 591 1, { target := h, retarget := t, displaced := c.displaced ++ [c.target.src] })
    else (s2, { c with displaced := c.displaced ++ [h.src] })
  | none => (s2, { c with gone := c.gone || (lost && decide (t ≤ 6 ∨ t = c.retarget)) })

/-- The report of cycle 10 (10 R236): CONSUMED for the target unless it was withdrawn, RELEASED for every other. -/
def claimReport (c : Claim) (m : BitVec 4) : List Report :=
  (if c.gone then [.released c.target.src] else [.consumed c.target.src m]) ++ c.displaced.map .released ++
    (if c.gone then [.mask m] else [])

/-- Reports sent, and nothing presented any more. -/
def sendReports (s : State) (e : Eng) (l : List Report) : State :=
  let g := engGet s e
  engPut s e { g with held := none, repq := g.repq ++ l }

/-- EVENT_ENTRY (10 R235, R236, 09 R205, R211-R217). -/
def execEventEntry (e : Eng) (during : List EntryEvent) (s : State) : Out :=
  let g := engGet s e
  .next (match g.held with
    | none => s
    | some h =>
      if !claimNow s g then s
      else
        let (s1, c) := during.foldl (claimStep e) (engPut s e { g with held := none }, { target := h })
        let g0 := discard (engGet s1 e)
        let r := g0.r
        let id : BitVec 9 := if c.gone then 511 else c.target.src
        if g.lr then
          let cause := if c.gone then 0x10000#32
            else if (eventGate g0 c.target.src).all (·.2) then 0x20000#32 else r.sp.fcause
          sendReports (stopLast s1 e cause r.pc none) e ((c.target.src :: c.displaced).map .released)
        else
          let gate := if c.gone then (tfind g0.gates 1023).map (·, true) else eventGate g0 c.target.src
          match gate with
          | none => sendReports (escalate s1 e 3 1023 none id r.pc r.syll (depth r)) e (claimReport c r.mask)
          | some (d, spur) =>
            if spillChk g0 d.sssel == .over then
              sendReports (escalate s1 e 2 (if spur then 1023 else 512 + c.target.src.toNat) none id r.pc r.syll (depth r)) e
                (claimReport c r.mask)
            else
              let s2 := enterGate s1 e d r.pc r.syll (depth r)
              let g2 := engGet s2 e
              let s3 := if spur then
                  spurCount (engPut s2 e { g2 with r := { g2.r with sp := { g2.r.sp with
                    fcause := if c.gone then 0x10000#32 else 0x20000#32, faddr := id.setWidth 32 } } }) e
                else s2
              sendReports s3 e (claimReport c (regGet s3 e).mask))

/-! ### FAULT_ENTRY -/

/-- The pending fault a boundary takes first (09 R209, 06 R145 item 5), and the engine without it. -/
def pendingFault (g : Engine) : Option (FaultInfo × Engine) :=
  match g.mcheck with
  | d :: rest => some ({ num := 15, detail := d }, { g with mcheck := rest })
  | [] =>
    if g.wdog then some ({ num := 17 }, { g with wdog := false })
    else match g.lbe with
      | some (l, multi) => some ({ num := 14, detail := (fld l 0 6).setWidth 8 ||| (if multi then 0x40#8 else 0),
                                   lbeaddr := some (fld l 6 32) }, { g with lbe := none })
      | none =>
        match g.longq.foldl (fun (b : Option LongFault) f => match b with
            | some x => if f.id < x.id then some f else some x
            | none => some f) none with
        | some f => some ({ num := f.num, imp := !f.precise, longpc := some f.pc,
                            faddr := if f.num = 8 then some f.pc else none }, { g with longq := g.longq.erase f })
        | none => none

/-- The boundary's pending fault taken, unless its entry must wait for the spill buffer (09 R216). -/
def boundaryEntry (s : State) (e : Eng) : State :=
  let g := engGet s e
  if !boundaryNow s g then s
  else match pendingFault g with
    | none => s
    | some (i, g1) =>
      let g2 := discard g1
      if faultHeld g2 i then s else takeFault (engPut s e g2) e i g2.r.pc g2.r.syll

/-- A word at the PC that reaches commit with a fault of its own: on a mispredicted path it never does, and it ends run-ahead. -/
def wordFault (s : State) (e : Eng) (f : State → State) : State :=
  let g := engGet s e
  if !canRun s g || !atBoundary g.r || g.wrong.isSome then s
  else if g.ra.isSome then raEnd s e
  else f s

/-- FAULT_ENTRY: a boundary's fault, a reserved word (04 R96, R97), or a failed fetch of the word at the PC (11 R258, 05 R112). -/
def execFaultEntry (e : Eng) (cause : EntryCause) (s : State) : Out :=
  .next (match cause with
    | .boundary => boundaryEntry s e
    | .illegal w => wordFault s e fun s0 => match fetchAt s0 e with
      | .hold s1 => s1
      | .inv _ => s0
      | .fault _ _ => s0
      | .ok s _ =>
        let r := regGet s e
        match wordCode w (sb1Mode s e) (s.wvl.auxsel.getLsbD e.val) (r.sp.ctlEff.getLsbD 3) with
        | some c => if faultHeld (engGet s e) (illegal r c) then s else takeFault s e (illegal r c) r.pc false
        | none => s
    | .fetch => wordFault s e fun s =>
        if !(regGet s e).ent.isEmpty then s
        else match fetchWord s e (regGet s e).pc with
        | .ok s' _ => s'
        | .hold s' => s'
        | .inv s' => s'
        | .fault s' i => if faultHeld (engGet s' e) i then s else takeFault s' e i (regGet s' e).pc (regGet s' e).syll)

/-! ### LAST_RESORT_ENTRY -/

/-- The record's bytes (09 R222). -/
def lrRecord (q : LrReq) (status : Word) (run : Ctx) (other : Option Ctx) : List Byte :=
  let how : Word := q.gate.setWidth 32 ||| (q.reason.setWidth 32 <<< 12) |||
    ((if q.reason = 2 then (13 : Word) else q.num.setWidth 32) <<< 16)
  bytesOfWords ([q.fcause, q.faddr, q.longpc, q.lbeaddr, how, q.source.setWidth 32, status, q.resume] ++ List.replicate 24 0)
    ++ frameBytes run
    ++ (match other with | some c => frameBytes { c with mv := true } | none => List.replicate 128 0)

/-- The last-resort handler's registers (09 R222, R223). -/
def lrRegs (r : Regs) (q : LrReq) (stamp : Option Half) : Regs :=
  { r with l := [], lnk := 0, pc := r.sp.lrvec, syll := false, rpt := false, ent := [], ovp := false, priv := 2, mask := 15, bnk := 0,
           bsrc := 0, bdst := 0, bcnt := 0, plink := none, prtop := none, stamp := stamp,
           sp := { r.sp with fcause := q.fcause, faddr := q.faddr, longpc := q.longpc, lbeaddr := q.lbeaddr } }

/-- LAST_RESORT_ENTRY (09 R222): once the store buffer and the spill buffer have drained, the record in the engine's owned slots, and the entry. -/
def execLastResortEntry (e : Eng) (s : State) : Out :=
  let g := engGet s e
  .next (match g.lrPend with
    | none => s
    | some q =>
      if !eclkOn s || !g.m.sb.isEmpty || g.spill.isSome then s
      else
        let base := s.wvl.lrbase.toNat + e.val * 4096
        let (sw, ok) := wordsServe s e.val (wordsOf base 384)
        if !ok then slotsBack s sw
        else
        let (g1, prev) := cancelRefill (landAll (xinvAct g))
        let s1 := engPut sw e { g1 with r := { g1.r with pc := q.resume, syll := q.syll } }
        let r := (engGet s1 e).r
        let c := ctxOf r q.resume q.syll true prev q.dx (rdepth r) (engineBits s1 e)
        let status := statusOf s1 e ||| (bitW q.syll <<< 3)
        let s2 := (spWriteRun s1 e.val base ((lrRecord q status c g1.other).map some)).1
        let g2 := engGet s2 e
        reportMask (engCount (engPut s2 e { g2 with
          lrPend := none, lr := true, lrCtx := some c, st := .running,
          r := lrRegs g2.r q (currentStamp s2 e g2.r.stamp) }) e 7) e)

/-! ### ENG_XINV_GO -/

/-- A write of `ENG.XINV` with `GO` at 1 (11 R257, R267): ignored while `GO` reads 1; a reserved OP leaves OP as it was (21 R464);
OP 0 clears at once. It acts now when the engine stands at a boundary, or runs nothing. -/
def xinvWrite (s : State) (e : Eng) (op : BitVec 2) (inst : BitVec 6) : State :=
  let g := engGet s e
  if g.xgo then s
  else
    let s1 := if op = 3 then cpxErr s else s
    let g1 := { g with xop := if op = 3 then g.xop else op, xinst := inst }
    if g1.xop = 0 then engPut s1 e g1
    else
      let g2 := { g1 with xgo := true, xwait := true }
      let atOnce := g.st == .stopped || g.st == .unreleased || boundaryNow s g
      engPut s1 e (if atOnce then xinvAct (discard g2) else g2)

/-- ENG_XINV_GO (11 R257). The view of an engine that does not exist is unmapped (21 R461). -/
def execEngXinvGo (e : Eng) (op : BitVec 2) (inst : BitVec 6) (s : State) : Out :=
  .next (if eclkOn s && engExists s e.val then xinvWrite s e op inst else s)

end Sys2Proof.Machine
end

