-- ==== Sys2Proof/Machine/Memory.lean ====
section
/-! DEFINITION. Data-space loads and stores (05 R105-R107, 03 R72, R73). -/

namespace Sys2Proof.Machine

open Sys2Proof

/-- The size of a word access: 2 bytes in SB1 mode (03 R72). -/
def accSize (sb1 : Bool) (size : Nat) : Nat := if sb1 && size == 4 then 2 else size

/-- The virtual address of an access (03 R72): in SB1 mode through `BNK` and `B1BASE`, or BANK_BOUNDS. -/
def dataAddr (s : State) (e : Eng) (sb1 : Bool) (a : Word) (n : Nat) : Ans Word :=
  let r := regGet s e
  if !sb1 then .ok s a
  else
    let a24 : BitVec 24 := r.bnk ++ fld a 0 16
    if a24.toNat + n > 16777216 then .fault s { num := 18, faddr := some (a24.setWidth 32) }
    else .ok s (r.sp.b1base + a24.setWidth 32)

/-- A loaded value as its cell (03 R73, R71). -/
def loadCell (sb1 signed : Bool) (size : Nat) (x : Nat) : Word :=
  let ext := fun (w : Nat) => if size = 1 then (if signed then (BitVec.ofNat 8 x).signExtend w else BitVec.ofNat w x)
    else if size = 2 then (if signed then (BitVec.ofNat 16 x).signExtend w else BitVec.ofNat w x) else BitVec.ofNat w x
  if sb1 then (ext 16).signExtend 32 else ext 32

/-- A load ( addr -- x ). -/
def loadOp (e : Eng) (f : Form) (size : Nat) (signed sb1ok : Bool) (s : State) : Out :=
  issue s e (formPlace f) false true sb1ok none fun s =>
    let b := sb1Mode s e
    let n := accSize b size
    (pops s e 1 1).bind fun s1 vs =>
      (dataAddr s1 e b (vs.headD 0 + formOff f n) n).bind fun s2 va =>
        ((loadRead s2 e va n).onInv fun s3 => putCells s3 e 1 [.inv]).bind fun s3 bs =>
          .ok (putCells s3 e 1 [.val (loadCell b signed n (leNat bs))]) none

/-- A store ( x addr -- ). -/
def storeOp (e : Eng) (f : Form) (size : Nat) (sb1ok : Bool) (s : State) : Out :=
  issue s e (formPlace f) false true sb1ok none fun s =>
    let b := sb1Mode s e
    let n := accSize b size
    (pops s e 2 0).bind fun s1 vs =>
      (dataAddr s1 e b (vs.headD 0 + formOff f n) n).bind fun s2 va =>
        ((dataWrite s2 e va (toBytes n ((vs[1]?).getD 0).toNat) false).onInv fun s3 => putCells s3 e 2 []).bind fun s3 _ =>
          .ok (putCells s3 e 2 []) none

/-- LDB (05 R105). -/
def execLdb (e : Eng) (f : Form) (s : State) : Out := loadOp e f 1 true true s

/-- LDBU (05 R105). -/
def execLdbu (e : Eng) (f : Form) (s : State) : Out := loadOp e f 1 false true s

/-- LDH (05 R105). -/
def execLdh (e : Eng) (f : Form) (s : State) : Out := loadOp e f 2 true false s

/-- LDHU (05 R105). -/
def execLdhu (e : Eng) (f : Form) (s : State) : Out := loadOp e f 2 false false s

/-- LDW (05 R105). -/
def execLdw (e : Eng) (f : Form) (s : State) : Out := loadOp e f 4 false true s

/-- STB (05 R105). -/
def execStb (e : Eng) (f : Form) (s : State) : Out := storeOp e f 1 true s

/-- STH (05 R105). -/
def execSth (e : Eng) (f : Form) (s : State) : Out := storeOp e f 2 false s

/-- STW (05 R105). -/
def execStw (e : Eng) (f : Form) (s : State) : Out := storeOp e f 4 true s

end Sys2Proof.Machine
end

