-- ==== Sys2Proof/Machine/Fec.lean ====
section
/-! DEFINITION. The RS(544,514) code of the Ibfel PCS over 10-bit symbols (14 R315, R318).
The field polynomial, the generator's roots and the order of a codeword's symbols are PRESUMED: those of IEEE 802.3 Clause 91, which
the rules name (log 30). -/

namespace Sys2Proof.Machine

open Sys2Proof

/-! ### Symbols: GF(2^10), an element per number below 1,024 -/

/-- α · a, where α^10 = α^3 + 1. -/
def gfNext (a : Nat) : Nat := if a < 512 then 2 * a else (2 * a - 1024) ^^^ 9

/-- a · b, by the bits of b from the highest down. -/
def gfMul (a b : Nat) : Nat :=
  (List.range 10).foldr (fun k r => gfNext r ^^^ (if b.testBit k then a else 0)) 0

/-- α^n. -/
def gfPow : Nat → Nat
  | 0 => 1
  | n + 1 => gfNext (gfPow n)

/-- 1 / a for a other than 0: a^1022, the product of a^2, a^4, … a^512. -/
def gfInv (a : Nat) : Nat :=
  ((List.range 9).foldl (fun (q : Nat × Nat) _ => let sq := gfMul q.2 q.2; (gfMul q.1 sq, sq)) (1, a)).1

/-! ### Polynomials, lowest coefficient first -/

def polyAdd : List Nat → List Nat → List Nat
  | [], b => b
  | a, [] => a
  | x :: a, y :: b => (x ^^^ y) :: polyAdd a b

def polyScale (c : Nat) (a : List Nat) : List Nat := a.map (gfMul c)

def polyMul (a b : List Nat) : List Nat := a.foldr (fun c r => polyAdd (polyScale c b) (0 :: r)) []

def polyEval (a : List Nat) (x : Nat) : Nat := a.foldr (fun c r => gfMul r x ^^^ c) 0

/-! ### Encoding -/

def fecMsg : Nat := 514
def fecParity : Nat := 30
def fecLen : Nat := fecMsg + fecParity

/-- The generator polynomial: roots α^0 to α^29. -/
def fecGen : List Nat := (List.range fecParity).foldl (fun g j => polyMul [gfPow j, 1] g) [1]

/-- The parity symbols of a message, the first sent first: the remainder of message · x^30 by the generator. -/
def fecParityOf (msg : List Nat) : List Nat :=
  let taps := (fecGen.take fecParity).reverse
  msg.foldl (fun r m =>
    let f := m ^^^ r.headD 0
    List.zipWith (· ^^^ ·) (r.drop 1 ++ [0]) (polyScale f taps)) (List.replicate fecParity 0)

/-! ### Decoding -/

/-- The values at the generator's roots of a received word, its first symbol the highest coefficient: all 0 for a codeword. -/
def syndromes (word : List Nat) : List Nat :=
  (List.range fecParity).map fun j => let a := gfPow j; word.foldl (fun r c => gfMul r a ^^^ c) 0

/-- The shortest recurrence found so far: its polynomial, the one before the last change of length, the length, the steps since, and
the discrepancy then. -/
structure Recurrence where
  cur : List Nat := [1]
  prev : List Nat := [1]
  len : Nat := 0
  gap : Nat := 1
  disc : Nat := 1

/-- Syndrome n joins the recurrence. -/
def Recurrence.next (syn : List Nat) (q : Recurrence) (n : Nat) : Recurrence :=
  let d := (List.range (q.len + 1)).foldl (fun d i => d ^^^ gfMul ((q.cur[i]?).getD 0) ((syn[n - i]?).getD 0)) 0
  if d = 0 then { q with gap := q.gap + 1 }
  else
    let c := polyAdd q.cur (List.replicate q.gap 0 ++ polyScale (gfMul d (gfInv q.disc)) q.prev)
    if 2 * q.len ≤ n then { cur := c, prev := q.cur, len := n + 1 - q.len, gap := 1, disc := d } else { q with cur := c, gap := q.gap + 1 }

/-- The formal derivative. -/
def polyDeriv (a : List Nat) : List Nat := (a.drop 1).zipIdx.map fun q => if q.2 % 2 = 0 then q.1 else 0

/-- Up to 15 symbol errors corrected: the word, and the places of the symbols corrected; none for an uncorrectable word. -/
def fecDecode (word : List Nat) : Option (List Nat × List Nat) :=
  let syn := syndromes word
  if syn.all (· == 0) then some (word, [])
  else
    let q := (List.range fecParity).foldl (Recurrence.next syn) {}
    let places := (List.range fecLen).filter fun i => polyEval q.cur (gfPow ((1023 - (fecLen - 1 - i)) % 1023)) == 0
    let num := (polyMul syn q.cur).take fecParity
    let den := polyDeriv q.cur
    let fix := fun (i : Nat) =>
      let inv := gfPow ((1023 - (fecLen - 1 - i)) % 1023)
      gfMul (gfPow (fecLen - 1 - i)) (gfMul (polyEval num inv) (gfInv (polyEval den inv)))
    let fixed := word.zipIdx.map fun c => if places.contains c.2 then c.1 ^^^ fix c.2 else c.1
    if q.len ≤ 15 ∧ places.length = q.len ∧ (syndromes fixed).all (· == 0) = true then some (fixed, places) else none

end Sys2Proof.Machine
end

