-- ==== Sys2Proof/Machine/Pcs.lean ====
section
/-! DEFINITION. The PCS of an Ibfel port: blocks, scrambling, codewords, alignment markers and striping (14 R312-R318).
What is DEDUCED, PRESUMED or a DESIGN CHOICE here is said in notes/assumptions, log 30. -/

namespace Sys2Proof.Machine

open Sys2Proof

/-! ### Strings of bits -/

def Bits.append (a b : Bits) : Bits := ⟨a.n + b.n, a.v + b.v * 2 ^ a.n⟩
def Bits.take (a : Bits) (k : Nat) : Bits := ⟨min k a.n, a.v % 2 ^ k⟩
def Bits.drop (a : Bits) (k : Nat) : Bits := ⟨a.n - k, a.v / 2 ^ k⟩

/-- The string cut into k pieces of w bits, as numbers. -/
def Bits.cut (a : Bits) (w k : Nat) : List Nat := (List.range k).map fun i => a.v / 2 ^ (w * i) % 2 ^ w

/-- Pieces of w bits back to back. -/
def packed (w : Nat) (l : List Nat) : Bits := ⟨w * l.length, l.foldr (fun c r => c + r * 2 ^ w) 0⟩

/-! ### Widths and markers (14 R315, R316) -/

/-- Lanes of a width code. -/
def widthLanes (w : BitVec 2) : Nat := if w = 0 then 8 else if w = 1 then 4 else 2

/-- The physical transmit lanes of a lane set, logical lane 0 first. -/
def lanesOf (set : BitVec 8) : List Nat := (List.range 8).filter fun k => set.getLsbD k

/-- An alignment marker. -/
def markerOf (lane : BitVec 3) (rxok : BitVec 8) (choice : BitVec 5) (train ready : Bool) (device : BitVec 12) (amcnt : BitVec 8) :
    BitVec 120 :=
  (0#28) ++ amcnt ++ device ++ (0#1) ++ BitVec.ofBool ready ++ BitVec.ofBool train ++ choice ++ rxok ++ (0#1) ++ (~~~lane) ++ (0#1) ++ lane ++
    0xC47A13B95E06#48

/-- The symbols of an AM codeword that its markers fill: lane j's m-th at j + W · m. -/
def markerSymbols (lanes : List Nat) (mark : Nat → BitVec 120) : List Nat :=
  (List.range 12).flatMap fun m => lanes.map fun k => (fld (mark k) (10 * m) 10).toNat

/-! ### The scrambler (14 R314) -/

/-- 64 bits through the scrambler: x^58 + x^39 + 1; bit 0 of the register is the last bit sent. -/
def scramble (r : BitVec 58) (d : Nat) : Nat × BitVec 58 :=
  (List.range 64).foldl (fun (q : Nat × BitVec 58) k =>
    let b := (d.testBit k ^^ q.2.getLsbD 38) ^^ q.2.getLsbD 57
    (q.1 + (if b then 2 ^ k else 0), (q.2.extractLsb' 0 57) ++ BitVec.ofBool b)) (0, r)

/-- 64 received bits descrambled; bit 0 of the register is the last bit received. -/
def descramble (r : BitVec 58) (d : Nat) : Nat × BitVec 58 :=
  (List.range 64).foldl (fun (q : Nat × BitVec 58) k =>
    let b := (d.testBit k ^^ q.2.getLsbD 38) ^^ q.2.getLsbD 57
    (q.1 + (if b then 2 ^ k else 0), (q.2.extractLsb' 0 57) ++ BitVec.ofBool (d.testBit k))) (0, r)

/-! ### Transmitting blocks (14 R314, R317) -/

def syncData : Nat := 2
def syncControl : Nat := 1
def blockIdle : Nat := 0x1E
def blockFrame : Nat := 0x5A

/-- A block joins the stream, its payload scrambled. -/
def sendBlock (x : PcsTx) (sync payload : Nat) : PcsTx :=
  let q := scramble x.scr payload
  { x with scr := q.2, acc := x.acc.append ⟨66, sync + 4 * q.1⟩ }

/-- The bytes of a flit: its check word first. -/
def flitBytes (f : TxFlit) : List Byte := toBytes 4 f.fchk.toNat ++ lineBytes f.data 0 64

/-- The FRAME block of the next transmit frame. -/
def frameBlock (x : PcsTx) (w : BitVec 2) : Nat := blockFrame + 2 ^ 8 * x.frame.toNat + 2 ^ 32 * w.toNat

/-- At a pair boundary: two flits in 17 data blocks, after a FRAME block where the first is of slot 0; or one IDLE block. -/
def sendPair (x : PcsTx) (w : BitVec 2) : PcsTx :=
  match x.fifo with
  | a :: b :: r =>
    let y := if a.slot0 then { sendBlock x syncControl (frameBlock x w) with frame := x.frame + 1 } else x
    { ((⟨1088, leNat (flitBytes a ++ flitBytes b)⟩ : Bits).cut 64 17).foldl (fun y d => sendBlock y syncData d) y with fifo := r }
  | _ => sendBlock x syncControl blockIdle

/-- Blocks until there are n bits. -/
def fillBits (w : BitVec 2) (n : Nat) : Nat → PcsTx → PcsTx
  | 0, x => x
  | fuel + 1, x => if n ≤ x.acc.n then x else fillBits w n fuel (sendPair x w)

/-! ### Codewords and lanes (14 R315, R316) -/

/-- A codeword over `lanes`: markers where it is an AM codeword, block data, parity; lane j takes symbols j, j + W, …. -/
def sendCodeword (x : PcsTx) (w : BitVec 2) (lanes : List Nat) (mark : Option (Nat → BitVec 120)) : PcsTx :=
  let head := match mark with | some f => markerSymbols lanes f | none => []
  let rest := fecMsg - head.length
  let y := fillBits w (10 * rest) 80 x
  let msg := head ++ y.acc.cut 10 rest
  let word := msg ++ fecParityOf msg
  let n := lanes.length
  let part := fun (j : Nat) => packed 10 ((word.zipIdx.filter fun c => c.2 % n == j).map (·.1))
  { y with acc := y.acc.drop (10 * rest)
           am := if mark.isSome then x.am + 1 else x.am
           out := lanes.zipIdx.foldl (fun t q => tset {} t q.1 ((tget {} t q.1).append (part q.2))) y.out }

/-- Each lane sends its next 64 bits. -/
def sendWords (x : PcsTx) (lanes : List Nat) : PcsTx :=
  { x with txd := lanes.foldl (fun t k => tset 0 t k (BitVec.ofNat 64 ((tget {} x.out k).take 64).v)) []
           out := lanes.foldl (fun t k => tset {} t k ((tget {} t k).drop 64)) x.out }

/-- The stream goes over to the chosen width: blocks begin afresh, with one IDLE block. -/
def goLive (x : PcsTx) : PcsTx := sendBlock { x with live := true, acc := {}, cw := 0, frame := 0 } syncControl blockIdle

/-! ### Receiving (14 R313, R314, R318) -/

/-- n bits of a lane's stream from position q, when they have come and are still held. -/
def streamAt (x : PcsRx) (k q n : Nat) : Option Nat :=
  let b := tget {} x.inb k
  let top := 64 * tget 0 x.words k
  if top - b.n ≤ q ∧ q + n ≤ top then some (b.v / 2 ^ (q - (top - b.n)) % 2 ^ n) else none

/-- When the bit at position q of a lane's stream came, in bit times. -/
def timeAt (x : PcsRx) (k q : Nat) : Option Nat :=
  if tget 0 x.words k ≤ q / 64 then none
  else ((tget [] x.seen k)[tget 0 x.words k - 1 - q / 64]?).map fun c => 64 * c + q % 64

/-- The alignment marker at position q of a lane's stream (14 R316): its own symbols, which lie back to back there. -/
def markerAt (x : PcsRx) (k q : Nat) : Option (BitVec 120) := (streamAt x k q 120).map (BitVec.ofNat 120)

/-- How many bits of a stream are held before the next codeword, and how many without one (log 30). -/
def keptBits : Nat := 8192

/-- A word joins a lane's stream. -/
def takeStream (x : PcsRx) (k : Nat) (w : Bits) : PcsRx :=
  let n := tget 0 x.words k + 1
  let b := (tget {} x.inb k).append w
  let from_ := (tget (64 * n) x.start k) - keptBits
  { x with words := tset 0 x.words k n
           seen := tset [] x.seen k ((x.cyc :: tget [] x.seen k).take 256)
           inb := tset {} x.inb k (b.drop (from_ - (64 * n - b.n))) }

/-- One PCLKn cycle at the receive pins: words are taken from the lanes with `RXVALID` 1. -/
def takePins (x : PcsRx) (c : (BitVec 8 × BitVec 8) × BitVec 512) : PcsRx :=
  let word := fun (k : Nat) => (fld c.2 (64 * k) 64).toNat
  let y := (List.range 8).foldl (fun x k => if c.1.1.getLsbD k then takeStream x k ⟨64, word k⟩ else x) x
  { y with rxd := c.2, valid := c.1.1, sig := c.1.2, cyc := x.cyc + 1
           low := (List.range 8).foldl (fun t k => tset 0 t k (if c.1.2.getLsbD k then 0 else tget 0 x.low k + 1)) x.low }

/-- Framing breaks until the next FRAME block: the flit being received is bad. -/
def breakFrame (x : PcsRx) : PcsRx := { x with framed := false, partBad := true }

/-- A byte of a flit. -/
def takeByte (x : PcsRx) (b : Byte) (bad : Bool) : PcsRx :=
  let l := x.part ++ [b]
  let spoilt := x.partBad || bad || !x.framed
  if l.length < 68 then { x with part := l, partBad := spoilt }
  else { x with part := [], partBad := false, slot := min 513 (x.slot + 1)
                flits := x.flits ++ [⟨spoilt, BitVec.ofNat 32 (leNat (l.take 4)), toLine 0 (l.drop 4)⟩] }

/-- The part of a flit that a break has left is a bad flit. -/
def cutFlit (x : PcsRx) : PcsRx :=
  if x.part.isEmpty then x else { x with flits := x.flits ++ [⟨true, BitVec.ofNat 32 (leNat (x.part.take 4)), toLine 0 (x.part.drop 4)⟩] }

/-- A control block, by its type and bytes 1-7. -/
def takeControl (x : PcsRx) (kind rest : Nat) : PcsRx :=
  if kind = blockIdle then (if rest = 0 then x else breakFrame x)
  else if kind = blockFrame then
    if 2 ^ 32 ≤ rest ∨ (x.framed ∧ (x.slot ≠ 512 ∨ x.part ≠ [])) then breakFrame x
    else { cutFlit x with framed := true, slot := 0, part := [], partBad := false }
  else breakFrame x

/-- A block of 66 bits; `bad k` says that byte k of its payload lay in an uncorrectable codeword. -/
def takeBlock (x : PcsRx) (b : Nat) (bad : Nat → Bool) : PcsRx :=
  let q := descramble x.scr (b / 4)
  let y := { x with scr := q.2 }
  if b % 4 = syncData then
    (List.range 8).foldl (fun y k => takeByte y (BitVec.ofNat 8 (q.1 / 2 ^ (8 * k))) (bad k)) y
  else if b % 4 = syncControl then takeControl y (q.1 % 256) (q.1 / 256)
  else breakFrame y

/-- The block bits of a codeword. -/
def takeBits (x : PcsRx) (b : Bits) (bad : Bool) : PcsRx :=
  let a := x.acc.append b
  let n := a.n / 66
  let y := (a.cut 66 n).zipIdx.foldl (fun y q =>
    takeBlock y q.1 fun k =>
      let o := 66 * q.2 + 2 + 8 * k
      (x.accBad && decide (o < x.acc.n)) || (bad && decide (x.acc.n ≤ o + 7))) x
  { y with acc := a.drop (66 * n), accBad := bad }

/-- The bits that a codeword takes on each lane of a width. -/
def laneBits (n : Nat) : Nat := 10 * (fecLen / n)

/-- The next codeword, its symbols gathered from the streams of the physical lanes, logical lane 0 first; none until every lane has
it: the deskew (14 R318). -/
def gather (x : PcsRx) (phys : List Nat) : Option (List Nat) :=
  let n := phys.length
  let per := fecLen / n
  let cols := phys.filterMap fun k => ((tfind x.start k).bind fun q => streamAt x k q (laneBits n)).map fun v =>
    (⟨laneBits n, v⟩ : Bits).cut 10 per
  if n = 0 ∨ cols.length ≠ n then none
  else some ((List.range per).flatMap fun m => cols.map fun col => (col[m]?).getD 0)

/-- The streams after that codeword. -/
def dropCodeword (x : PcsRx) (phys : List Nat) : PcsRx :=
  { x with cw := x.cw + 1, start := phys.foldl (fun t k => tput (tdel t k) k (tget 0 t k + laneBits phys.length)) x.start }

/-- The block bits of a codeword's message: those after the markers of an AM codeword. -/
def blockBits (word : List Nat) (am : Bool) (n : Nat) : Bits :=
  packed 10 ((word.take fecMsg).drop (if am then 12 * n else 0))

end Sys2Proof.Machine
end

