-- ==== Sys2Proof/Machine/Ibfel.lean ====
section
/-! DEFINITION. The Ibfel ports: receiving, the link layer, transmission, training and width (14 R313-R333, R338, R344).
What is DEDUCED or a DESIGN CHOICE here is said in notes/assumptions, log 15, 16 and 30. -/

namespace Sys2Proof.Machine

open Sys2Proof

/-- The port's clocks run. -/
def portOn (s : State) (p : PortNo) : Bool := fclkOn s && clkOn s (.pclk p)

/-- A command at a port that happens in the states that `b` names. -/
def atPort (s : State) (p : PortNo) (b : Ibf → Bool) (f : Ibf → State) : Host.Outcome State Fault Refusal :=
  let x := ibfGet s p.val
  when (portOn s p && b x) s (f x)

def isActive (x : Ibf) : Bool := x.st == .active

/-! ### Entering TRAIN (14 R320, R321) -/

/-- Training starts afresh: no lane locked, no choice, both streams cut. -/
def enterTrain (s : State) (p : Nat) : State :=
  let s1 := portState (leaveActive s p) p .train
  let x := ibfGet s1 p
  ibfPut s1 p { x with phys := [], taken := none, choice := 3, held := 0, ready := false, planFor := none, trainAt := some s.tmr.gtime
                       badrun := 0, endAm := none }

/-- A protocol error that retrains the port (14 R320, R329, R330). -/
def protoTrain (s : State) (p : Nat) : State := enterTrain (ibfErr s p eProto) p

/-! ### Codewords (14 R313, R318, R323) -/

/-- One PCLKn cycle at the receive pins; in ACTIVE, a lane of the set whose physical lane has had `RXSIG` low for 8 cycles fails. -/
def pinCycle (x : Ibf) (c : (BitVec 8 × BitVec 8) × BitVec 512) : Ibf :=
  let y := { x with prx := takePins x.prx c }
  { y with bad := x.phys.foldl (fun b q =>
      if isActive x && x.lanes.getLsbD q.2.lane.val && decide (8 ≤ tget 0 y.prx.low q.1) then setBit b q.2.lane.val true else b) y.bad }

/-- The physical receive lanes of the lane set, logical lane 0 first. -/
def setPhys (x : Ibf) : List Nat :=
  (lanesOf x.lanes).filterMap fun l => (x.phys.find? fun q => q.2.lane.val == l).map (·.1)

/-- A corrected symbol is counted on the physical lane that carried it, and in the window when `IBF.LANEWIN` runs one. -/
def countSymbol (x : Ibf) (k : Nat) : Ibf :=
  { x with lanecnt := tset 0 x.lanecnt k (satAdd (tget 0 x.lanecnt k) 1)
           lanewn := if x.lanewin = 0 then x.lanewn else tset 0 x.lanewn k (satAdd (tget 0 x.lanewn k) 1) }

/-- The next codeword of a port in ACTIVE, once every lane of its set has it. -/
def decodeCodeword (s : State) (p : Nat) : State :=
  let x := ibfGet s p
  let phys := setPhys x
  let n := phys.length
  if n ≠ widthLanes x.width then s
  else match gather x.prx phys with
    | none => s
    | some word =>
      let am := x.prx.cw % 1024 == 0
      let rest := dropCodeword x.prx phys
      match fecDecode word with
      | some (good, places) =>
        ibfPut s p ((places.map fun i => (phys[i % n]?).getD 0).foldl countSymbol
          { x with prx := takeBits rest (blockBits good am n) false, badrun := 0 })
      | none =>
        let s1 := ibfPut s p { x with prx := takeBits rest (blockBits word am n) true, uncorr := satAdd x.uncorr 1, badrun := x.badrun + 1 }
        if x.badrun = 3 then enterTrain s1 p else s1

/-- CODEWORD_DECODE (14 R313, R318): PCLKn cycles at the receive pins, each with `RXVALID` and `RXSIG` in `sigs` and the lanes' words in
`rxd`, then at most one codeword. -/
def execCodewordDecode (p : PortNo) (sigs : List (BitVec 8 × BitVec 8)) (rxd : List (BitVec 512)) (s : State) :
    Host.Outcome State Fault Refusal :=
  atPort s p (fun _ => true) fun x =>
    let s1 := ibfPut s p.val ((sigs.zip rxd).foldl pinCycle x)
    if isActive x then decodeCodeword s1 p.val else s1

/-! ### Flits (14 R325-R328) -/

/-- The check word of a payload under a sequence and a class (14 R325). -/
def fchkOf (seq : BitVec 12) (cls : Nat) (d : LineData) : Word :=
  crc32c (toBytes 2 (seq.toNat + 4096 * cls) ++ lineBytes d 0 64)

/-- The class of a flit, when its check word passes (14 R326). -/
def classOfFlit (r : BitVec 12) (fchk : Word) (d : LineData) : Option Nat :=
  if fchkOf 0 5 d = fchk then some 5 else (List.range 5).find? fun c => fchkOf r c d == fchk

/-- A link control flit with a reserved CTYPE or bit (14 R327). -/
def ctlBad (d : LineData) : Bool :=
  let t := flitNat d 0 1
  t == 0 || decide (5 ≤ t) || (if t = 4 then decide (2 ≤ flitNat d 1 1) else flitNat d 1 1 != 0) ||
    [2, 4, 6, 8, 10, 12, 14].any (fun o => decide (4096 ≤ flitNat d o 2)) || flitNat d 24 40 != 0 ||
    (t != 4 && flitNat d 16 8 != 0)

/-- The receive buffer's places (14 R332). -/
def rxSize (v : Nat) : Nat := if v < 2 then 96 else if v = 2 then 48 else 16

/-- A place of lane v is free again. -/
def rxFreed (x : Ibf) (v : Nat) : Ibf := { x with freed := tset 0 x.freed v (tget 0 x.freed v + 1) }

/-- A journal flit with a reserved JTYPE, a reserved bit that is 1, or an NENT outside its range (15 R353). -/
def journalBad (d : LineData) : Bool :=
  let t := flitNat d 0 1
  let n := flitNat d 1 1
  let fl := flitNat d 2 1
  let unused := fun e => decide (n ≤ e) && flitNat d (16 + 16 * e) 16 != 0
  flitNat d 3 1 != 0 || decide (4096 ≤ flitNat d 10 2) || flitNat d 12 4 != 0 ||
    (if t = 1 ∨ t = 4 then n == 0 || decide (3 < n) || decide (2 ≤ fl) || (List.range 3).any unused
     else if t = 2 then n != 0 || fl != 0 || flitNat d 20 44 != 0
     else if t = 3 then n != 0 || decide (32 ≤ fl) || fl % 2 != 0 || flitNat d 24 40 != 0
     else if t = 5 then n != 1 || decide (2 ≤ fl) || decide (64 ≤ flitNat d 16 1) || flitNat d 17 1 != 0 || flitNat d 20 44 != 0
     else true)

/-- A bit of `TWN.ERR` set: source 346 when it was 0 and enabled (15 R366). -/
def twnErr (s : State) (k : Nat) : State :=
  let t := s.twn
  raiseIf (!t.err.getLsbD k && t.even.getLsbD k) (fresh { s with twn := { t with err := setBit t.err k true } } 0x38008 k) 346

/-- An accepted journal flit (15 R347, R353, R358): it counts for the heartbeat on the twin port, and stays there for the twin engine
when it is well formed. -/
def journalFlit (s : State) (p : Nat) (d : LineData) : State :=
  let x := ibfGet s p
  if s.twn.port.val ≠ p then twnErr (ibfPut s p (rxFreed x 2)) 7
  else
    let s1 := { s with twn := { s.twn with accepted := true } }
    if journalBad d then twnErr (ibfPut s1 p (rxFreed x 2)) 8
    else ibfPut { s1 with twn := { s1.twn with peer := BitVec.ofNat 12 (flitNat d 10 2), peerv := true } } p
      { x with rx := tset [] x.rx 2 (tget [] x.rx 2 ++ [.flit d]) }

/-- An accepted data flit of lane v joins the receive buffer; a management message for this device with a reserved MOP is discarded
(14 R341). -/
def dataFlit (s : State) (p v : Nat) (d : LineData) : State :=
  let x := ibfGet s p
  if v = 2 then journalFlit s p d
  else if v = 3 && isOwn s (flitDest 3 d) && !mopKnown d then ibfErr (ibfPut s p (rxFreed x 3)) p eProto
  else
    let left := tget 0 x.rxLeft v
    ibfPut s p { x with rx := tset [] x.rx v (tget [] x.rx v ++ [.flit d])
                        rxLeft := tset 0 x.rxLeft v (if left = 0 then flitsOf v d - 1 else left - 1) }

/-- A flit of 68 bytes that passed its check is counted (18 R409). -/
def countRx (s : State) (p : Nat) : State := meterAdd (pmuAdd s (523 + 2 * p) 68) (9 + p) 68

/-- A sequenced flit of class c (14 R326 steps 4, 5; R328). -/
def sequenced (s : State) (p c : Nat) (d : LineData) : State :=
  let x := ibfGet s p
  if x.naksent then s
  else if 1 ≤ (x.e - x.rseq).toNat ∧ (x.e - x.rseq).toNat ≤ 511 then
    ibfPut s p { x with dupflit := satAdd x.dupflit 1, rseq := x.rseq + 1 }
  else if x.e ≠ x.rseq then s
  else
    let y := { x with e := x.e + 1, rseq := x.rseq + 1 }
    if c = 4 then
      if flitNat d 0 1 = 1 then ibfPut s p { y with mark := some d } else ibfErr (ibfPut s p y) p eProto
    else dataFlit (ibfPut s p y) p c d

/-- The flit that the PCS hands over next (14 R314, R318); of a bad one the bytes say nothing. -/
def flitNext (x : Ibf) (broken : Bool) (fchk : Word) (payload : LineData) : Bool :=
  x.prx.flits.head?.any fun f => f.bad == broken && (broken || (f.fchk == fchk && f.data == payload))

/-- FLIT_RECEIVE (14 R326): the flit that the PCS hands over, while no marker or link control flit taken before waits for its own
command (log 15). -/
def execFlitReceive (p : PortNo) (broken : Bool) (fchk : Word) (payload : LineData) (s : State) :
    Host.Outcome State Fault Refusal :=
  atPort s p (fun x => isActive x && x.mark.isNone && x.ctl.isNone && flitNext x broken fchk payload) fun y =>
    let x := { y with prx := { y.prx with flits := y.prx.flits.drop 1 } }
    let s := ibfPut s p.val x
    match (if broken then none else classOfFlit x.rseq fchk payload) with
    | none =>
      if x.naksent then s
      else ibfErr (ibfPut s p.val { x with badflit := satAdd x.badflit 1, naksent := true }) p.val eLink
    | some c =>
      let s1 := countRx s p.val
      if c = 5 then
        if ctlBad payload then ibfErr s1 p.val eProto else ibfPut s1 p.val { ibfGet s1 p.val with ctl := some payload }
      else sequenced s1 p.val c payload

/-- ABORT (14 R336): the accepted marker ends the message in progress on its lane. -/
def execAbortMark (p : PortNo) (s : State) : Host.Outcome State Fault Refusal :=
  atPort s p (·.mark.isSome) fun x =>
    let v := flitNat (x.mark.getD 0) 1 1 % 4
    let y := { x with mark := none, aborts := satAdd x.aborts 1 }
    ibfPut s p.val (if tget 0 x.rxLeft v = 0 then y
      else { y with rxLeft := tset 0 y.rxLeft v 0, rx := tset [] y.rx v (tget [] y.rx v ++ [.abort]) })

/-! ### Acknowledgement and replay (14 R329-R331) -/

/-- The sequence of the oldest entry of the retry buffer, or TXNEXT. -/
def oldest (x : Ibf) : BitVec 12 := match x.retry with | r :: _ => r.seq | [] => x.txnext

/-- An RXNEXT lies between the oldest entry and TXNEXT. -/
def inRetry (x : Ibf) (n : BitVec 12) : Bool := decide ((n - oldest x).toNat ≤ x.retry.length)

/-- Entries below n are freed. -/
def freeRetry (x : Ibf) (now : BitVec 64) (n : BitVec 12) : Ibf :=
  if n = oldest x then x
  else { x with retry := x.retry.drop (n - oldest x).toNat, advAt := now, tries := 0 }

/-- The credit counts of a link control flit (14 R332). -/
def takeCredits (x : Ibf) (d : LineData) : Ibf :=
  { x with cred := (List.range 4).foldl (fun t v => tset 0 t v (BitVec.ofNat 12 (flitNat d (8 + 2 * v) 2))) x.cred }

/-- What every link control flit carries: RXNEXT and credits. One whose RXNEXT is out of range retrains the port. -/
def control (s : State) (p : Nat) (f : State → State) : State :=
  let x := ibfGet s p
  match x.ctl with
  | none => s
  | some d =>
    let n := BitVec.ofNat 12 (flitNat d 2 2)
    let y := { x with ctl := none }
    if !inRetry x n then protoTrain (ibfPut s p y) p
    else f (ibfPut s p (takeCredits (freeRetry y s.tmr.gtime n) d))

/-- The waiting link control flit is of a type. -/
def ctlIs (t : Nat) (x : Ibf) : Bool := x.ctl.any fun d => flitNat d 0 1 == t

/-- A replay from the sequence n: the REPLAY waits for its slot; one too many without an advance retrains the port. A NAK in the
FCLK cycle of a timeout's replay only says where that one replay starts (14 R334). -/
def startReplay (s0 : State) (p : Nat) (n : BitVec 12) : State :=
  let s := { s0 with cyc := { s0.cyc with replay := s0.cyc.replay ||| BitVec.ofNat 4 (2 ^ p) } }
  let x := ibfGet s p
  if s0.cyc.replay.getLsbD p && x.replay.isSome then ibfPut s p { x with replay := some n }
  else if x.retrymax ≠ 0 ∧ x.retrymax.toNat ≤ x.tries then enterTrain (ibfErr s p eRetrymax) p
  else ibfErr (ibfPut s p { x with replay := some n, resend := none, replays := satAdd x.replays 1, tries := x.tries + 1 }) p eReplay

/-- CONTROL_STATUS (14 R327, R329). -/
def execControlStatus (p : PortNo) (s : State) : Host.Outcome State Fault Refusal :=
  atPort s p (ctlIs 1) fun _ => control s p.val id

/-- CONTROL_NAK (14 R330): one whose START was replayed less than RTMO before is ignored. -/
def execControlNak (p : PortNo) (s : State) : Host.Outcome State Fault Refusal :=
  atPort s p (ctlIs 2) fun x =>
    let n := BitVec.ofNat 12 (flitNat (x.ctl.getD 0) 2 2)
    let recent := x.replay == some n ||
      (x.replayFor == some n && decide ((s.tmr.gtime - x.replayAt).toNat < x.rtmo.toNat))
    control s p.val fun s1 => if recent then s1 else startReplay s1 p.val n

/-- CONTROL_REPLAY (14 R330). -/
def execControlReplay (p : PortNo) (s : State) : Host.Outcome State Fault Refusal :=
  atPort s p (ctlIs 3) fun x =>
    let n := BitVec.ofNat 12 (flitNat (x.ctl.getD 0) 4 2)
    control s p.val fun s1 =>
      let y := ibfGet s1 p.val
      if (y.e - n).toNat ≤ 512 then ibfPut s1 p.val { y with rseq := n, naksent := false } else protoTrain s1 p.val

/-- The peer's INIT empties the retry buffer (14 R333): its flits are lost, messages in progress are abandoned. -/
def restart (s : State) (p : Nat) (n : BitVec 12) : State :=
  let x := ibfGet s p
  countLost (ibfPut s p { x with retry := [], resend := none, replay := none, txnext := n, txLeft := []
                                 txSkip := x.txLeft.foldl (fun t e => tset 0 t e.1 (tget 0 t e.1 + e.2)) x.txSkip }) p x.retry.length

/-- The first INIT since ACTIVE was entered. The flits that are sent again from its RXNEXT on count as sent since INIT, once (14 R332;
log 15). -/
def firstInit (s : State) (p : Nat) (d : LineData) : State :=
  let x := ibfGet s p
  let n := BitVec.ofNat 12 (flitNat d 2 2)
  let init := (List.range 4).foldl (fun t v => tset 0 t v (BitVec.ofNat 12 (flitNat d (16 + 2 * v) 2))) x.initcred
  let y := takeCredits { x with ctl := none, initSeen := true, initcred := init, sent := [], peerv := true
                                peer := BitVec.ofNat 12 (flitNat d 6 2) } d
  if flitNat d 1 1 = 1 || !inRetry x n then restart (ibfPut s p y) p n
  else
    let z := freeRetry y s.tmr.gtime n
    let again := fun v => BitVec.ofNat 12 (z.retry.countP fun r => r.cls.toNat == v)
    ibfPut s p { z with sent := (List.range 4).foldl (fun t v => tset 0 t v (again v)) z.sent
                        resend := if z.retry.isEmpty then none else some n, replay := none }

/-- CONTROL_INIT (14 R333): a later one only acknowledges. -/
def execControlInit (p : PortNo) (s : State) : Host.Outcome State Fault Refusal :=
  atPort s p (ctlIs 4) fun x => if x.initSeen then control s p.val id else firstInit s p.val (x.ctl.getD 0)

/-- RETRY_TIMEOUT (14 R331). -/
def execRetryTimeout (p : PortNo) (s : State) : Host.Outcome State Fault Refusal :=
  let since := fun (x : Ibf) => min (s.tmr.gtime - x.advAt).toNat (s.tmr.gtime - x.replayAt).toNat
  atPort s p (fun x => isActive x && !x.retry.isEmpty && x.rtmo != 0 && x.replay.isNone && decide (x.rtmo.toNat ≤ since x)) fun x =>
    startReplay s p.val (oldest x)

/-! ### Transmission (02 R43; 14 R325, R330, R332, R333) -/

/-- Credits available on lane v (14 R332). -/
def creditsOf (x : Ibf) (v : Nat) : BitVec 12 := tget 0 x.initcred v + tget 0 x.cred v - tget 0 x.sent v

/-- The rest of an abandoned message leaves the head of its queue unsent (14 R333). -/
def skipLane (v : Nat) : Nat → Ibf → Ibf
  | 0, x => x
  | fuel + 1, x =>
    let n := tget 0 x.txSkip v
    if n = 0 then x
    else match tget [] x.tx v with
      | [] => x
      | f :: r =>
        let y := { x with tx := tset [] x.tx v r }
        match f with
        | .abort => { y with txSkip := tset 0 y.txSkip v 0 }
        | .flit _ => skipLane v fuel { y with txSkip := tset 0 y.txSkip v (n - 1) }

/-- A new flit of lane v may be sent: one is ready, a flit that needs credit has it, the retry buffer has room, no replay runs. -/
def laneReady (x : Ibf) (v : Nat) : Bool :=
  x.initSeen && x.replay.isNone && x.resend.isNone && decide (x.retry.length < 512) &&
    match tget [] x.tx v with
    | [] => false
    | .abort :: _ => true
    | .flit _ :: _ => creditsOf x v != 0

/-- A marker's payload (14 R328): ABORT of a lane. -/
def abortFlit (v : Nat) : LineData := toLine 0 [1, BitVec.ofNat 8 v]

/-- The lane of a retry entry. -/
def entryLane (r : RetryEnt) : Nat := if r.cls = 4 then flitNat r.data 1 1 % 4 else r.cls.toNat

/-- The entry that a replay resends next. -/
def resendNext (x : Ibf) : Option RetryEnt :=
  match x.resend with
  | none => none
  | some n =>
    let k := (n - oldest x).toNat
    if k < x.retry.length then x.retry[k]? else if 2048 ≤ k then x.retry.head? else none

/-- A flit given to the PCS: 68 bytes (14 R325, 18 R409); `frameSlot` is the slot after its own already. -/
def onWire (s : State) (p : Nat) (seq : BitVec 12) (cls : Nat) (d : LineData) : State :=
  let s1 := meterAdd (pmuAdd s (522 + 2 * p) 68) (5 + p) 68
  let x := ibfGet s1 p
  ibfPut s1 p { x with ptx := { x.ptx with fifo := x.ptx.fifo ++ [⟨fchkOf seq cls d, d, x.frameSlot == 1⟩] } }

/-- The first new flit of lane v is sent. -/
def sendNew (s : State) (p v : Nat) : State :=
  let x := ibfGet s p
  match tget [] x.tx v with
  | [] => s
  | f :: r =>
    let d := match f with | .abort => abortFlit v | .flit d => d
    let cls := match f with | .abort => 4 | .flit _ => v
    let left := tget 0 x.txLeft v
    let x1 := { x with tx := tset [] x.tx v r, txnext := x.txnext + 1, retry := x.retry ++ [(⟨x.txnext, BitVec.ofNat 3 cls, d⟩ : RetryEnt)] }
    let x2 := match f with
      | .abort => { x1 with txLeft := tset 0 x1.txLeft v 0 }
      | .flit d => { x1 with sent := tset 0 x1.sent v (tget 0 x1.sent v + 1)
                             txLeft := tset 0 x1.txLeft v (if left = 0 then flitsOf v d - 1 else left - 1) }
    onWire (ibfPut s p x2) p x.txnext cls d

/-- An entry of the retry buffer is sent again; the replay ends after the last. -/
def sendAgain (s : State) (p : Nat) (r : RetryEnt) : State :=
  let x := ibfGet s p
  let n := r.seq + 1
  onWire (ibfPut s p { x with resend := if n = x.txnext then none else some n }) p r.seq r.cls.toNat r.data

/-- A link control flit's payload. -/
def ctlFlit (x : Ibf) (t fl : Byte) (start devid : BitVec 12) (init : List Nat) : LineData :=
  toLine 0 ([t, fl] ++ toBytes 2 x.e.toNat ++ toBytes 2 start.toNat ++ toBytes 2 devid.toNat ++
    (List.range 4).flatMap (fun v => toBytes 2 (tget 0 x.freed v).toNat) ++ init.flatMap (toBytes 2))

/-- Free receive places of lane v. -/
def rxFree (x : Ibf) (v : Nat) : Nat := rxSize v - ((tget [] x.rx v).filter (· ≠ .abort)).length

/-- The INIT of a port: FIRST restarts the sequences, the first since ACTIVE the credit counts. -/
def sendInit (s : State) (p : Nat) : State :=
  let x := ibfGet s p
  let x1 := if x.first then { x with e := 0, rseq := 0, txnext := 0 } else x
  let x2 := if x.initSent then x1 else { x1 with freed := [], initSent := true }
  let init := (List.range 4).map fun v => (BitVec.ofNat 12 (rxFree x2 v) - tget 0 x2.freed v).toNat
  onWire (ibfPut s p { x2 with first := false }) p 0 5 (ctlFlit x2 4 (if x.first then 1 else 0) 0 s.cpx.devid init)

/-- What a slot carries that no lane takes: INIT until the peer's has come, a REPLAY that waits, NAK, else STATUS. -/
def sendControl (s : State) (p : Nat) : State :=
  let x := ibfGet s p
  if !x.initSeen then sendInit s p
  else match x.replay with
    | some n =>
      onWire (ibfPut s p { x with replay := none, replayFor := some n, replayAt := s.tmr.gtime
                                  resend := if x.retry.isEmpty then none else some n }) p 0 5 (ctlFlit x 3 0 n s.cpx.devid [])
    | none => onWire s p 0 5 (ctlFlit x (if x.naksent then 2 else 1) 0 0 s.cpx.devid [])

/-- The lanes a slot entry names: owner first, then lend-to (02 R27, R43). -/
def slotLanes (b : Byte) : List Nat :=
  (if b.getLsbD 2 then [(fld b 0 2).toNat] else []) ++ (if b.getLsbD 5 then [(fld b 3 2).toNat] else [])

/-- One slot of the transmit frame. -/
def sendSlot (s : State) (p : Nat) (lanes : List Nat) : State :=
  let x := ibfGet s p
  match (if x.initSeen && x.replay.isNone then resendNext x else none) with
  | some r => if lanes.contains (entryLane r) then sendAgain s p r else sendControl s p
  | none =>
    let s1 := ibfPut s p { x with resend := none }
    match lanes.find? (laneReady (ibfGet s1 p)) with
    | some v => sendNew s1 p v
    | none => sendControl s1 p

/-- The frame a port runs is renewed at its slot 0 (02 R44, R48). -/
def renewFrame (s : State) (p : Nat) : State :=
  { s with wvl := { s.wvl with txfUse := (List.range 512).foldl (fun t k =>
    tset 7#8 t (512 * p + k) (tget 7#8 s.wvl.txf (512 * p + k))) s.wvl.txfUse } }

/-- TRANSMIT_SLOT (02 R43), while the PCS has room for a flit (14 R317). -/
def execTransmitSlot (p : PortNo) (s : State) : Host.Outcome State Fault Refusal :=
  atPort s p (fun x => isActive x && decide (x.ptx.fifo.length < 4)) fun x =>
    let s1 := if x.frameSlot = 0 then renewFrame s p.val else s
    let y := (List.range 4).foldl (fun y v => skipLane v 32 y) x
    let s2 := ibfPut s1 p.val { y with frameSlot := x.frameSlot + 1 }
    twinFlush (sendSlot s2 p.val (slotLanes (tget 7#8 s1.wvl.txfUse (512 * p.val + x.frameSlot.toNat))))

/-! ### Forwarding (14 R337, R338) -/

/-- Flits of a message for another device move on while the output takes them; the hop count is judged at the first. -/
def forward (p v : Nat) : Nat → State → State
  | 0, s => s
  | fuel + 1, s =>
    let x := ibfGet s p
    let (dest, left) := tget (RxDest.drop, 0) x.rxMsg v
    match tget [] x.rx v with
    | [] => s
    | f :: r =>
      let pop := fun (s : State) (dest : RxDest) (left : Nat) (place : Bool) =>
        let y := ibfGet s p
        let z := { y with rx := tset [] y.rx v r
                          rxMsg := tset (RxDest.drop, 0) y.rxMsg v (if left = 0 then (RxDest.drop, 0) else (dest, left)) }
        ibfPut s p (if place then rxFreed z v else z)
      let out := fun (s : State) (m left : Nat) (f : LaneFlit) =>
        let s1 := txForget (txHeld (txPush s m v [f]) m v (if left = 0 then 0 else 67 + p)) v (67 + p)
        pop s1 (.port m) left (f != .abort)
      match f with
      | .abort =>
        if left = 0 then pop s .drop 0 false
        else match dest with
          | .own => s
          | .drop => pop s .drop 0 false
          | .port m => if txRoom s m v then out s m 0 .abort else s
      | .flit d =>
        if left = 0 then
          let dst := flitDest v d
          let hop := flitNat d (hopAt v) 1
          let n := flitsOf v d - 1
          if isOwn s dst then s
          else if hop ≤ 1 then
            let s1 := pop s .drop n true
            let y := ibfGet s1 p
            forward p v fuel (ibfErr (ibfPut s1 p { y with hopdrop := satAdd y.hopdrop 1 }) p eHopdrop)
          else match routePort s dst with
            | none => forward p v fuel (unreachable (pop s .drop n true) dst)
            | some m =>
              match txServe s m v (67 + p) with
              | some s1 => forward p v fuel (out s1 m n (.flit (flitByte d (hopAt v) (BitVec.ofNat 8 (hop - 1)))))
              | none => txJoin s m v (67 + p)
        else match dest with
          | .own => s
          | .drop => forward p v fuel (pop s .drop (left - 1) true)
          | .port m =>
            match txServe s m v (67 + p) with
            | some s1 => forward p v fuel (out s1 m (left - 1) f)
            | none => s

/-- MESSAGE_FORWARD (14 R338). -/
def execMessageForward (p : PortNo) (lane : Fin 4) (s : State) : Host.Outcome State Fault Refusal :=
  atPort s p (fun _ => lane != 2) fun x => forward p.val lane.val (tget [] x.rx lane.val).length s

/-! ### Training (14 R316, R321, R322, R324) -/

/-- A marker that is valid after one of AMCNT n (14 R321 step 1). -/
def markerOk (m : BitVec 120) (prev : BitVec 8) : Bool :=
  let diff := (fld m 0 48) ^^^ 0xC47A13B95E06#48
  decide ((List.range 48).countP (fun k => diff.getLsbD k) ≤ 3) && fld m 52 3 == ~~~ (fld m 48 3) && fld m 84 8 == prev + 1

/-- RXOK, WIDTH, BASE, TRAIN, READY and DEVICE of a marker. -/
def markerFields (m : BitVec 120) : BitVec 28 := fld m 56 28

/-- When the marker with AMCNT 0 came on a lane, from the time of one with AMCNT n: in training the markers of a lane lie 680 bits apart, 256
of them to a round. -/
def markerZero (n : BitVec 8) (at_ : Nat) : Nat := (at_ + 174080 * 680 - 680 * n.toNat) % 174080

/-- A lane's markers come within 4,224 bits of the earliest locked lane's with the same AMCNT (14 R321 step 2): of every lane that is not
later than it. -/
def inSkew (x : Ibf) (r : LaneRx) : Bool :=
  x.phys.all fun q =>
    let d := (r.zero + 174080 - q.2.zero) % 174080
    decide (d ≤ 4224 ∨ 87040 ≤ d)

/-- The receive-lane mask RXOK (14 R321 step 2). -/
def rxokOf (x : Ibf) : BitVec 8 :=
  (List.range 8).foldl (fun m l =>
    let on := x.phys.filter fun q => q.2.lane.val == l
    if on.length == 1 && on.all (fun q => inSkew x q.2) && !x.retired.getLsbD l then setBit m l true else m) 0

/-- The peer's fields are taken once two consecutive markers on every locked lane agree (step 3); until then those taken before stay. -/
def peerTaken (x : Ibf) : Option (BitVec 28) :=
  match x.phys with
  | [] => x.taken
  | (_, r) :: _ => if x.phys.all (fun q => q.2.agree && q.2.fields == r.fields) then some r.fields else x.taken

/-- The lanes of a set: width code and base. -/
def laneSet (w : BitVec 2) (base : BitVec 3) : BitVec 8 :=
  BitVec.ofNat 8 ((if w = 0 then 255 else if w = 1 then 15 else if w = 2 then 3 else 0) * 2 ^ base.toNat)

/-- The widest choice from U that is no wider than `wmin` (14 R322): WIDTH, and BASE above it. -/
def widest (u : BitVec 8) (wmin : Nat) : BitVec 5 :=
  let sets : List (BitVec 2 × BitVec 3) := [(0, 0), (1, 0), (1, 4), (2, 0), (2, 2), (2, 4), (2, 6)]
  match sets.find? fun q => decide (wmin ≤ q.1.toNat) && laneSet q.1 q.2 &&& u == laneSet q.1 q.2 with
  | some q => q.2 ++ q.1
  | none => 3

/-- The choice a port sends (14 R322); a narrower width that the peer advertises is adopted. -/
def choiceOf (x : Ibf) : BitVec 5 :=
  match x.taken with
  | none => 3
  | some f =>
    let own := max x.maxw.toNat x.width.toNat
    let peer := (fld f 8 2).toNat
    widest (rxokOf x &&& fld f 0 8) (if own < peer ∧ peer ≠ 3 then peer else own)

/-- The peer's markers carry the same choice. -/
def peerAgrees (x : Ibf) (c : BitVec 5) : Bool := x.taken.any fun f => fld f 8 5 == c

/-- The peer's markers show READY, which one with TRAIN = 0 does too. -/
def peerReady (x : Ibf) : Bool := x.endAm.isSome || x.taken.any (·.getLsbD 14)

/-- A marker has come: the peer's fields, the choice, how many AM codewords it has held, READY. A change of the peer's choice, or its
READY falling to 0, returns the port to step 4 and its transmitter to training codewords; a narrower width goes through PLAN, and on
once a plan has been applied for that width. -/
def settleChoice (s : State) (p : Nat) (y : Ibf) (newWord : Bool) : State :=
  let x := { y with taken := peerTaken y }
  let c := choiceOf x
  let same := c == x.choice && peerAgrees x c
  let keep := same && !(peerReady y && !peerReady x)
  let held := if c != x.choice || (x.ready && !keep) then 0 else if newWord then x.held + 1 else x.held
  let x1 := { x with choice := c, held := held, ready := x.ready && keep, endAm := if keep then x.endAm else none
                     ptx := { x.ptx with live := x.ptx.live && keep } }
  if !same || held < 8 || fld c 0 2 == 3 then ibfPut s p x1
  else if x.width.toNat < (fld c 0 2).toNat && x.planFor != some (fld c 0 2) then
    if x.st = .plan then ibfPut s p x1 else portState (ibfPut s p { x1 with ready := false }) p .plan
  else ibfPut s p { x1 with ready := true }

/-- Training runs: TRAIN or PLAN. -/
def training (x : Ibf) : Bool := x.st == .train || x.st == .plan

/-- Where the second of two markers 680 bits apart lies that a lane's stream holds (14 R321 step 1): the latest such place. -/
def lockAt (x : PcsRx) (k : Nat) (m1 m2 : BitVec 120) : Option Nat :=
  (List.range ((tget {} x.inb k).n - 799)).findSome? fun i =>
    let q := 64 * tget 0 x.words k - 800 - i
    if markerAt x k q = some m1 ∧ markerAt x k (q + 680) = some m2 then some (q + 680) else none

/-- LANE_LOCK (14 R321 step 1): two consecutive valid markers of one lane, read from the stream of a physical lane. The first lane to lock
starts the count of AM codewords. -/
def execLaneLock (p : PortNo) (phys : Fin 8) (m1 m2 : BitVec 120) (s : State) : Host.Outcome State Fault Refusal :=
  let ok := markerOk m1 (fld m1 84 8 - 1) && markerOk m2 (fld m1 84 8) && fld m1 48 3 == fld m2 48 3
  atPort s p (fun x => training x && ok && (tfind x.phys phys.val).isNone) fun x =>
    match lockAt x.prx phys.val m1 m2 with
    | none => s
    | some q =>
      let n : BitVec 8 := fld m2 84 8
      let r : LaneRx := { lane := ⟨(fld m2 48 3).toNat, (fld m2 48 3).isLt⟩, amcnt := n, next := q + 680, miss := 0
                          zero := markerZero n ((timeAt x.prx phys.val q).getD 0)
                          fields := markerFields m2, agree := markerFields m1 == markerFields m2 }
      settleChoice s p.val { x with phys := tput x.phys phys.val r, amcnt := if x.phys.isEmpty then n else x.amcnt } false

/-- LANE_LOSS_OF_LOCK (14 R321 step 1): after two marker positions with no valid marker. -/
def execLaneLossOfLock (p : PortNo) (phys : Fin 8) (s : State) : Host.Outcome State Fault Refusal :=
  atPort s p (fun x => training x && (tfind x.phys phys.val).any fun r => decide (2 ≤ r.miss)) fun x =>
    settleChoice s p.val { x with phys := tdel x.phys phys.val } false

/-- A lane of the set fails (14 R323). -/
def laneBad (x : Ibf) (l : Nat) (b : Bool) : Ibf :=
  if b && isActive x && x.lanes.getLsbD l then { x with bad := setBit x.bad l true } else x

/-- Bits of a lane's stream from one marker to the next (14 R316). -/
def markerStep (x : Ibf) : Nat := if isActive x then 1024 * laneBits (widthLanes x.width) else 680

/-- What stands at the next marker position of a lane, and when it came; in training nothing after the marker with which it ended. -/
def markerHere (x : Ibf) (k : Nat) (r : LaneRx) : Option (BitVec 120 × Nat) :=
  if training x && x.endAm == some r.amcnt then none
  else (markerAt x.prx k r.next).bind fun m => (timeAt x.prx k r.next).map fun t => (m, t)

/-- ALIGNMENT_MARKER (14 R316, R320, R321, R323): what stands at the next marker position of a locked lane, whose first bit came at bit time
`at_`. In ACTIVE, two positions with no valid marker or one that names a different lane fail the lane, and one that shows TRAIN = 1 retrains
the port; in training the first with TRAIN = 0 ends it. -/
def execAlignmentMarker (p : PortNo) (phys : Fin 8) (m : BitVec 120) (at_ : Nat) (s : State) :
    Host.Outcome State Fault Refusal :=
  atPort s p (fun x => training x || isActive x) fun x =>
    match (tfind x.phys phys.val).filter fun r => markerHere x phys.val r == some (m, at_) with
    | none => s
    | some r0 =>
      let r := { r0 with next := r0.next + markerStep x }
      let put := fun (r : LaneRx) (x : Ibf) => { x with phys := tput (tdel x.phys phys.val) phys.val r }
      let l := r.lane.val
      let other := markerOk m r.amcnt && (fld m 48 3).toNat != l
      if !markerOk m r.amcnt || other then
        ibfPut s p.val (laneBad (put { r with amcnt := r.amcnt + 1, miss := r.miss + 1 } x) l (other || decide (1 ≤ r.miss)))
      else
        let am := fld m 84 8
        let newWord := decide (1 ≤ (am - x.amcnt).toNat ∧ (am - x.amcnt).toNat < 128)
        let r1 := { r with amcnt := am, zero := if training x then markerZero am at_ else r.zero, miss := 0, fields := markerFields m
                           agree := r.fields == markerFields m }
        let train := (markerFields m).getLsbD 13
        let y := { put r1 x with amcnt := if newWord then am else x.amcnt
                                 endAm := if training x && x.endAm.isNone && x.ready && !train then some am else x.endAm }
        if training x then settleChoice s p.val y newWord
        else if train then enterTrain (ibfPut s p.val y) p.val
        else ibfPut s p.val y

/-- The lanes of the set in ACTIVE: on each the first codeword begins after the training codeword whose marker said TRAIN = 0, and the next
marker lies 1,023 codewords on. -/
def startLane (am : BitVec 8) (bits : Nat) (r : LaneRx) : Nat × LaneRx :=
  let q := r.next + 680 * (am - r.amcnt).toNat
  (q, { r with next := q + 1023 * bits, amcnt := am })

/-- ACTIVE is entered (14 R321 step 6, R333): the width and lane set chosen come into force, and slots and received codewords are counted
from here. -/
def enterActive (s : State) (p : Nat) : State :=
  let x := ibfGet s p
  let w := fld x.choice 0 2
  let y := { x with st := .active, width := w, lanes := laneSet w (fld x.choice 2 3), ready := false, retrain := false
                    planFor := none, trainAt := none, rseq := x.e, naksent := false, initSeen := false, initSent := false
                    peerv := false, resend := none, replay := none, replayFor := none, sent := [], frameSlot := 0, badrun := 0
                    bad := 0, endAm := none
                    phys := x.phys.map fun q => (q.1, (startLane (x.endAm.getD 0) (laneBits (widthLanes w)) q.2).2)
                    prx := { x.prx with cw := 1, start := x.phys.map fun q =>
                      (q.1, (startLane (x.endAm.getD 0) (laneBits (widthLanes w)) q.2).1) } }
  raiseSrc (ibfPut s p y) (337 + 2 * p)

/-- TRAINING_COMPLETE (14 R321 step 6): both ends READY with one choice, TRAIN = 0 sent and received. -/
def execTrainingComplete (p : PortNo) (s : State) : Host.Outcome State Fault Refusal :=
  atPort s p (fun x => training x && x.ready && peerAgrees x x.choice && peerReady x && x.ptx.live && x.endAm.isSome) fun _ =>
    enterActive s p.val

/-- PLAN_DECISION (14 R324): the health logic forms the new key, unless the plan it reads is for this width; once a plan has been applied for
it the port goes on to READY. -/
def execPlanDecision (p : PortNo) (s : State) : Host.Outcome State Fault Refusal :=
  atPort s p (fun x => x.st == .plan) fun x =>
    if x.planFor == some (fld x.choice 0 2) then ibfPut s p.val { x with ready := true }
    else if (s.wvl.planRead.isSome || s.wvl.planReady.isSome) && keyPort s.wvl.planKey p.val == fld x.choice 0 2 then s
    else newKey s

/-- TRAIN_TIMEOUT (14 R321). -/
def execTrainTimeout (p : PortNo) (s : State) : Host.Outcome State Fault Refusal :=
  atPort s p (fun x => training x && x.traintmo != 0 &&
      x.trainAt.any fun t => decide (x.traintmo.toNat * 1000 ≤ (s.tmr.gtime - t).toNat)) fun x =>
    ibfErr (ibfPut s p.val { x with trainAt := none }) p.val eTrainfail

/-! ### Lanes (14 R323) -/

/-- ACTIVE, or TRAIN entered in this very FCLK cycle: several lanes may fail in one cycle (log 15). -/
def laneMayFail (s : State) (x : Ibf) : Bool := isActive x || (x.st == .train && x.trainAt == some s.tmr.gtime)

/-- LANE_FAILURE (14 R323): a lane on which a condition holds is retired, the health logic is told, and the port retrains. -/
def execLaneFailure (p : PortNo) (lane : Fin 8) (s : State) : Host.Outcome State Fault Refusal :=
  atPort s p (fun x => laneMayFail s x && x.bad.getLsbD lane.val && !x.retired.getLsbD lane.val) fun x =>
    let u := 8 * p.val + lane.val
    let s1 := ibfErr (ibfPut s p.val { x with retired := setBit x.retired lane.val true }) p.val eLanefail
    enterTrain (retireNote s1 4 u none) p.val

/-- LANE_THRESHOLD_WINDOW (14 R323): a lane above its threshold is reported; the report is a threshold crossing (17 R399). -/
def execLaneThresholdWindow (p : PortNo) (s : State) : Host.Outcome State Fault Refusal :=
  atPort s p (fun x => x.lanewin != 0) fun x =>
    let above := (List.range 8).filter fun k => x.lanethr != 0 && x.lanethr.ult (tget 0 x.lanewn k)
    above.foldl (fun s k =>
      crossing (ibfErr s p.val eLanethr) (8 * p.val + k) (tget 0 x.lanewn k).toNat) (ibfPut s p.val { x with lanewn := [] })

/-! ### What a port sends (14 R312, R316, R320, R321) -/

/-- The lanes that are not squelched: in training those not retired; from the chosen width on those of the set, and any that still carry
the codeword before. -/
def sendLanes (x : Ibf) : List Nat :=
  if x.st = .off ∨ x.st = .down then []
  else if x.ptx.live then
    (List.range 8).filter fun k =>
      (laneSet (fld x.choice 0 2) (fld x.choice 2 3)).getLsbD k || (!x.retired.getLsbD k && decide (64 ≤ (tget {} x.ptx.out k).n))
  else lanesOf (~~~x.retired)

/-- `TXIDLE` and `TXD` of a lane (14 R312). -/
def txIdle (x : Ibf) (k : Nat) : Bool := !(sendLanes x).contains k
def txWord (x : Ibf) (k : Nat) : BitVec 64 := if txIdle x k then 0 else tget 0 x.ptx.txd k

/-- The marker that a port sends on a lane: in ACTIVE, and with the last codeword of training, TRAIN = 0 and READY = 1 (log 30). -/
def markerSent (s : State) (x : Ibf) (train : Bool) (k : Nat) : BitVec 120 :=
  markerOf (BitVec.ofNat 3 k) (rxokOf x) x.choice train (!train || x.ready) s.cpx.devid x.ptx.am

/-- The next codeword to send. -/
def nextCodeword (s : State) (x : Ibf) : PcsTx :=
  let t := x.ptx
  let w := fld x.choice 0 2
  if t.live then
    let cw := t.cw + 1
    { sendCodeword t w (lanesOf (laneSet w (fld x.choice 2 3))) (if cw % 1024 = 0 then some (markerSent s x false) else none) with cw := cw }
  else
    let last := x.ready && peerAgrees x x.choice && peerReady x
    let u := sendCodeword t 0 (List.range 8) (some (markerSent s x !last))
    let v := { u with out := u.out.filter fun q => !x.retired.getLsbD q.1 }
    if last then goLive v else v

/-- One PCLKn cycle at a port that sends: a word on every lane that is not squelched (14 R313). -/
def pcsCycle (s : State) (p : PortNo) : State :=
  let x := ibfGet s p.val
  if !clkOn s (.pclk p) || x.st == .off || x.st == .down then s
  else
    let need := (sendLanes x).any fun k => decide ((tget {} x.ptx.out k).n < 64)
    let y := if need then { x with ptx := nextCodeword s x } else x
    ibfPut s p.val { y with ptx := sendWords y.ptx (sendLanes y) }

/-! ### The port's control register (14 R320, R344) -/

/-- A write of EN; that of a port whose retry buffer failed BIST stays 0 (19 R422). -/
def ibfEn (s : State) (p : Nat) (w : Bool) : State :=
  let x := ibfGet s p
  let en := w && !x.dead
  let s1 := ibfPut s p { x with en := en }
  if !en then (if x.st = .off then s1 else portDown s1 p .off)
  else if x.st = .off then enterTrain s1 p else s1

/-- A write of 1 to RETRAIN. -/
def ibfRetrain (s : State) (p : Nat) : State :=
  let x := ibfGet s p
  if x.st = .active then enterTrain (ibfPut s p { x with retrain := true }) p else s

/-- A write of 1 to UP. -/
def ibfUp (s : State) (p : Nat) : State := if (ibfGet s p).st = .down then enterTrain s p else s

/-- IBF_CTL_EN (14 R320). -/
def execIbfCtlEn (p : PortNo) (en : Bool) (s : State) : Host.Outcome State Fault Refusal := when (fclkOn s) s (ibfEn s p.val en)
/-- IBF_CTL_RETRAIN (14 R344). -/
def execIbfCtlRetrain (p : PortNo) (s : State) : Host.Outcome State Fault Refusal := when (fclkOn s) s (ibfRetrain s p.val)
/-- IBF_CTL_UP (14 R344). -/
def execIbfCtlUp (p : PortNo) (s : State) : Host.Outcome State Fault Refusal := when (fclkOn s) s (ibfUp s p.val)

end Sys2Proof.Machine
end

