-- ==== Sys2Proof/Machine/Twin.lean ====
section
/-! DEFINITION. Twin mirroring (15 R345-R366).
What is DEDUCED or a DESIGN CHOICE here is said in notes/assumptions, log 5 and 15. -/

namespace Sys2Proof.Machine

open Sys2Proof

/-! ### Roles and states (15 R345, R363, R364) -/

/-- The enabled instances that the device owns. -/
def ownMask (s : State) : BitVec 64 :=
  s.ins.i.foldl (fun m p => if p.2.en && ownsInst s p.1 then setBit m p.1 true else m) 0

/-- The device shadows, or owns, instances. -/
def shadows (s : State) : Bool := s.twn.role == 2 || (s.twn.role == 3 && s.ins.i.any fun p => p.2.en && !ownsInst s p.1)
def owns (s : State) : Bool := s.twn.role == 1 || (s.twn.role == 3 && ownMask s != 0)

/-- A state is entered: source 345 at a change; WAIT ends capture, SYNC starts the ACKs afresh. -/
def twnState (s : State) (st : TwinSt) : State :=
  if s.twn.st = st then s
  else
    let t := s.twn
    raiseSrc { s with twn := { t with st := st, capture := t.capture && st != .wait
                                      lastAck := if st = .sync then none else t.lastAck } } 345

/-- SYNC or PAIRED: by the directions in sync. -/
def pairCheck (s : State) : State :=
  if s.twn.st = .sync ∨ s.twn.st = .paired then
    twnState s (if (!owns s || s.twn.txsync) && (!shadows s || s.twn.rxsync) then .paired else .sync)
  else s

def inSync (s : State) : Bool := s.twn.st == .sync || s.twn.st == .paired

/-! ### Journal flits sent (15 R353, R354) -/

/-- A journal flit's payload. -/
def jFlit (s : State) (jtype nent flags : Byte) (seq : BitVec 48) (body : List Byte) : LineData :=
  toLine 0 ([jtype, nent, flags, 0] ++ toBytes 6 seq.toNat ++ toBytes 2 s.cpx.devid.toNat ++ [0, 0, 0, 0] ++ body)

/-- The JTYPE of an entry, and its body. -/
def jType (k : JKind) : Byte := match k with | .record => 1 | .copy => 4 | .lot => 5
def jBody (x : JEntry) : List Byte :=
  match x.kind with
  | .lot => toBytes 2 x.addr.toNat ++ toBytes 2 x.data.toNat
  | _ => [x.mask] ++ toBytes 7 x.addr.toNat ++ toBytes 8 x.data.toNat

/-- The entries of the next flit: up to 3 consecutive ones of one JTYPE, one for LOT. -/
def nextEntries (l : List JEntry) : List JEntry :=
  match l with
  | [] => []
  | x :: r => if x.kind = .lot then [x] else x :: (r.take 2).takeWhile fun y => y.kind == x.kind

/-- A flit joins the journal lane of the twin port, or cannot yet. -/
def jQueue (s : State) (d : LineData) : Option State :=
  match putAt s s.twn.port.val 2 65 d with
  | .done s1 => some s1
  | .wait _ _ _ => none

/-- JOURNAL_FLIT_FORM (15 R354): the oldest unsent entries. -/
def execJournalFlitForm (s : State) : Host.Outcome State Fault Refusal :=
  let t := s.twn
  let l := nextEntries (t.jbuf.drop (t.jbuf.length - t.unsent))
  happens s (match l with
    | [] => s
    | x :: _ =>
      if !fclkOn s || !inSync s then s
      else match jQueue s (jFlit s (jType x.kind) (BitVec.ofNat 8 l.length) (if t.begin_ then 1 else 0) x.seq (l.flatMap jBody)) with
        | none => s
        | some s1 => { s1 with twn := { s1.twn with unsent := t.unsent - l.length, begin_ := false } })

/-- The states in which heartbeats run (15 R354, R358). -/
def beating (s : State) : Bool := inSync s || s.twn.st == .wait || s.twn.st == .fenced

/-- A boundary of the 1,000-cycle periods of global time (15 R358). -/
def periodNow (s : State) : Bool := decide (s.tmr.gtime.toNat % 1000 = 0)

/-- HEARTBEAT_SEND (15 R354). -/
def execHeartbeatSend (s : State) : Host.Outcome State Fault Refusal :=
  let t := s.twn
  let flags := BitVec.ofNat 8 (2 * t.role.toNat + (if t.txsync then 8 else 0) + if t.rxsync then 16 else 0)
  happens s (if !fclkOn s || !beating s || !periodNow s then s
    else match jQueue s (jFlit s 3 0 flags 0 (toBytes 8 (ownMask s).toNat)) with
      | none => s
      | some s1 => pmuAdd s1 581 1)

/-- ACK_SEND (15 R354): when it would tell more than the last one sent. -/
def execAckSend (s : State) : Host.Outcome State Fault Refusal :=
  let t := s.twn
  let due := t.ackDue && (match t.lastAck with | none => true | some a => seqBefore a t.rxnext)
  happens s (if !fclkOn s || !inSync s then s
    else if !due then { s with twn := { t with ackDue := false } }
    else match jQueue s (jFlit s 2 0 0 t.rxnext (toBytes 4 t.applyerrcnt.toNat)) with
      | none => s
      | some s1 => { s1 with twn := { s1.twn with ackDue := false, lastAck := some t.rxnext } })

/-! ### Journal flits received (15 R355-R357, R364) -/

/-- The journal flit at the head of the twin port's receive buffer. -/
def jHead (s : State) : Option LineData :=
  match tget [] (ibfGet s s.twn.port.val).rx 2 with
  | .flit d :: _ => some d
  | _ => none

/-- It leaves the buffer and frees its place. -/
def jPop (s : State) : State :=
  let p := s.twn.port.val
  let x := ibfGet s p
  ibfPut s p (rxFreed { x with rx := tset [] x.rx 2 ((tget [] x.rx 2).drop 1) } 2)

/-- A command for a flit of one JTYPE. -/
def onJournal (t : Nat) (s : State) (f : LineData → State) : Host.Outcome State Fault Refusal :=
  happens s (match jHead s with
    | some d => if fclkOn s && flitNat d 0 1 == t then f d else s
    | none => s)

def jSeq (d : LineData) : BitVec 48 := BitVec.ofNat 48 (flitNat d 4 6)

/-- Entry e of a RECORD, COPY or LOT flit; an address is that of its word (log 15). -/
def jEntry (kind : JKind) (d : LineData) (e : Nat) : JEntry :=
  let o := 16 + 16 * e
  let seq := jSeq d + BitVec.ofNat 48 e
  match kind with
  | .lot => ⟨.lot, seq, BitVec.ofNat 56 (flitNat d 16 1), 0, BitVec.ofNat 64 (flitNat d 18 2)⟩
  | k => ⟨k, seq, BitVec.ofNat 56 (flitNat d (o + 1) 7 / 8 * 8), BitVec.ofNat 8 (flitNat d o 1), BitVec.ofNat 64 (flitNat d (o + 8) 8)⟩

/-- BEGIN (15 R355, R364, R365). -/
def jBegin (s : State) (d : LineData) : State :=
  let s1 := if s.twn.st = .wait then twnState s .sync else s
  { s1 with twn := { s1.twn with rxnext := jSeq d, gapFree := true, rxsync := false, mapUse := true, lastAck := none } }

/-- A flit whose SEQ differs from RXNEXT (15 R355). -/
def jGap (s : State) : State :=
  let t := s.twn
  twnErr (pmuAdd { s with twn := { t with rxsync := false, gapFree := false, seqgapcnt := satAdd t.seqgapcnt 1 } } 583 1) 4

/-- A sequenced flit is recorded when the apply queue has room; outside SYNC and PAIRED it is discarded, but for BEGIN in WAIT. -/
def jRecord (kind : JKind) (s : State) (d : LineData) : State :=
  let n := flitNat d 1 1
  let begins := flitNat d 2 1 % 2 == 1
  if !(inSync s || (s.twn.st == .wait && begins)) then jPop s
  else if 128 < s.twn.applyq.length + n then s
  else
    let s1 := if begins then jBegin (jPop s) d else jPop s
    let s2 := if jSeq d = s1.twn.rxnext then s1 else jGap s1
    let t := s2.twn
    pairCheck { s2 with twn := { t with
      rxnext := jSeq d + BitVec.ofNat 48 n, ackDue := true, applyq := t.applyq ++ (List.range n).map (jEntry kind d) } }

/-- RECORD (15 R355). -/
def execRecord (s : State) : Host.Outcome State Fault Refusal := onJournal 1 s (jRecord .record s)
/-- COPY (15 R355). -/
def execCopy (s : State) : Host.Outcome State Fault Refusal := onJournal 4 s (jRecord .copy s)
/-- LOT (15 R355, R356). -/
def execLot (s : State) : Host.Outcome State Fault Refusal := onJournal 5 s (jRecord .lot s)

/-- Everything that START's copy numbered is acknowledged (15 R364). -/
def copyAcked (t : Twn) : Bool :=
  t.copyAt.isNone && (match t.copyLast with | none => true | some q => seqBefore q t.acknext)

/-- ACK (15 R357): accepted in SYNC and PAIRED. -/
def execAck (s : State) : Host.Outcome State Fault Refusal :=
  onJournal 2 s fun d =>
    let s1 := jPop s
    let t := s1.twn
    let n := jSeq d
    if !inSync s then s1
    else if !(seqBefore t.acknext n && (n == t.txseq || seqBefore n t.txseq)) then twnErr s1 8
    else
      let errs := BitVec.ofNat 32 (flitNat d 16 4)
      let kept := t.jbuf.filter fun x => !seqBefore x.seq n
      let t1 := { t with acknext := n, jbuf := kept, unsent := min t.unsent kept.length, peerErr := errs }
      let t2 := { t1 with txsync := t1.txsync || (t1.capture && copyAcked t1) }
      let s2 := pmuAdd { s1 with twn := t2, cyc := { s1.cyc with ackOld := some (s1.cyc.ackOld.getD t.acknext) } } 577 1
      pairCheck (if t.peerErr.ult errs then twnErr s2 6 else s2)

/-- HEARTBEAT (15 R364). -/
def execHeartbeat (s : State) : Host.Outcome State Fault Refusal :=
  onJournal 3 s fun d =>
    let s1 := jPop s
    let fl := flitNat d 2 1
    let tx := fl / 8 % 2 == 1
    let t := { s1.twn with hbRole := BitVec.ofNat 2 (fl / 2), hbOwn := BitVec.ofNat 64 (flitNat d 16 8), hbAge := 0 }
    if tx && t.gapFree && inSync s then pairCheck { s1 with twn := { t with rxsync := true, mapUse := false } }
    else { s1 with twn := t }

/-! ### Applying (15 R356, R365) -/

/-- The regions of a direction, ascending. -/
def mirrorRegs (s : State) (dir : Bool) : List MirrorReg :=
  (s.twn.mr.map (·.2)).filter fun g => g.en && g.dir == dir && decide (g.base.toNat < g.limit.toNat)

/-- The map bit of a byte of an incoming region: ascending region number, then ascending address. -/
def mapBit : List MirrorReg → Nat → Nat → Option Nat
  | [], _, _ => none
  | g :: r, a, n =>
    if g.base.toNat ≤ a ∧ a < g.limit.toNat then some (n + (a - g.base.toNat))
    else mapBit r a (n + (g.limit.toNat - g.base.toNat))

/-- An entry that was not applied, whole or in part. -/
def applyErr (s : State) : State := twnErr { s with twn := { s.twn with applyerrcnt := satAdd s.twn.applyerrcnt 1 } } 5

/-- An entry has been applied, but for `n` answers to its writes; a bad one counts once. -/
def applied (s : State) (x : JEntry) (n : Nat) (bad : Bool) : State :=
  let s1 := if bad then applyErr s else pmuAdd s 578 1
  if n = 0 then s1 else { s1 with twn := { s1.twn with applyOut := s1.twn.applyOut ++ [⟨x.seq, n, bad⟩] } }

/-- A write of an applied entry is answered. -/
def applyAnswer (s : State) (seq : BitVec 48) (err : Bool) : State :=
  match s.twn.applyOut.find? (·.seq == seq) with
  | none => s
  | some o =>
    let rest := s.twn.applyOut.erase o
    let l := if o.left ≤ 1 then rest else ⟨seq, o.left - 1, o.bad || err⟩ :: rest
    let s1 := { s with twn := { s.twn with applyOut := l } }
    if err && !o.bad then applyErr s1 else s1

/-- The map serves an entry: one applied before RXSYNC was set, or while a COPY entry recorded before is still to be applied (15 R356,
R365). -/
def mapServes (s : State) : Bool := s.twn.mapUse || s.twn.applyq.any (·.kind == .copy)

/-- What the map says of the 8 bytes of a word: its byte's address and value. -/
inductive MapAns where
  | unused (s : State)
  | byte (s : State) (pa : PAddr) (v : Byte)
  | error (s : State)
  | wait (s : State)

/-- The map's byte for a word at address a. -/
def mapRead (s : State) (a : Nat) : MapAns :=
  match mapBit (mirrorRegs s false) a 0 with
  | none => .unused s
  | some k =>
    if !mapServes s then .unused s
    else
      let pa : PAddr := s.twn.rsmap + BitVec.ofNat 44 (k / 8)
      if inWindow s pa then
        match mstRead s 65 .every (winOff s pa) 1 with
        | (s1, some bs) => .byte s1 pa (bs.head?.getD 0)
        | (s1, none) => if s1.cyc.stalled then .wait s1 else .error s1
      else match askRead s .map 0 65 (lineOf pa) with
        | (s1, none) => .wait s1
        | (s1, some none) => .error s1
        | (s1, some (some d)) => .byte s1 pa (fld d (8 * (pa.toNat % 64)) 8)

/-- What the write of an entry comes to: the bytes of the word written, answers to come from a memory port, and whether a byte was not
applied. -/
structure Applied where
  wrote : Byte
  out : Nat
  bad : Bool

/-- The bytes of a RECORD or COPY entry are written, those left out that lie in no incoming region, are another device's, or are
suppressed. -/
def applyWrite (s : State) (x : JEntry) (suppress : Byte) : Ans Applied :=
  let a := x.addr.toNat % 2 ^ 44
  let regs := mirrorRegs s false
  let here := BitVec.ofNat 12 (x.addr.toNat / 2 ^ 44) = s.twn.peer
  let may := BitVec.ofNat 8 ((List.range 8).foldl (fun m k => if here && (mapBit regs (a + k) 0).isSome then m + 2 ^ k else m) 0)
  let bytes := x.mask &&& may &&& ~~~suppress
  let bs : List (Option Byte) := (List.range 8).map fun k => if bytes.getLsbD k then some (fld x.data (8 * k) 8) else none
  let left := x.mask &&& ~~~may != 0
  if bytes = 0 then .ok s ⟨0, 0, left⟩
  else match physWrite s 65 .every (BitVec.ofNat 44 a) bs none (.twin x.seq) with
    | .done s1 => .ok s1 ⟨bytes, if inWindow s (BitVec.ofNat 44 a) then 0 else 1, left⟩
    | .failed s1 => .ok s1 ⟨0, 0, true⟩
    | .held s1 => .hold s1

/-- The map bits of the bytes that a RECORD entry wrote are set. -/
def mapWrite (s : State) (a : Applied) (x : JEntry) (pa : PAddr) (v : Byte) : Ans Applied :=
  if a.wrote = 0 then .ok s a
  else match physWrite s 65 .every pa [some (v ||| a.wrote)] none (.twin x.seq) with
    | .done s1 => .ok s1 { a with out := a.out + (if inWindow s pa then 0 else 1) }
    | .failed s1 => .ok s1 { a with bad := true }
    | .held s1 => .hold s1

/-- A LOT entry (15 R356): one for an instance that the device owns is not applied, one for an instance that it does not shadow changes
nothing. -/
def applyLot (s : State) (x : JEntry) : State :=
  let i := x.addr.toNat
  if !(insGet s i).en then s
  else if ownsInst s i then applyErr s
  else pmuAdd (insPut s i { insGet s i with lot := fld x.data 0 16 }) 578 1

/-- A RECORD or COPY entry under the map's answer. -/
def applyWord (x : JEntry) (map : MapAns) : Ans Applied :=
  let record := x.kind == .record
  match map with
  | .wait s1 => .hold s1
  | .unused s1 => applyWrite s1 x 0
  | .error s1 =>
    if record then (applyWrite s1 x 0).bind fun s2 a => .ok s2 { a with bad := true } else .ok s1 ⟨0, 0, true⟩
  | .byte s1 pa v =>
    if record then (applyWrite s1 x 0).bind fun s2 a => mapWrite s2 a x pa v else applyWrite s1 x v

/-- The oldest recorded entry x, the queue's rest r: applied once the map's byte for it has been read and its writes are accepted. -/
def journalApply (x : JEntry) (r : List JEntry) (s : State) : State :=
  let pop := fun (s : State) => { readsEnd s .map with twn := { s.twn with applyq := r } }
  if x.kind = .lot then applyLot (pop s) x
  else match mapRead s (x.addr.toNat % 2 ^ 44) with
    | .wait s1 => s1
    | ans =>
      match applyWord x ans with
      | .ok s1 a => applied (pop s1) x a.out a.bad
      | .hold s1 => heldState s s1
      | .fault _ _ => s
      | .inv _ => s

/-- JOURNAL_APPLY (15 R356): the oldest recorded entry, that with SEQ `seq`. -/
def execJournalApply (seq : BitVec 48) (map : Ecc) (s : State) : Host.Outcome State Fault Refusal :=
  happens s (match s.twn.applyq with
    | [] => s
    | x :: r => if !fclkOn s || x.seq != seq then s else withEcc [map] (journalApply x r) s)

/-! ### Loss of the partner (15 R358-R361) -/

/-- Held replies of fenced instances are discarded: their chains are released, their ledger entries go, repeats are dropped. -/
def dropReplies (s : State) (m : BitVec 64) : State :=
  s.che.sendq.foldl (fun s q =>
    if q.reply && q.inst.any (fun i => m.getLsbD i) then
      let s1 := { s with che := { s.che with sendq := s.che.sendq.filter fun r => r.buf ≠ q.buf } }
      match chainOf s1 q.buf with
      | some x => releaseChain (entryDrop s1 x.chan x.led) q.buf
      | none => s1
    else s) s

/-- Fencing of some instances (15 R361). -/
def fenceNow (s : State) (m : BitVec 64) : State :=
  let s1 := readsEnd (dropReplies s m) .copy
  let t := s1.twn
  let s2 := { s1 with twn := { t with fence := t.fence ||| m, capture := false, jbuf := [], unsent := 0, copyAt := none
                                      start := false, fenceNext := none } }
  raiseSrc (twnErr (twnState s2 .fenced) 3) 348

/-- The eighth miss (15 R359); in FENCED too, where MISS counts as well (15 R358). -/
def eighthMiss (s : State) : State :=
  if shadows s && s.twn.rxsync then
    twnState { s with twn := { s.twn with fenceNext := if owns s then some (ownMask s) else none } } .promoting
  else
    let s1 := if shadows s then twnErr s 1 else s
    if owns s then fenceNow s1 (ownMask s) else if shadows s then twnState s1 .wait else s1

/-- The end of a heartbeat period (15 R358), after everything else of its cycle (15 R362). -/
def periodEnd (s : State) : State :=
  let t := s.twn
  let age := if t.hbAge = 3 then 3 else t.hbAge + 1
  if !beating s then { s with twn := { t with accepted := false, hbAge := age } }
  else if t.accepted then { s with twn := { t with accepted := false, hbAge := age, miss := 0 } }
  else
    let s1 := pmuAdd { s with twn := { t with hbAge := age, miss := if t.miss = 15 then 15 else t.miss + 1 } } 579 1
    if t.miss = 7 then eighthMiss s1 else s1

/-- HEARTBEAT_PERIOD_END (15 R358): it takes effect at the end of the cycle. -/
def execHeartbeatPeriodEnd (s : State) : Host.Outcome State Fault Refusal :=
  when (fclkOn s && periodNow s) s { s with cyc := { s.cyc with period := true } }

/-- The cycle ends. -/
def endPeriod (s : State) : State := if s.cyc.period then periodEnd { s with cyc := { s.cyc with period := false } } else s

/-- PROMOTION (15 R360 step 3): every recorded entry has been applied. -/
def execPromotion (s : State) : Host.Outcome State Fault Refusal :=
  let t := s.twn
  when (fclkOn s && t.st == .promoting && t.applyq.isEmpty) s (
    let s1 := raiseSrc (twnErr { s with twn := { t with role := 0, alias_ := true, capture := false } } 2) 347
    match t.fenceNext with
    | some m => fenceNow s1 m
    | none => twnState s1 .none_)

/-! ### Control (15 R361, R363, R364) -/

/-- The partner's last heartbeat fits the role. -/
def partnerFits (s : State) : Bool :=
  let t := s.twn
  decide (t.hbAge.toNat ≤ 1) &&
    ((t.role == 1 && t.hbRole == 2) || (t.role == 2 && t.hbRole == 1) ||
      (t.role == 3 && t.hbRole == 3 && (ownMask s &&& t.hbOwn) == 0))

/-- The next outgoing byte at or after an address. -/
def nextCopy (s : State) (a : Nat) : Option Nat :=
  let l := (mirrorRegs s true).filterMap fun g => if max g.base.toNat a < g.limit.toNat then some (max g.base.toNat a) else none
  l.foldl (fun m x => match m with | none => some x | some y => some (min x y)) none

/-- A write of 1 to START. -/
def twnStart (s : State) : State :=
  let t := s.twn
  if t.start then s
  else if !((t.st == .wait || (t.st == .sync && owns s && !t.capture)) && partnerFits s) then twnErr s 9
  else
    let s1 := readsEnd (twnState s .sync) .copy
    if !owns s then pairCheck s1
    else
      let from_ := if t.copy then nextCopy s 0 else none
      pairCheck { s1 with twn := { s1.twn with capture := true, begin_ := true, txsync := false, copyAt := from_, copyLast := none
                                               start := from_.isSome } }

/-- TWN_CTL_START (15 R364): START written with COPY. -/
def execTwnCtlStart (copy : Bool) (s : State) : Host.Outcome State Fault Refusal :=
  when (fclkOn s) s (twnStart { s with twn := { s.twn with copy := copy } })

/-- The copy goes on after address a; TXSYNC comes when nothing is left of it and its last entry has been acknowledged before. -/
def copyNext (s : State) (a : Nat) : State :=
  let at_ := nextCopy s (a + 8)
  let t := { readsEnd s .copy with twn := { s.twn with copyAt := at_, start := at_.isSome } }
  if t.twn.copyLast.isSome && copyAcked t.twn && t.twn.capture then pairCheck { t with twn := { t.twn with txsync := true } } else t

/-- The word at an address that the copy reads, with none for an error; none while it waits. -/
def copyWord (s : State) (pa : PAddr) : State × Option (Option Nat) :=
  if inWindow s pa then
    match mstRead s 65 .every (winOff s pa) 8 with
    | (s1, some bs) => (s1, some (some (leNat bs)))
    | (s1, none) => (s1, if s1.cyc.stalled then none else some none)
  else match askRead s .copy 0 65 (lineOf pa) with
    | (s1, some r) => (s1, some (r.map fun d => flitNat d (pa.toNat % 64) 8))
    | (s1, none) => (s1, none)

/-- The copy reads the word at address a, and numbers it once it is there; the manual states no data for a read that fails. -/
def copyRead (a : Nat) (s : State) : State :=
  let pa := BitVec.ofNat 44 a
  match copyWord s pa with
  | (s1, none) => s1
  | (s1, some v) =>
    let (s2, w) := match v with | some w => (s1, w) | none => takeFree s1 8
    let s3 := journalPut s2 65 .copy (s.cpx.devid ++ pa) 0xFF (BitVec.ofNat 64 w)
    let last := ((s3.twn.jbuf.filter (·.kind == .copy)).getLast?).map (·.seq)
    copyNext (pmuAdd { s3 with twn := { s3.twn with copyLast := last } } 582 1) a

/-- COPY_ENTRY_READ (15 R364): the next word of an outgoing region. -/
def execCopyEntryRead (ecc : Ecc) (s : State) : Host.Outcome State Fault Refusal :=
  let t := s.twn
  happens s (match t.copyAt with
    | none => s
    | some a =>
      if !fclkOn s || !capturing s || 4096 ≤ t.jbuf.length then s
      else if !outgoing s a then copyNext s a
      else withEcc [ecc] (copyRead a) s)

/-- A write of 1 to SOLO (15 R361). -/
def twnSolo (s : State) : State :=
  if s.twn.st = .fenced ∨ s.twn.st = .wait then
    twnState { s with twn := { s.twn with role := 0, fence := 0, capture := false } } .none_
  else s

/-- TWN_CTL_SOLO (15 R361). -/
def execTwnCtlSolo (s : State) : Host.Outcome State Fault Refusal := when (fclkOn s) s (twnSolo s)

/-- The states in which ROLE, PORT, the owned mask, the regions and the map may not be written (15 R363). -/
def twnBusy (s : State) : Bool := inSync s || s.twn.st == .promoting

/-- A write of ROLE (15 R360, R363). -/
def twnRole (s : State) (role : BitVec 2) : State :=
  if twnBusy s then twnErr s 0
  else
    let s1 := { s with twn := { s.twn with role := role, alias_ := false } }
    if s.twn.st = .fenced then s1 else twnState s1 (if role = 0 then .none_ else .wait)

/-- TWN_CTL_ROLE_WRITE (15 R363). -/
def execTwnCtlRoleWrite (role : BitVec 2) (s : State) : Host.Outcome State Fault Refusal := when (fclkOn s) s (twnRole s role)

end Sys2Proof.Machine
end

