-- ==== Sys2Proof/Machine/Instances.lean ====
section
/-! DEFINITION. Instance reset, sweep, bitmap switch and the log writer (16 R375-R383).
What is DEDUCED or a DESIGN CHOICE here is said in notes/assumptions, log 13. -/

namespace Sys2Proof.Machine

open Sys2Proof

def insErr (s : State) : State := fresh { s with ins := { s.ins with cfgerr := true } } 0x40000 0

/-! ### Commands (16 R375, R379, R383) -/

/-- A write of 1 to `INS.CMD.RESET`: ignored for an instance that the device shadows. -/
def insReset (s : State) (i : Nat) : State :=
  let x := insGet s i
  if !x.en || x.reset then s
  else if !ownsInst s i then insErr s
  else insPut s i { x with reset := true, late := setBit x.late 0 (lateSlot s.wvl.slot) }

/-- A write of 1 to `INS.CMD.SWEEP`. -/
def insSweep (s : State) (i : Nat) : State :=
  let x := insGet s i
  if !x.en || x.sweep then s else insPut s i { x with sweep := true, late := setBit x.late 1 (s.wvl.slot == 0) }

/-- A write of 1 to `INS.CMD.SWITCH`. -/
def insSwitch (s : State) (i : Nat) : State :=
  let x := insGet s i
  if !x.en || x.switch_ then s else insPut s i { x with switch_ := true, late := setBit x.late 2 (s.wvl.slot == 0) }

/-- INS_CMD_RESET (16 R375). -/
def execInsCmdReset (i : InstNo) (s : State) : Host.Outcome State Fault Refusal := when (fclkOn s) s (insReset s i.val)
/-- INS_CMD_SWEEP (16 R379). -/
def execInsCmdSweep (i : InstNo) (s : State) : Host.Outcome State Fault Refusal := when (fclkOn s) s (insSweep s i.val)
/-- INS_CMD_SWITCH (16 R383). -/
def execInsCmdSwitch (i : InstNo) (s : State) : Host.Outcome State Fault Refusal := when (fclkOn s) s (insSwitch s i.val)

/-- A warp boundary at which every commit group due has been applied. -/
def boundaryFree (s : State) : Bool := fclkOn s && s.wvl.slot == 0 && s.cpx.commitq.all (·.2)

/-! ### At the boundary (16 R378, R379, R383) -/

/-- A chain belongs to instance i with another lot than its current one. -/
def oldLot (s : State) (i : Nat) (x : Chain) : Bool := instOfChan s x.chan.val == some i && x.lot != (insGet s i).lot

/-- A request is cut off: NACKs with code STALE to its sender and the repeats, its ledger entry removed. 16 R378 names the repeats for a
queued request alone; those of a request that is still filling are told too (DESIGN CHOICE, log 13). -/
def cutRequest (s : State) (x : Chain) : State :=
  if hKind x.hdr ≠ 0 then s
  else
    let reps := match ledgerOf s x.led with | some e => e.repeats | none => []
    entryRemove (nackRepeats (nack s x.hdr 1).1 x.hdr reps 1) x.chan x.led

/-- What is filling or queued with the old lot is abandoned; also a request that was refused its buffers and waits for its ledger decision,
whose sender is told STALE (DESIGN CHOICE, log 13). -/
def abandonChains (s : State) (i : Nat) : State :=
  s.che.chains.foldl (fun s p =>
    if oldLot s i p.2 && (p.2.st == .filling || p.2.st == .queued) then
      let s1 := cutRequest (dropChain (readsEnd s (.ledger p.1)) p.1) p.2
      { s1 with che := { s1.che with descq := s1.che.descq.filter (· ≠ p.1), probeq := s1.che.probeq.filter (· ≠ p.1) } }
    else s) s

/-- A message of instance i that is part received is abandoned (13 R291): a request is told. -/
def cutPart (s : State) (a : PartMsg) : State :=
  let s1 := freePart s (some a)
  if hKind a.hdr = 0 then (nack s1 a.hdr 1).1 else s1

/-- It is one of instance i with a dye lot that is no longer its own, and no check has turned it away. -/
def partOld (s : State) (i : Nat) (a : PartMsg) : Bool :=
  a.code.isNone && instOfChan s (hChan a.hdr).val == some i && a.lot != (insGet s i).lot

/-- Messages of instance i that are part received on the ports and from the loopback are abandoned, their other flits discarded. -/
def abandonParts (s : State) (i : Nat) : State :=
  let s1 := cheLanes.foldl (fun s q =>
    let x := ibfGet s q.1
    match tfind x.rxPart q.2 with
    | none => s
    | some a =>
      if !partOld s i a then s
      else
        let y := { x with rxPart := tdel x.rxPart q.2, rxMsg := tset (RxDest.drop, 0) x.rxMsg q.2 (RxDest.drop, a.left) }
        cutPart (ibfPut s q.1 y) a) s
  match s1.che.loopPart with
  | none => s1
  | some a =>
    if !partOld s1 i a then s1
    else cutPart { s1 with che := { s1.che with loop := s1.che.loop.drop 1, loopPart := none } } a

/-- The sources that instance i owns are cleared and withdrawn. -/
def clearSources (s : State) (i : Nat) : State :=
  (List.range 384).foldl (fun s k => if (srcGet s (k + 1)).inst.toNat = i then clearSource s (k + 1) else s) s

/-- INSTANCE_RESET_APPLY (16 R375, R378; 15 R352): at the boundary, after the commit groups; it waits while the journal has no room for
its LOT entry. It prevails over the replies that the cycle has accepted: they are stale (13 R310). -/
def execInstanceResetApply (i : InstNo) (s : State) : Host.Outcome State Fault Refusal :=
  let x := insGet s i.val
  let numbers := inSync s && ownsInst s i.val
  when (boundaryFree s && x.reset && !x.late.getLsbD 0 && !(numbers && decide (4096 ≤ s.twn.jbuf.length))) s (
    let lot := x.lot + 1
    let s1 := insPut s i.val { x with reset := false, lot := lot }
    let s2 := if numbers then
      journalPut s1 74 .lot (BitVec.ofNat 56 i.val) 0 (lot.setWidth 64) else s1
    let s3 := s2.cyc.sends.foldl (staleSend i.val) s2
    clearSources (abandonParts (abandonChains s3 i.val) i.val) i.val)

/-- Owned and open chains of an old lot of instance i are released. -/
def sweepNow (s : State) (i : Nat) : State :=
  s.che.chains.foldl (fun s p =>
    match chainOf s p.1 with
    | none => s
    | some c =>
      if oldLot s i c && c.st == .owned then releaseChain s p.1
      else if oldLot s i c && c.st == .opened then releaseChain (cutRequest s c) p.1
      else s) (insPut s i { insGet s i with sweep := false })

/-- SWEEP_APPLY (16 R379). -/
def execSweepApply (i : InstNo) (s : State) : Host.Outcome State Fault Refusal :=
  let x := insGet s i.val
  when (boundaryFree s && x.sweep && !x.late.getLsbD 1) s (sweepNow s i.val)

/-- The switch is complete once every mark taken before it is written. -/
def switchDone (x : Inst) : Inst := if x.drain = some 0 then { x with drain := none, switch_ := false } else x

/-- BITMAP_SWITCH_APPLY (16 R383). -/
def execBitmapSwitchApply (i : InstNo) (s : State) : Host.Outcome State Fault Refusal :=
  let x := insGet s i.val
  when (boundaryFree s && x.switch_ && !x.late.getLsbD 2 && x.drain.isNone) s (
    let n := s.ins.marks.countP fun m => m.inst == i
    let s1 := { s with ins := { s.ins with filter := s.ins.filter.filter fun q => q.1 ≠ i } }
    insPut s1 i.val (switchDone { x with sel := !x.sel, drain := some n }))

/-! ### The log writer (16 R381, R382) -/

/-- A mark is written or dropped: it leaves the queue. -/
def markGone (s : State) (m : Mark) (dropped : Bool) : State :=
  let s0 := { s with ins := { s.ins with marks := s.ins.marks.drop 1 } }
  let s1 := if dropped then fresh s0 (insAddr m.inst.val 9) 13 else s0
  let x := insGet s1 m.inst.val
  insPut s1 m.inst.val (switchDone { x with dovf := x.dovf || dropped, drain := x.drain.map (· - 1) })

/-- The frame joins the filter of the 256 marked last, for the bitmap in use. -/
def filterPut (s : State) (m : Mark) : State :=
  if m.sel = (insGet s m.inst.val).sel then
    { s with ins := { s.ins with filter := ((m.inst, m.frame) :: s.ins.filter.filter (· ≠ (m.inst, m.frame))).take 256 } }
  else s

/-- The frame is appended to the ring, when that is on and has room. -/
def ringAppend (s : State) (m : Mark) : WrAns :=
  let x := insGet s m.inst.val
  let size := 2 ^ x.rlog.toNat
  if x.rlog = 0 then .done s
  else if (x.head.toNat + size - x.tail.toNat % size) % size + 1 < size then
    match physWrite s 73 .every (x.ring + BitVec.ofNat 44 (4 * x.head.toNat))
        ((toBytes 4 m.frame).map some) none (.marks m.inst) with
    | .done s1 => .done (insPut s1 m.inst.val { insGet s1 m.inst.val with head := BitVec.ofNat 20 ((x.head.toNat + 1) % size) })
    | a => a
  else .done (fresh (insPut s m.inst.val { x with rovf := true }) (insAddr m.inst.val 14) 31)

/-- The bitmap's word at an address, with none for an error; none while it waits. -/
def markWord (s : State) (pa : PAddr) : State × Option (Option (BitVec 64)) :=
  if inWindow s pa then
    match mstRead s 73 .every (winOff s pa) 8 with
    | (s1, some bs) => (s1, some (some (BitVec.ofNat 64 (leNat bs))))
    | (s1, none) => (s1, if s1.cyc.stalled then none else some none)
  else match askRead s .marks 0 73 (lineOf pa) with
    | (s1, some r) => (s1, some (r.map fun d => BitVec.ofNat 64 (flitNat d (pa.toNat % 64) 8)))
    | (s1, none) => (s1, none)

/-- The oldest mark sets its bit once the bitmap's word has been read. -/
def dirtyMark (m : Mark) (s : State) : State :=
  let x := insGet s m.inst.val
  let off := (if m.sel then x.trklen.toNat * 64 else 0) + m.n / 64 * 8
  let pa := x.dmap + BitVec.ofNat 44 off
  let gone := fun (s : State) (dropped : Bool) => markGone (readsEnd s .marks) m dropped
  match markWord s pa with
  | (s1, none) => s1
  | (s1, some none) => gone s1 true
  | (s1, some (some w)) =>
    if w.getLsbD (m.n % 64) then gone (filterPut s1 m) false
    else match physWrite s1 73 .every pa ((toBytes 8 (setBit w (m.n % 64) true).toNat).map some) none (.marks m.inst) with
      | .held t => heldState s t
      | .failed s2 => gone s2 true
      | .done s2 =>
        match ringAppend s2 m with
        | .held t => heldState s t
        | .failed s3 => gone (filterPut s3 m) true
        | .done s3 => gone (filterPut s3 m) false

/-- DIRTY_MARK (16 R381). -/
def execDirtyMark (ecc : Ecc) (s : State) : Host.Outcome State Fault Refusal :=
  happens s (match s.ins.marks with
    | [] => s
    | m :: _ => if !fclkOn s then s else withEcc [ecc] (dirtyMark m) s)

end Sys2Proof.Machine
end

