-- ==== Sys2Proof/Machine/Monitor.lean ====
section
/-! DEFINITION. The performance monitor's counters, bandwidth windows and swatches (18 R407-R417).
What is DEDUCED or a DESIGN CHOICE here is said in notes/assumptions, log 18. -/

namespace Sys2Proof.Machine

open Sys2Proof

/-! ### Counters (18 R412) -/

def pmuMst (s : State) (m : Nat) : PmuMst := tget {} s.pmu.mst m
def pmuMstPut (s : State) (m : Nat) (x : PmuMst) : State := { s with pmu := { s.pmu with mst := tset {} s.pmu.mst m x } }
def counter (s : State) (c : Nat) : BitVec 48 := tget 0 s.pmu.cnt c

/-- A read of a counter's low word as it stood when the cycle began, which captures the high bits for its reader. -/
def cntloRead (s : State) (m c : Nat) : State × Word :=
  (pmuMstPut s m { pmuMst s m with cap := fld (cntOld s c) 32 16, capOf := some c }, fld (cntOld s c) 0 32)

/-- A read of a counter's high bits. -/
def cnthiRead (s : State) (m c : Nat) : Word :=
  let x := pmuMst s m
  (if x.capOf = some c then x.cap else fld (counter s c) 32 16).setWidth 32

/-- The counter takes a value that master m writes, unless a higher master has written it in the cycle (18 R413). -/
def cntSet (s0 : State) (m c : Nat) (v : BitVec 48) : State :=
  let s := cntKeep s0 c
  match tfind s.cyc.pmuSet c with
  | some (k, n) =>
    if m < k then s
    else { s with pmu := { s.pmu with cnt := tset 0 s.pmu.cnt c v }, cyc := { s.cyc with pmuSet := tput (tdel s.cyc.pmuSet c) c (m, n) } }
  | none =>
    { s with pmu := { s.pmu with cnt := tset 0 s.pmu.cnt c v }
             cyc := { s.cyc with pmuSet := tput s.cyc.pmuSet c (m, tget 0 s.pmu.cnt c) } }

/-- A write of the low word sets the counter; counters 600-639 ignore writes (18 R409). -/
def cntloWrite (s : State) (m c : Nat) (v : Word) : State :=
  if 600 ≤ c then s
  else pmuMstPut (cntSet s m c ((pmuMst s m).stage ++ v)) m { pmuMst s m with stage := 0 }

/-- A write of the high bits is staged for its writer. -/
def cnthiWrite (s : State) (m c : Nat) (v : Word) : State :=
  if 600 ≤ c then s else pmuMstPut s m { pmuMst s m with stage := fld v 0 16 }

/-- The I/O address of a counter. -/
def cntAddr (c : Nat) (hi : Bool) : BitVec 24 := BitVec.ofNat 24 (0x61000 + 8 * c + if hi then 4 else 0)

/-- PMU_CNTLO_READ (18 R412). -/
def execPmuCntloRead (src : IoSrc) (c : Fin 640) (s : State) : Host.Outcome State Fault Refusal :=
  when (fclkOn s && srcActs s src) s (
    if viewOf s src = .manager then
      let (s1, v) := cntloRead s (masterOf src) c.val
      { s1 with lastRead := v }
    else { unmapped s src (cntAddr c.val false) false with lastRead := 0 })

/-- PMU_CNTLO_WRITE (18 R412). -/
def execPmuCntloWrite (src : IoSrc) (c : Fin 640) (v : Word) (s : State) : Host.Outcome State Fault Refusal :=
  when (fclkOn s && srcActs s src) s (
    if viewOf s src = .manager then cntloWrite s (masterOf src) c.val v else unmapped s src (cntAddr c.val false) true)

/-- PMU_CNTHI_WRITE (18 R412). -/
def execPmuCnthiWrite (src : IoSrc) (c : Fin 640) (v : Word) (s : State) : Host.Outcome State Fault Refusal :=
  when (fclkOn s && srcActs s src) s (
    if viewOf s src = .manager then cnthiWrite s (masterOf src) c.val v else unmapped s src (cntAddr c.val true) true)

/-! ### Bandwidth windows (18 R411) -/

/-- A global time is a multiple of a window's length. -/
def winNow (s : State) (w : BitVec 12) : Bool := w != 0 && s.tmr.gtime.toNat % (w.toNat * 1024) == 0

/-- Every meter's count becomes its `PMU.BW`, and its peak when it is higher; the meters restart. -/
def windowEnd (s : State) : State :=
  let p := s.pmu
  let m := fun k => tget 0 p.meter k
  let s1 := { s with pmu := { p with
    bw := (List.range 13).foldl (fun t k => tset 0 t k (m k)) p.bw
    bwpeak := (List.range 13).foldl (fun t k => if (tget 0 t k).ult (m k) then tset 0 t k (m k) else t) p.bwpeak
    meter := [] } }
  raiseIf (p.ctl.getLsbD 2) s1 372

/-- BANDWIDTH_WINDOW_END (18 R411): the boundary of the window that runs, or of a WIN written since. -/
def execBandwidthWindowEnd (s : State) : Host.Outcome State Fault Refusal :=
  let p := s.pmu
  let ends := fun (s : State) => if p.win = 0 then s else windowEnd s
  happens s (
    if !fclkOn s then s
    else match p.winNext with
      | some w =>
        if winNow s w then
          let s1 := ends s
          { s1 with pmu := { s1.pmu with win := w, winNext := none, meter := [] } }
        else if winNow s p.win then windowEnd s else s
      | none => if winNow s p.win then windowEnd s else s)

/-- A write of WIN: 0 stops the meters. -/
def winWrite (s : State) (w : BitVec 12) : State :=
  if w = 0 then { s with pmu := { s.pmu with win := 0, winNext := none } }
  else { s with pmu := { s.pmu with winNext := some w } }

/-! ### Swatches (18 R414-R416) -/

/-- The ring holds as many swatches as it can. -/
def ringFull (s : State) : Bool :=
  let n := 2 ^ s.pmu.rlog.toNat
  (s.pmu.head.toNat + 4096 - s.pmu.tail.toNat % 4096) % n == n - 1

/-- A swatch is lost to the reader. -/
def countDrop (s : State) : State :=
  { s with pmu := { s.pmu with drops := satAdd s.pmu.drops 1, sinceDrops := satAdd s.pmu.sinceDrops 1 } }

/-- A freeze falls now. -/
def freezeNow (s : State) : Bool :=
  fclkOn s && s.pmu.k != 0 && s.pmu.rlog != 0 && s.tmr.gtime.toNat % 2 ^ s.pmu.k.toNat == 0

/-- FREEZE (18 R414): the counters are copied, or the freeze is dropped. -/
def execFreeze (s : State) : Host.Outcome State Fault Refusal :=
  let p := s.pmu
  let s1 := { s with pmu := { p with swnum := p.swnum + 1 } }
  when (freezeNow s) s (
    if p.shadow.isSome || ringFull s then
      let s2 := countDrop s1
      raiseIf (p.ctl.getLsbD 3) (fresh { s2 with pmu := { s2.pmu with drop := true } } 0x60000 3) 371
    else
      let x : Swatch := { cnt := p.cnt, ovf := p.ovf, num := p.swnum, drops := p.sinceDrops, time := s.tmr.gtime, k := p.k
                          line := 0, wait := 0, bad := false }
      { s1 with pmu := { s1.pmu with shadow := some x, sinceDrops := 0 }, cyc := { s1.cyc with frozen := true } })

/-- The shadow holds what the counters and their overflow bits are at the end of the freeze cycle (18 R413, R414). -/
def endFreeze (s : State) : State :=
  if !s.cyc.frozen then s
  else { s with pmu := { s.pmu with shadow := s.pmu.shadow.map fun x => { x with cnt := s.pmu.cnt, ovf := s.pmu.ovf } }
                cyc := { s.cyc with frozen := false } }

/-- The bytes of line n of a swatch (18 R415). -/
def swatchLine (x : Swatch) (dev : BitVec 12) (n : Nat) : List Byte :=
  if n = 0 then
    toBytes 4 x.num.toNat ++ toBytes 2 x.drops.toNat ++ [0, 0] ++ toBytes 8 x.time.toNat ++ toBytes 2 dev.toNat ++
      [x.k.setWidth 8] ++ List.replicate 45 0
  else (List.range 8).flatMap fun j =>
    let c := 8 * (n - 1) + j
    toBytes 8 ((tget 0 x.cnt c).toNat + if x.ovf.getLsbD c then 2 ^ 48 else 0)

/-- Where line n of the swatch being written lies. -/
def swatchPA (s : State) (n : Nat) : PAddr := s.pmu.ring + BitVec.ofNat 44 (5184 * s.pmu.head.toNat + 64 * n)

def swatchPut (s : State) (x : Swatch) : State := { s with pmu := { s.pmu with shadow := some x } }

/-- A line written to the scratchpad window in 8-byte words; whether all were granted. -/
def swatchWords (s : State) (o : Nat) (bs : List Byte) : Nat → State × Bool
  | 0 => (s, true)
  | n + 1 =>
    match swatchWords s o bs n with
    | (s1, false) => (s1, false)
    | (s1, true) =>
      match mstWrite s1 71 .every (o + 8 * n) (((bs.drop (8 * n)).take 8).map some) none with
      | .done s2 => (s2, true)
      | .refused s2 => (s2, false)
      | .bad s2 => (s2, false)
      | .held s2 => (s2, false)

/-- Writes the lines that can go now, in ascending order. -/
def swatchLines : Nat → State → State
  | 0, s => s
  | fuel + 1, s =>
    match s.pmu.shadow with
    | none => s
    | some x =>
      if x.bad || decide (81 ≤ x.line) then s
      else
        let pa := swatchPA s x.line
        let bs := swatchLine x s.cpx.devid x.line
        if inWindow s pa then
          match swatchWords s (winOff s pa) bs 8 with
          | (s1, true) => swatchLines fuel (swatchPut s1 { x with line := x.line + 1 })
          | (s1, false) => if s1.cyc.stalled then slotsBack s s1 else swatchPut s1 { x with bad := true }
        else match mpSend s true (lineOf pa) 71 (toLine 0 bs) (lineMask 0 64) .dump with
          | .sent s1 => swatchLines fuel (swatchPut s1 { x with line := x.line + 1, wait := x.wait + 1 })
          | .full => s
          | .refused s1 => swatchPut s1 { x with bad := true }

/-- The swatch ends when no response is awaited: HEAD advances, or it is abandoned and counts as dropped. -/
def swatchEnd (s : State) : State :=
  match s.pmu.shadow with
  | none => s
  | some x =>
    if x.wait ≠ 0 then s
    else if x.bad then
      let s1 := countDrop { s with pmu := { s.pmu with shadow := none, sinceDrops := satAdd s.pmu.sinceDrops x.drops.toNat } }
      fresh { s1 with pmu := { s1.pmu with dumperr := true } } 0x60000 2
    else if x.line < 81 then s
    else
      let p := s.pmu
      raiseIf (p.ctl.getLsbD 1) { s with pmu := { p with
        shadow := none
        head := BitVec.ofNat 12 ((p.head.toNat + 1) % 2 ^ p.rlog.toNat) } } 370

/-- A response to one of the swatch's line writes. -/
def swatchAck (s : State) (err : Bool) : State :=
  match s.pmu.shadow with
  | none => s
  | some x => swatchEnd (swatchPut s { x with wait := x.wait - 1, bad := x.bad || err })

/-- SWATCH_WRITE (18 R416): the dump writer goes on with the swatch; `err` says that a write of it ended with an error response. -/
def execSwatchWrite (err : Bool) (s : State) : Host.Outcome State Fault Refusal :=
  happens s (match s.pmu.shadow with
    | none => s
    | some x =>
      if !fclkOn s || s.cyc.frozen then s
      else swatchEnd (swatchLines 81 (if err then swatchPut s { x with bad := true } else s)))

end Sys2Proof.Machine
end

