-- ==== Sys2Proof/Machine/Ports.lean ====
section
/-! DEFINITION. Memory-port and host-initiator transactions, and clocks (20 R438-R448).
What is DEDUCED or a DESIGN CHOICE here is said in notes/assumptions, log 20. -/

namespace Sys2Proof.Machine

open Sys2Proof

/-! ### Completion of a transaction (20 R441) -/

/-- A fill's data or error reaches its buffer (11 R259). -/
def fillDone (s : State) (e : Eng) (side : CacheSide) (l : LineAddr) (d : Option LineData) : State :=
  let g := engGet s e
  match fillOf g side l with
  | none => s
  | some f => engPut s e (setFills g (fillsPut g.m.fills { f with st := match d with | some d => .landed d | none => .failed }))

/-- A write-back's response frees its buffer; an error is on its way to the engine (09 R208, 11 R260). -/
def writeBackDone (s : State) (e : Eng) (l : LineAddr) (err : Bool) : State :=
  let g := engGet s e
  let s1 := engPut s e (setWbs g (match g.m.wbs.find? fun w => w.line == l with
    | some w => g.m.wbs.erase w
    | none => g.m.wbs))
  if err then
    let g1 := engGet s1 e
    engPut s1 e { g1 with berrs := g1.berrs ++ [(l, false)] }
  else s1

/-- A transaction completes to its master: data of a read or none for an error. -/
def ownerDone (s : State) (q : MpReq) (d : Option LineData) : State :=
  let err := d.isNone
  match q.owner with
  | .fill e side => fillDone s e side q.line d
  | .prefetch e => fillDone s e .data q.line d
  | .read who k => readBack s who k d
  | .writeBack e => writeBackDone s e q.line err
  | .ledger id k => cheFlush 64 (ledgerAck s id k err)
  | .twin seq => applyAnswer s seq err
  | .dump => swatchAck s err
  | .marks i =>
    if err then fresh (insPut s i.val { insGet s i.val with dovf := true }) (insAddr i.val 9) 13 else s
  | .other => s

/-- A late read, or a response that breaks the protocol, raises its source (20 R446). -/
def portNote (s : State) (n : Nat) : State := raiseIf (mptGet s n).ev s (if n = 4 then 359 else 350 + 2 * n)

/-- A response that answers nothing (20 R441, R445). -/
def portProto (s : State) (n : Nat) : State :=
  let x := mptGet s n
  let s1 := fresh (mptPut s n { x with proto := true }) (portStat n) 4
  if n = 4 ∧ x.proto then s1 else portNote s1 n

/-- The transaction outstanding under an ID whose request has transferred. -/
def outstanding (x : Mpt) (id : BitVec 8) : Option MpReq :=
  x.out.find? fun q => q.id == id && !x.reqq.any fun r => r.id == id

/-- A response transfers for transaction q of port n. -/
def portDone (s : State) (n : Nat) (q : MpReq) (err : BitVec 2) (late : Bool) (data : LineData) : State :=
  let x := mptGet s n
  let s1 := mptPut s n { x with out := x.out.filter fun r => r.id != q.id }
  if q.timedOut then s1
  else
    let s2 := if q.write then s1 else
      meterAdd (pmuAdd s1 (if n = 4 then 521 else 512 + 2 * n) 64) n 64
    let s3 := if late && !q.write && x.rdbound != 0 then
      let y := mptGet s2 n
      portNote (fresh (mptPut s2 n { y with late := true, latecnt := satAdd y.latecnt 1 }) (portStat n) (if n = 4 then 5 else 3)) n else s2
    ownerDone (if err = 0 then s3 else portError s3 n q.line err) q (if err = 0 then some data else none)

/-- A memory port's response reaches its transaction. -/
def portRsp (s : State) (n : Nat) (r : PortRsp) : State :=
  match outstanding (mptGet s n) r.id with
  | some q => if q.write == r.write then portDone s n q r.err r.late r.data else portProto s n
  | none => portProto s n

def beatPut (s : State) (b : Option (BitVec 8 × BitVec 256 × BitVec 2)) : State := { s with hpt := { s.hpt with beat := b } }

/-- A beat of the host reaches the initiator (20 R445): a write's response, or one of a read's two beats, bytes 0-31 first. -/
def hostRsp (s : State) (r : PortRsp) : State :=
  let x := mptGet s 4
  match s.hpt.beat with
  | some (k, d, e) =>
    if k = r.id ∧ !r.write then
      match outstanding x r.id with
      | some q => portDone (beatPut s none) 4 q (if e = 0 then r.err else e) r.late (fld r.data 0 256 ++ d)
      | none => portProto (beatPut s none) 4
    else portProto s 4
  | none =>
    match outstanding x r.id with
    | some q =>
      if q.write != r.write then portProto s 4
      else if r.write then portDone s 4 q r.err r.late 0
      else beatPut s (some (r.id, fld r.data 0 256, r.err))
    | none => portProto s 4

/-- The responses that have crossed into FCLK, in their order; while FCLK stands they wait (20 R448). -/
def rspFlush (n : Nat) (s : State) : State :=
  if !fclkOn s then s
  else
    let x := mptGet s n
    x.rspq.foldl (fun s r => if n = 4 then hostRsp s r else portRsp s n r) (mptPut s n { x with rspq := [] })

/-- A response transfers: every cycle with it valid is a transfer (20 R439). -/
def rspTake (s : State) (n : Nat) (r : PortRsp) : State :=
  rspFlush n (mptPut s n { mptGet s n with rspq := (mptGet s n).rspq ++ [r] })

/-- MEMORY_PORT_RESPONSE (20 R439, R441). -/
def execMemoryPortResponse (p : PortNo) (id : BitVec 8) (write : Bool) (err : BitVec 2) (late : Bool) (data : LineData)
    (s : State) : Host.Outcome State Fault Refusal :=
  when (clkOn s (.mpclk p)) s (rspTake s p.val ⟨id, write, err, late, data⟩)

/-- The transaction of an ID times out (20 R441): its request has been presented, and it has no response. -/
def portTimeout (s : State) (n : Nat) (id : BitVec 8) : State :=
  let x := mptGet s n
  let shown := !(x.reqq.drop 1).any fun r => r.id == id
  match x.out.find? fun q => q.id == id && !q.timedOut with
  | some q =>
    if x.tmoLim = 0 ∨ !shown then s
    else
      let s1 := fresh (mptPut s n { x with out := x.out.map fun r => if r.id = id then { r with timedOut := true } else r
                                           tmo := true, tmocnt := satAdd x.tmocnt 1, erraddr := q.line, errcode := 0 })
        (portStat n) 2
      ownerDone (raiseIf x.ev s1 (if n = 4 then 357 else 349 + 2 * n)) q none
  | none => s

/-- MEMORY_PORT_TIMEOUT (20 R441). -/
def execMemoryPortTimeout (p : PortNo) (id : BitVec 8) (s : State) : Host.Outcome State Fault Refusal :=
  when (clkOn s (.mpclk p) && fclkOn s) s (portTimeout s p.val id)

/-! ### The host initiator (20 R445) -/

/-- HOST_INITIATOR_RESPONSE (20 R445). -/
def execHostInitiatorResponse (id : BitVec 8) (write : Bool) (err : BitVec 2) (late : Bool) (data : BitVec 256) (s : State) :
    Host.Outcome State Fault Refusal :=
  when (clkOn s .hpclk) s (rspTake s 4 ⟨id, write, err, late, data.setWidth 512⟩)

/-- HOST_INITIATOR_TIMEOUT (20 R445). -/
def execHostInitiatorTimeout (id : BitVec 8) (s : State) : Host.Outcome State Fault Refusal :=
  when (clkOn s .hpclk && fclkOn s) s (portTimeout s 4 id)

/-- HPT_DOORBELL (20 R446): whatever is written. -/
def execHptDoorbell (_v : Word) (s : State) : Host.Outcome State Fault Refusal := when (fclkOn s) s (raiseSrc s 360)

/-! ### Transfers (20 R439) -/

def popReq (s : State) (n : Nat) : State := mptPut s n { mptGet s n with reqq := (mptGet s n).reqq.drop 1 }
def popData (s : State) (n : Nat) : State := mptPut s n { mptGet s n with wdq := (mptGet s n).wdq.drop 1 }

/-- CHANNEL_TRANSFER (20 R439): the oldest beat of a channel transfers. -/
def execChannelTransfer (ch : BusChan) (s : State) : Host.Outcome State Fault Refusal :=
  happens s (match ch with
    | .mpReq p => if clkOn s (.mpclk p) then popReq s p.val else s
    | .mpData p => if clkOn s (.mpclk p) then popData s p.val else s
    | .hpReq => if clkOn s .hpclk then popReq s 4 else s
    | .hpData => if clkOn s .hpclk then popData s 4 else s
    | .hpTrsp => if clkOn s .hpclk then { s with hpt := { s.hpt with rsp := s.hpt.rsp.drop 1 } } else s)

/-! ### Clocks (20 R448) -/

/-- CLOCK_STOP (20 R448). -/
def execClockStop (c : ClockName) (s : State) : Host.Outcome State Fault Refusal :=
  when (!s.stopped.contains c) s { s with stopped := c :: s.stopped }

/-- CLOCK_RESUME (20 R448): a start-up that waited for AONCLK begins its step 1. -/
def execClockResume (c : ClockName) (s : State) : Host.Outcome State Fault Refusal :=
  let s1 := { s with stopped := s.stopped.filter (· ≠ c) }
  when (s.stopped.contains c) s
    (if c = .aonclk ∧ s.power ∧ s.cpx.step = 0 then { s1 with cpx := { s1.cpx with step := 1 } } else s1)

/-- TEST_LOGIC_RESET (20 R454). -/
def execTestLogicReset (s : State) : Host.Outcome State Fault Refusal := .next { s with tap := { s.tap with ir := 1 } }

end Sys2Proof.Machine
end

