-- ==== Sys2Proof/Machine/Nvm.lean ====
section
/-! DEFINITION. The NVM and its controller: commands, settings, tags, the key area and the health log's ring (17 R387-R396, R402).
What is DEDUCED or a DESIGN CHOICE here is said in notes/assumptions, log 5 and 12. -/

namespace Sys2Proof.Machine

open Sys2Proof

/-! ### Cells (17 R387) -/

/-- Bytes written. -/
def nvmPut (s : State) (a : Nat) (bs : List Byte) : State :=
  { s with nvc := { s.nvc with nvm := mwrite nvmDefault s.nvc.nvm a (bs.map some) } }

/-- A sector erased: its bytes read 0xFF and none of its words is bad. -/
def nvmErase (s : State) (k : Nat) : State :=
  { s with nvc := { s.nvc with nvm := s.nvc.nvm.filter (fun p => p.1 / 4096 != k), bad := s.nvc.bad.filter (· / 512 ≠ k) } }

/-- n bytes of whole words left in an unknown state (17 R391): free bytes, and a free mark of a bad word for each. -/
def nvmUnknown (s : State) (a n : Nat) : State :=
  let (s1, x) := takeFree s (n + n / 8)
  let marks := ((List.range (n / 8)).filter fun k => x.testBit (8 * (n + k))).map (· + a / 8)
  let s2 := nvmPut s1 a (toBytes n x)
  { s2 with nvc := { s2.nvc with bad := s2.nvc.bad.filter (fun w => decide (8 * w + 8 ≤ a ∨ a + n ≤ 8 * w)) ++ marks } }

/-- n bytes from a, none when a word among them is uncorrectable. -/
def nvmRead (s : State) (a n : Nat) : Option (List Byte) :=
  if s.nvc.bad.any fun w => decide (8 * w < a + n ∧ a < 8 * w + 8) then none else some (mslice nvmDefault s.nvc.nvm a n)

/-- The lock bit of the key area (17 R396). -/
def keyLocked (s : State) : Bool := (nvmRead s 0xF4080 4).all fun b => leNat b != 0xFFFFFFFF

/-- KEYLOCK follows the lock bit. -/
def noteLock (s : State) : State := { s with nvc := { s.nvc with keylock := keyLocked s } }

/-! ### Records (17 R392-R394, R402) -/

/-- A little-endian word of a byte list. -/
def wordAt (bs : List Byte) (o : Nat) : Nat := leNat ((bs.drop o).take 4)

/-- The SEQ of a record with the magic given whose CRC, over the bytes from 0x10 on, matches. -/
def recordSeq (magic : List Byte) (bs : List Byte) : Option Nat :=
  if bs.take 4 = magic ∧ wordAt bs 0xC = (crc32c (bs.drop 0x10)).toNat then some (wordAt bs 4) else none

def setMagic : List Byte := [0x53, 0x45, 0x54, 0x47]
def tagMagic : List Byte := [0x54, 0x41, 0x47, 0x53]

/-- The settings record in sector k of 16, and its SEQ. -/
def settingsAt (s : State) (k : Nat) : Option (Nat × List Byte) :=
  (nvmRead s (0xC0000 + 4096 * k) 4096).bind fun bs => (recordSeq setMagic bs).map (·, bs)

/-- Tag image k, and its SEQ. -/
def tagImage (s : State) (k : Nat) : Option (Nat × List Byte) :=
  (nvmRead s (0xD0000 + 0x2000 * k) 0x2000).bind fun bs => (recordSeq tagMagic bs).map (·, bs)

/-- A record of the magic given, before its SEQ and CRC are known. -/
def record (magic : List Byte) (seq : Nat) (body : List Byte) : List Byte :=
  magic ++ toBytes 4 seq ++ toBytes 4 0 ++ toBytes 4 (crc32c body).toNat ++ body

/-- A log record as it stands in the ring (17 R402). -/
def logBytes (num : Word) (x : LogRec) : List Byte :=
  let b := toBytes 4 num.toNat ++ toBytes 8 x.time.toNat ++ [x.code, x.unit, x.state.setWidth 8, 0] ++ toBytes 8 x.detail.toNat ++
    toBytes 4 0
  b ++ toBytes 4 (crc32c b).toNat

/-- The number of the valid log record in place k of the ring. -/
def logNumAt (s : State) (k : Nat) : Option Nat :=
  (nvmRead s (0xD4000 + 32 * k) 32).bind fun bs =>
    if wordAt bs 28 = (crc32c (bs.take 28)).toNat then some (wordAt bs 0) else none

/-- An interrupted or failed write leaves a record that is not valid (17 R393, R394): where the unknown bytes happen to make one,
its first byte is not the magic's. -/
def unvalidate (s : State) (a : Nat) (valid : State → Bool) : State := if valid s then nvmPut s a [0xFF] else s

/-! ### Transfers of master 72 (12 R471) -/

/-- n bytes from offset o, cut at 8-byte words. -/
def cutWords (o n : Nat) : Nat → List (Nat × Nat)
  | 0 => []
  | fuel + 1 => if n = 0 then [] else let k := min n (8 - o % 8); (o, k) :: cutWords (o + k) (n - k) fuel

/-- Scratchpad bytes read word by word: those read before a refusal, and whether all were. -/
def nvcFetch : List (Nat × Nat) → State → List Byte → State × List Byte × Bool
  | [], s, got => (s, got, true)
  | (o, n) :: r, s, got =>
    match mstRead s 72 .every o n with
    | (s1, some bs) => nvcFetch r s1 (got ++ bs)
    | (s1, none) => (s1, got, false)

def nvcGet (s : State) (o n : Nat) : State × List Byte × Bool := nvcFetch (cutWords o n n) s []

/-- Scratchpad bytes written word by word, up to a refusal. -/
def nvcStore : List (Nat × Nat) → State → List Byte → State × Bool
  | [], s, _ => (s, true)
  | (o, n) :: r, s, bs =>
    match mstWrite s 72 .every o ((bs.take n).map some) none with
    | .done s1 => nvcStore r s1 (bs.drop n)
    | .refused s1 => (s1, false)
    | .bad s1 => (s1, false)
    | .held s1 => (s1, false)

def nvcSet (s : State) (o : Nat) (bs : List Byte) : State × Bool := nvcStore (cutWords o bs.length bs.length) s bs

/-! ### Operands (17 R389, R390, R394, R395) -/

/-- Offset in a tag image and size of an entry. -/
def tagEntry (n : Nat) : Option (Nat × Nat) :=
  if n = 0 then some (0x10, 256)
  else if n ≤ 64 then some (0x110 + 64 * (n - 1), 64)
  else if n ≤ 68 then some (0x1110 + 64 * (n - 65), 64)
  else if n ≤ 72 then some (0x1210 + 64 * (n - 69), 64)
  else if n = 73 then some (0x1310, 64)
  else none

/-- The areas an ERASE or PROGRAM may not target: settings, tags, the reserved area. -/
def noTarget (a : Nat) : Bool := decide ((0xC0000 ≤ a ∧ a < 0xD4000) ∨ 0xF8000 ≤ a)
def keyArea (a : Nat) : Bool := decide (0xF4000 ≤ a ∧ a < 0xF8000)

/-- Instance i may write the tag entry n: an engine's of its current set. -/
def ownTag (s : State) (i n : Nat) : Bool := decide (1 ≤ n ∧ n ≤ 64) && (insGet s i).eng.getLsbD (n - 1)

/-- A command that performs nothing. -/
def NvmCmd.idle (c : NvmCmd) : Bool := (c.op == .erase || c.op == .program || (c.op == .read && c.slot.isNone)) && c.len == 0

/-- The first error of a command's operands: 1 RANGE, 2 LOCKED, 3 NOTERASED. -/
def operandErr (s : State) (c : NvmCmd) : BitVec 4 :=
  if c.idle then 0
  else if c.op = .tagw ∨ c.slot.isSome then
    if (tagEntry c.tagsel).isNone then 1
    else if c.op = .tagw && c.slot.any fun i => !ownTag s i.val c.tagsel then 2
    else 0
  else if c.op = .store ∨ c.op = .lock then 0
  else if c.addr % 4 ≠ 0 ∨ c.len % 4 ≠ 0 ∨ c.spoff % 4 ≠ 0 ∨ (c.op ≠ .erase ∧ 0x100000 < c.addr + c.len) ∨
      (c.op = .program ∧ c.addr / 4096 ≠ (c.addr + c.len - 1) / 4096) ∨ (c.op ≠ .read ∧ noTarget c.addr) then 1
  else if c.op ≠ .read ∧ keyArea c.addr ∧ keyLocked s then 2
  else if c.op = .program && (nvmRead s c.addr c.len).all fun bs => bs.any (· ≠ 0xFF#8) then 3
  else 0

/-! ### Effects -/

/-- The Weave slot from which the running Weave was loaded loses its plans (17 R390). -/
def notePlans (s : State) (a : Nat) : State :=
  let slot : BitVec 2 := if a < 0x60000 then 0 else 1
  if a < 0xC0000 ∧ s.wvl.full ∧ s.wvl.srcused = slot then { s with hlt := { s.hlt with noplans := true } } else s

/-- The sector of settings that the next STORE writes: of the copy that does not hold the current record, the next in rotation. -/
def storeSector (s : State) : Nat := if s.nvc.setcur then s.nvc.rot0 else 8 + s.nvc.rot1

/-- The tag image that the next TAGW writes. -/
def tagOther (s : State) : Nat := if s.nvc.tagcur then 0 else 1

/-- The bytes of the current tag image from 0x10 on; entries read 0xFF without one; none when a word is uncorrectable. -/
def tagBody (s : State) : Option (List Byte) :=
  if s.nvc.tagvalid then (nvmRead s (if s.nvc.tagcur then 0xD2000 else 0xD0000) 0x2000).map (·.drop 0x10)
  else some (List.replicate 0x1340 0xFF#8 ++ List.replicate 0xCB0 0#8)

/-- STORE (17 R392, R393). -/
def runStore (s : State) (c : NvmCmd) (verify : Bool) : State × BitVec 4 :=
  let k := storeSector s
  let a := 0xC0000 + 4096 * k
  let seq := s.nvc.setseq + 1
  let body := (List.range 1020).flatMap fun w => toBytes 4 (tget 0 c.image (w + 4)).toNat
  let s1 := nvmPut (nvmErase s (0xC0 + k)) a (record setMagic seq.toNat body)
  let s2 := { s1 with nvc := { s1.nvc with rot0 := if k < 8 then (k + 1) % 8 else s1.nvc.rot0
                                           rot1 := if 8 ≤ k then (k - 7) % 8 else s1.nvc.rot1 } }
  if verify then ({ s2 with nvc := { s2.nvc with setseq := seq, setcur := decide (8 ≤ k) } }, 0)
  else (unvalidate (nvmUnknown s2 a 4096) a fun t => (settingsAt t k).isSome, 4)

/-- ERASE (17 R389). -/
def runErase (s : State) (c : NvmCmd) : State × BitVec 4 := (noteLock (notePlans (nvmErase s (c.addr / 4096)) c.addr), 0)

/-- PROGRAM (17 R389, R390): the words whose data arrived are programmed. -/
def runProgram (s : State) (c : NvmCmd) (verify : Bool) : State × BitVec 4 :=
  let (s1, bs, ok) := nvcGet s c.spoff c.len
  let s2 := if verify then nvmPut s1 c.addr bs else nvmUnknown s1 (c.addr / 8 * 8) (8 * ((c.addr + bs.length + 7) / 8 - c.addr / 8))
  (noteLock (if bs.isEmpty then s1 else notePlans s2 c.addr), if !ok then 5 else if verify then 0 else 4)

/-- READ (17 R389, R390): the words before an uncorrectable one are written. -/
def runRead (s : State) (c : NvmCmd) : State × BitVec 4 :=
  let n := (s.nvc.bad.filter fun w => decide (8 * w < c.addr + c.len ∧ c.addr < 8 * w + 8)).foldl
    (fun n w => min n (8 * w - c.addr)) c.len
  let (s1, ok) := nvcSet s c.spoff (mslice nvmDefault s.nvc.nvm c.addr n)
  (s1, if !ok then 5 else if n < c.len then 6 else 0)

/-- READ of a tag entry for a slot (17 R395): the words of the entry before an uncorrectable one are written (17 R390). Entries read 0xFF
without an image. -/
def runTagRead (s : State) (c : NvmCmd) : State × BitVec 4 :=
  match tagEntry c.tagsel with
  | none => (s, 6)
  | some (o, n) =>
    let a := (if s.nvc.tagcur then 0xD2000 else 0xD0000) + o
    let k := if !s.nvc.tagvalid then n
      else (s.nvc.bad.filter fun w => decide (8 * w < a + n ∧ a < 8 * w + 8)).foldl (fun k w => min k (8 * w - a)) n
    let bs := if s.nvc.tagvalid then mslice nvmDefault s.nvc.nvm a k else List.replicate n 0xFF#8
    let (s1, ok) := nvcSet s c.spoff bs
    (s1, if !ok then 5 else if k < n then 6 else 0)

/-- TAGW (17 R394). -/
def runTagw (s : State) (c : NvmCmd) (verify : Bool) : State × BitVec 4 :=
  match tagBody s, tagEntry c.tagsel with
  | some b, some (o, n) =>
    let (s1, e, ok) := nvcGet s c.spoff n
    if !ok then (s1, 5)
    else
      let k := tagOther s1
      let a := 0xD0000 + 0x2000 * k
      let seq := if s1.nvc.tagvalid then ((tagImage s1 (1 - k)).map (·.1)).getD 0 else 0
      let img := record tagMagic ((seq + 1) % 2 ^ 32) (b.take (o - 0x10) ++ e ++ b.drop (o - 0x10 + n))
      let s2 := nvmPut (nvmErase (nvmErase s1 (a / 4096)) (a / 4096 + 1)) a img
      if verify then ({ s2 with nvc := { s2.nvc with tagvalid := true, tagcur := k == 1 } }, 0)
      else (unvalidate (nvmUnknown s2 a 0x2000) a fun t => (tagImage t k).isSome, 4)
  | _, _ => (s, 6)

/-- LOCK (17 R396). -/
def runLock (s : State) (verify : Bool) : State × BitVec 4 :=
  if keyLocked s then (noteLock s, 0)
  else if verify then (noteLock (nvmPut s 0xF4080 [0, 0, 0, 0]), 0)
  else (noteLock (nvmUnknown s 0xF4080 8), 4)

/-- A command whose operands are in order. -/
def nvmRun (s : State) (c : NvmCmd) (verify : Bool) : State × BitVec 4 :=
  if c.idle then (s, 0)
  else match c.op with
  | .store => runStore s c verify
  | .erase => runErase s c
  | .program => runProgram s c verify
  | .read => if c.slot.isSome then runTagRead s c else runRead s c
  | .tagw => runTagw s c verify
  | .lock => runLock s verify

/-! ### Commands begin and end (17 R389, R391, R395) -/

def nvcErr (s : State) : State := fresh { s with nvc := { s.nvc with cfgerr := true } } 0x2004 2

/-- A command begins with the operands it took. -/
def nvcBegin (s : State) (c : NvmCmd) : State :=
  { s with nvc := { s.nvc with busy := true, cmd := some { c with err := operandErr s c } } }

/-- A write of `NVC.CMD` that names a command. -/
def nvcCmd (s : State) (op : NvmOp) : State :=
  let n := s.nvc
  if n.busy then nvcErr s
  else nvcBegin s { op := op, addr := n.addr.toNat, len := n.len.toNat, spoff := n.spoff.toNat, tagsel := n.tagsel.toNat
                    slot := none, image := if op = .store then n.shadow else [], err := 0 }

/-- STORE (17 R392). -/
def execStore (s : State) : Host.Outcome State Fault Refusal := when (clkOn s .mgclk) s (nvcCmd s .store)
/-- ERASE (17 R389). -/
def execErase (s : State) : Host.Outcome State Fault Refusal := when (clkOn s .mgclk) s (nvcCmd s .erase)
/-- PROGRAM (17 R389). -/
def execProgram (s : State) : Host.Outcome State Fault Refusal := when (clkOn s .mgclk) s (nvcCmd s .program)
/-- READ (17 R389). -/
def execRead (s : State) : Host.Outcome State Fault Refusal := when (clkOn s .mgclk) s (nvcCmd s .read)
/-- TAGW (17 R394). -/
def execTagw (s : State) : Host.Outcome State Fault Refusal := when (clkOn s .mgclk) s (nvcCmd s .tagw)
/-- LOCK (17 R396). -/
def execLock (s : State) : Host.Outcome State Fault Refusal := when (clkOn s .mgclk) s (nvcCmd s .lock)

/-- The offset of instance i's request slot. -/
def slotOff (s : State) (i : Nat) : Nat := s.nvc.treqbase.toNat + 320 * i

/-- A slot's command word: OP, TAGSEL, GO. -/
def slotGo (w : Nat) : Bool := w.testBit 31

/-- A slot's command ends: the status word is written and GO cleared, both in the slot's first 8 bytes. -/
def slotEnd (s : State) (i : Nat) (status : Nat) : State :=
  match mstRead s 72 .every (slotOff s i) 4 with
  | (s1, some bs) =>
    match mstWrite s1 72 .every (slotOff s i)
        ([none, none, none, some ((bs.getD 3 0) &&& 0x7F#8)] ++ (toBytes 4 status).map some) none with
    | .done s2 => s2
    | .refused s2 => s2
    | .bad s2 => s2
    | .held s2 => s2
  | (s1, none) => s1

/-- The poll reads the granted slots in order and begins the first command it finds; an OP that is none begins nothing, with a
status the manual does not state. -/
def pollSlots : List Nat → State → State
  | [], s => s
  | i :: r, s =>
    if !s.nvc.taggrant.getLsbD i then pollSlots r s
    else match mstRead s 72 .every (slotOff s i) 4 with
      | (s1, none) => pollSlots r s1
      | (s1, some bs) =>
        let w := leNat bs
        let go := fun op => nvcBegin s1 { op := op, addr := 0, len := 0, spoff := slotOff s i + 64, tagsel := w / 256 % 128
                                          slot := some (Fin.ofNat 64 i), image := [], err := 0 }
        if !slotGo w then pollSlots r s1
        else if w % 256 = 0x78 then go .tagw
        else if w % 256 = 0x96 then go .read
        else
          let (s2, st) := takeFree (nvcErr s1) 4
          pollSlots r (slotEnd s2 i st)

/-- TAG_REQUEST_POLL (17 R395): between commands. -/
def execTagRequestPoll (s : State) : Host.Outcome State Fault Refusal :=
  when (clkOn s .mgclk && fclkOn s && !s.nvc.busy && s.nvc.treqen) s (pollSlots (List.range 64) s)

/-- A command ends: BUSY, DONE, ERR, source 362, and log code 11 for an error. -/
def nvcEnd (s : State) (err : BitVec 4) : State :=
  let s1 := raiseSrc (fresh { s with nvc := { s.nvc with busy := false, done := true, err := err, cmd := none } } 0x2004 1) 362
  if err = 0 then s1 else logPut s1 11 none (some err.toNat)

/-- NVM_COMMAND_COMPLETE (17 R389): the running command performs and ends. `verify` says whether the cells it programmed hold. -/
def execNvmCommandComplete (verify : Bool) (s : State) : Host.Outcome State Fault Refusal :=
  happens s (match s.nvc.cmd with
    | none => s
    | some c =>
      if !clkOn s .mgclk || ((c.op == .program || c.op == .read || c.op == .tagw) && !fclkOn s) then s
      else
        let (s1, err) := if c.err = 0 then nvmRun s c verify else (s, c.err)
        match c.slot with
        | none => nvcEnd s1 err
        | some i =>
          let s2 := nvcEnd (slotEnd s1 i.val err.toNat) err
          if s2.nvc.treqen then pollSlots ((List.range 64).drop (i.val + 1)) s2 else s2)

/-- A reset, or the loss of supply, ends a running command: a sector that it erases or programs is unknown (17 R391, 19 R432). -/
def nvcCut (s : State) : State :=
  let end_ := fun (s : State) => { s with nvc := { s.nvc with busy := false, cmd := none } }
  match s.nvc.cmd with
  | none => s
  | some c =>
    if c.err ≠ 0 || c.idle then end_ s
    else end_ (match c.op with
      | .store =>
        let k := storeSector s
        let a := 0xC0000 + 4096 * k
        unvalidate (nvmUnknown s a 4096) a fun t => (settingsAt t k).isSome
      | .erase | .program => nvmUnknown s (c.addr / 4096 * 4096) 4096
      | .read => s
      | .tagw =>
        let k := tagOther s
        let a := 0xD0000 + 0x2000 * k
        unvalidate (nvmUnknown s a 0x2000) a fun t => (tagImage t k).isSome
      | .lock => if keyLocked s then s else nvmUnknown s 0xF4000 4096)

/-! ### Settings shadow (17 R392, R393) -/

/-- A write of the shadow: words 0-3 ignore it. -/
def setWrite (s : State) (w : Nat) (v : Word) : State :=
  if w < 4 then nvcErr s else { s with nvc := { s.nvc with shadow := tset 0 s.nvc.shadow w v } }

/-- NVC_SET_WRITE (17 R392). -/
def execNvcSetWrite (w : Fin 1024) (v : Word) (s : State) : Host.Outcome State Fault Refusal :=
  when (clkOn s .mgclk) s (setWrite s w.val v)

/-! ### The health log (17 R402) -/

/-- HEALTH_LOG_APPEND (17 R391, R402): the oldest record queued is written; a sector is erased before its first record. -/
def execHealthLogAppend (ok : Bool) (s : State) : Host.Outcome State Fault Refusal :=
  happens s (match s.hlt.logq with
    | [] => s
    | x :: r =>
      if !clkOn s .mgclk || s.nvc.busy then s
      else
        let num := s.hlt.lognum
        let k := num.toNat % 4096
        let a := 0xD4000 + 32 * k
        let s1 := { s with hlt := { s.hlt with logq := r, lognum := num + 1 } }
        let s2 := if k % 128 = 0 then nvmErase s1 (a / 4096) else s1
        if ok then raiseIf s.hlt.logev (nvmPut s2 a (logBytes num x)) 366
        else
          let s3 := if k % 128 = 0 then nvmUnknown s2 a 4096 else nvmUnknown s2 a 32
          fresh { s3 with hlt := { s3.hlt with logerr := true } } 0x70000 7)

end Sys2Proof.Machine
end

