-- ==== Sys2Proof/Machine/Repair.lean ====
section
/-! DEFINITION. Errors, thresholds and retirements (17 R397-R401, R406).
What is DEDUCED or a DESIGN CHOICE here is said in notes/assumptions, log 17. -/

namespace Sys2Proof.Machine

open Sys2Proof

/-! ### Engines (17 R400) -/

/-- An engine ends issue at its boundary, its committed stores stay, and its presentation is withdrawn. Not a stop: no source 361. -/
def retireStop (s : State) (e : Eng) : State :=
  let g := xinvAct (discard (engGet s e))
  withdraw (engPut s e { g with retired := true, lrPend := none, st := if g.st = .unreleased then g.st else .stopped }) e

/-- Engine e is retired: source 365, log codes 1 and 2, a health message. `count` is the error count that decided it, if one did. -/
def retireUnit (s : State) (e : Eng) (count : Option Nat) : State :=
  let s1 := retireStop { s with hlt := { s.hlt with retired := setBit s.hlt.retired e.val true } } e
  retireNote (raiseSrc s1 365) 2 e.val count

/-- A retirement while the Weave runs forms the new key, one for those of a cycle (17 R400). -/
def retireEngine (s : State) (e : Eng) (count : Option Nat) : State :=
  if !engExists s e.val || s.hlt.retired.getLsbD e.val then s else
    let s1 := retireUnit s e count
    { s1 with cyc := { s1.cyc with key := true } }

/-- The key that the retirements of the cycle that ends form. -/
def endKey (s : State) : State := if s.cyc.key then newKey { s with cyc := { s.cyc with key := false } } else s

/-- An MGCLK cycle ends. -/
def endMg (s : State) : State :=
  let t := clearNow (endKey s)
  { t with cyc := { t.cyc with clear := false, crossed := false } }

/-- The conditions of 17 R399 under which an engine is retired. -/
def retireDue (s : State) (e : Eng) : Bool :=
  (s.hlt.retthr != 0 && s.hlt.retthr.ult (tget 0 s.hlt.cecnt e.val)) || decide (2 ≤ (engGet s e).mcCount)

/-- ENGINE_RETIREMENT (17 R399, R400): an engine that meets the conditions is retired. -/
def execEngineRetirement (e : Eng) (s : State) : Host.Outcome State Fault Refusal :=
  when (clkOn s .mgclk && fclkOn s && retireDue s e) s
    (retireEngine s e (if s.hlt.retthr.ult (tget 0 s.hlt.cecnt e.val) then some (tget 0 s.hlt.cecnt e.val).toNat else none))

/-- A write of `HLT.RETIRE` (17 R406). -/
def retireWrite (s : State) (v : Word) : State :=
  let e : Eng := Fin.ofNat 64 (fld v 0 6).toNat
  if !engExists s e.val || s.hlt.retired.getLsbD e.val then hltErr s
  else if v.getLsbD 31 then retireEngine s e none else s

/-- HLT_RETIRE (17 R400). -/
def execHltRetire (v : Word) (s : State) : Host.Outcome State Fault Refusal := when (clkOn s .mgclk) s (retireWrite s v)

/-! ### Corrected errors (17 R399) -/

/-- A count goes up by one and crosses a threshold. -/
def passes (thr old new : Half) : Bool := thr != 0 && !thr.ult old && thr.ult new

/-- One more corrected error of engine e. -/
def countEngine (s : State) (e : Eng) : State :=
  if s.hlt.cewin = 0 then s
  else
    let old := tget 0 s.hlt.cecnt e.val
    let new := satAdd old 1
    let s1 := { s with hlt := { s.hlt with cecnt := tset 0 s.hlt.cecnt e.val new } }
    let s2 := if passes s.hlt.cethr old new then crossing s1 e.val new.toNat else s1
    if passes s.hlt.retthr old new then retireEngine s2 e (some new.toNat) else s2

/-- One more corrected error of bank b. -/
def countBank (s : State) (b : Nat) : State :=
  if s.hlt.cewin = 0 then s
  else
    let old := tget 0 s.hlt.bank b
    let new := satAdd old 1
    let s1 := { s with hlt := { s.hlt with bank := tset 0 s.hlt.bank b new } }
    if passes s.hlt.cethr old new then crossing s1 b new.toNat else s1

/-- CORRECTED_ERROR (17 R399). -/
def execCorrectedError (unit : CeUnit) (s : State) : Host.Outcome State Fault Refusal :=
  when (clkOn s .mgclk) s (match unit with
    | .engine e => countEngine s e
    | .bank b => countBank s b.val)

/-- HEALTH_WINDOW_END (17 R399): counts restart. -/
def execHealthWindowEnd (s : State) : Host.Outcome State Fault Refusal :=
  when (clkOn s .mgclk && s.hlt.cewin != 0) s
    (s.eng.foldl (fun s p => engPut s (Fin.ofNat 64 p.1) { engGet s (Fin.ofNat 64 p.1) with mcCount := 0 })
      { s with hlt := { s.hlt with cecnt := [], bank := [] } })

/-- HLT_CTL_CLEAR (17 R406). -/
def execHltCtlClear (s : State) : Host.Outcome State Fault Refusal := when (clkOn s .mgclk) s (healthClear s)

/-! ### Bank words (17 R401) -/

/-- A word moves to a spare word of its bank, or stays in service when none is left. -/
def retireWord (s : State) (w : Nat) : State :=
  let b := w % 64
  let c := s.spc
  let s1 := { s with spc := { c with scrubHit := c.scrubHit.filter (· ≠ w), scrubTwo := c.scrubTwo.filter (· ≠ w)
                                     remade := c.remade.filter (· ≠ w) } }
  let used := tget 0 s.hlt.spares b
  if used.toNat < 16 then
    retireNote (pmuAdd { s1 with hlt := { s1.hlt with spares := tset 0 s1.hlt.spares b (used + 1), wordRetired := true } } 598 1)
      3 b none
  else logPut (fresh { s1 with hlt := { s1.hlt with nospare := true } } 0x70000 8) 3 (some b) none

/-- BANK_WORD_RETIREMENT (17 R401): the two cases of the rule, or a word that BIST found, which BIST retires itself. -/
def execBankWordRetirement (word : BitVec 21) (cause : SpareCause) (s : State) : Host.Outcome State Fault Refusal :=
  let w := word.toNat
  let due := match cause with
    | .twoScrubs => s.spc.scrubTwo.contains w
    | .rewritten => s.spc.remade.contains w
    | .bist => s.cpx.step == 3 && s.cpx.bistrun
  when (clkOn s .mgclk && fclkOn s && due) s (retireWord s w)

/-! ### Uncorrectable and parity errors (17 R397) -/

/-- A list without the entry at a place. -/
def dropAt {α : Type} (l : List α) (n : Nat) : List α := l.take n ++ l.drop (n + 1)

def memPut (s : State) (e : Eng) (f : EngMem → EngMem) : State :=
  let g := engGet s e
  engPut s e { g with m := f g.m }

/-- A D-cache line with an uncorrectable error (11 R261). -/
def dcacheBad (s : State) (e : Eng) (frame : Nat) : State :=
  match tfind (engGet s e).m.dc frame with
  | none => s
  | some c =>
    let s1 := memPut s e fun m => { m with dc := tdel m.dc frame }
    if c.dirty = 0 then countEngine s1 e else mcheckPut s1 e 1

/-- The transaction under an ID of port n completes as uncorrectable data: what came for it was spoilt in the crossbar. -/
def pathBad (s : State) (n : Nat) (id : BitVec 8) : State :=
  let x := mptGet s n
  match outstanding x id with
  | none => s
  | some q =>
    let s1 := mptPut s n { x with out := x.out.filter fun r => r.id != q.id }
    if q.timedOut then s1 else ownerDone s1 q none

/-- UNCORRECTABLE_ERROR (17 R397): the outcome of its structure. In the path of a bank it spoils what the last SCRATCHPAD_ACCESS returned to
the master, or else what its next read there returns. -/
def execUncorrectableError (what : UeWhat) (s : State) : Host.Outcome State Fault Refusal :=
  .next (match what with
    | .scratchpad w => if s.power then spoil s w.toNat else s
    | .icache e f =>
      if eclkOn s && (tfind (engGet s e).m.ic f.val).isSome then
        countEngine (memPut s e fun m => { m with ic := tdel m.ic f.val }) e
      else s
    | .dcache e f => if eclkOn s then dcacheBad s e f.val else s
    | .engineSram e => if eclkOn s && engExists s e.val then mcheckPut s e 1 else s
    | .tlb e k n =>
      if !eclkOn s then s
      else countEngine (memPut s e fun m =>
        if k = 0 then { m with itlb := dropAt m.itlb n.val }
        else if k = 1 then { m with dtlb := dropAt m.dtlb n.val }
        else { m with tlb2 := tset [] m.tlb2 (n.val / 4) (dropAt (tget [] m.tlb2 (n.val / 4)) (n.val % 4)) }) e
    | .predictor e target n =>
      if !eclkOn s then s
      else countEngine (memPut s e fun m =>
        if target then { m with tbuf := tset [] m.tbuf (n.val / 4) (dropAt (tget [] m.tbuf (n.val / 4)) (n.val % 4)) }
        else { m with dirp := tdel m.dirp n.val }) e
    | .enginePath e => if eclkOn s && engExists s e.val then countEngine (mcheckPut s e 2) e else s
    | .bankPath b m =>
      if !fclkOn s then s
      else
        let c := s.spc
        countBank { s with spc := if c.served.any (·.1 == m) then { c with served := c.served.map fun q => if q.1 = m then (m, none) else q }
          else { c with paths := c.paths ++ [(b.val, m.toNat)] } } b.val
    | .portPath n id => if fclkOn s then pathBad s n.val id else s
    | .ledger g k =>
      match ledgerFind s g k with
      | some x => if fclkOn s then ledgerDel s x.id else s
      | none => s
    | .retry p => if portOn s p && (ibfGet s p.val).st == .active then enterTrain s p.val else s
    | .nvm w => if s.power && !s.nvc.bad.contains w.toNat then { s with nvc := { s.nvc with bad := w.toNat :: s.nvc.bad } } else s)

end Sys2Proof.Machine
end

