-- ==== Sys2Proof/Machine/StartUp.lean ====
section
/-! DEFINITION. Resets, the start-up order, deep idle, engine release and run control (19 R418-R435; 10 R240, R243).
What is DEDUCED or a DESIGN CHOICE here is said in notes/assumptions, log 12 and 19. -/

namespace Sys2Proof.Machine

open Sys2Proof

/-! ### Resets (19 R418-R421) -/

/-- The role a reset or a settings record gives the twin engine (15 R345, R363). -/
def roleAtReset (t : Twn) (role : BitVec 2) : Twn := { t with role := role, st := if role = 0 then .none_ else .wait }

/-- The block at its reset values in step 1, which needs AONCLK (20 R448), with the straps sampled. What stands outside the block or only in the model stays: the
queue, the clocks, the levels on EV_IN, the count of free values, the last value read. -/
def resetWith (s : State) (straps : Straps) : State :=
  let r : State := {}
  let n : Nvc := {}
  { r with
    pending := s.pending, stopped := s.stopped, freeCtr := s.freeCtr, lastRead := s.lastRead
    nvc := { n with nvm := s.nvc.nvm, bad := s.nvc.bad }
    evg := { r.evg with input := s.evg.input }
    cpx := { r.cpx with straps := straps, devid := straps.devid, step := if s.stopped.contains .aonclk then 0 else 1 }
    wvl := { r.wvl with src := straps.boot }
    twn := roleAtReset r.twn straps.twin }

/-- PORESET_N (19 R418): a power-on reset; NVM contents survive, but for what a running command leaves unknown. -/
def execPoresetN (straps : Straps) (s : State) : Host.Outcome State Fault Refusal := .next (resetWith (nvcCut s) straps)

/-- What a warm reset keeps (19 R419), ports held in OFF until the next power-on reset among it (19 R422). -/
def warmReset (s : State) (straps : Straps) : State :=
  let r := resetWith s straps
  { r with
    tmr := { r.tmr with gtime := s.tmr.gtime }
    wvl := { r.wvl with src := s.wvl.src }
    cpx := { r.cpx with warm := true, wbist := s.cpx.wbist, bistDone := s.cpx.bistDone }
    spc := { r.spc with mem := s.spc.mem, bad := s.spc.bad, soft := s.spc.soft }
    ibf := (List.range 4).foldl (fun t p => if (ibfGet s p).dead then tset {} t p { dead := true, en := false } else t) [] }

/-- WRESET_N (19 R418, R419). -/
def execWresetN (straps : Straps) (s : State) : Host.Outcome State Fault Refusal := when s.power s (warmReset (nvcCut s) straps)

/-- POWER_LOSS (19 R432): nothing acts until the next power-on reset. -/
def execPowerLoss (s : State) : Host.Outcome State Fault Refusal := when s.power s { nvcCut s with power := false }

/-! ### Step 2 (17 R393, R394, R396, R402) -/

/-- The valid record with the highest SEQ among settings sectors, by its sector; the lower sector among equals. -/
def bestRecord (s : State) (ks : List Nat) : Option (Nat × Nat × List Byte) :=
  ks.foldl (fun b k =>
    match settingsAt s k, b with
    | some (q, bs), some (_, q1, _) => if q1 < q then some (k, q, bs) else b
    | some (q, bs), none => some (k, q, bs)
    | none, _ => b) none

/-- The next sector of a copy's rotation: after its newest record, 0 where it has none (log 12). -/
def rotationOf (s : State) (base : Nat) : Nat :=
  match bestRecord s ((List.range 8).map (· + base)) with
  | some (k, _, _) => (k - base + 1) % 8
  | none => 0

/-- The settings a record holds take effect. -/
def useSettings (s : State) (copy : Bool) (seq : Nat) (bs : List Byte) : State :=
  let w := fun o => wordAt bs o
  let pick := fun (o : Nat) (d : Half) => if w o % 65536 = 0 then d else BitVec.ofNat 16 (w o)
  let ident := w 0x10
  let s1 := { s with
    nvc := { s.nvc with setvalid := true, setcur := copy, setseq := BitVec.ofNat 32 seq
                        shadow := (List.range 1024).foldl (fun t k => tset 0 t k (BitVec.ofNat 32 (w (4 * k)))) [] }
    hlt := { s.hlt with cethr := pick 0x14 s.hlt.cethr, cewin := pick 0x18 s.hlt.cewin, retthr := pick 0x1C s.hlt.retthr } }
  let s2 := if ident.testBit 12 then
    { s1 with cpx := { s1.cpx with devid := BitVec.ofNat 12 ident, fromset := true } } else s1
  if ident.testBit 15 then { s2 with twn := roleAtReset s2.twn (BitVec.ofNat 2 (ident / 2 ^ 13)) } else s2

/-- The current tag image: the valid one with the higher SEQ. -/
def currentTags (s : State) : Option Bool :=
  match tagImage s 0, tagImage s 1 with
  | some (a, _), some (b, _) => some (decide (a < b))
  | some _, none => some false
  | none, some _ => some true
  | none, none => none

/-- NUM of the next log record: one more than the highest valid one. -/
def nextLogNum (s : State) : Word :=
  match (List.range 4096).foldl (fun b k =>
      match logNumAt s k, b with
      | some n, some m => some (max n m)
      | some n, none => some n
      | none, _ => b) (none : Option Nat) with
  | some n => BitVec.ofNat 32 (n + 1)
  | none => 0

/-- START_UP_NVM_READ (19 R420 step 2). -/
def execStartUpNvmRead (s : State) : Host.Outcome State Fault Refusal :=
  let s1 := { s with
    cpx := { s.cpx with step := 2, nvlock := (nvmRead s 0xF4084 4).all fun b => leNat b != 0xFFFFFFFF }
    nvc := { s.nvc with rot0 := rotationOf s 0, rot1 := rotationOf s 8, keylock := keyLocked s }
    hlt := { s.hlt with lognum := nextLogNum s } }
  let s2 := match currentTags s with
    | some c => { s1 with nvc := { s1.nvc with tagvalid := true, tagcur := c } }
    | none => s1
  when (clkOn s .mgclk && s.cpx.step == 1) s (
    match bestRecord s (List.range 16) with
    | some (k, q, bs) => useSettings s2 (decide (8 ≤ k)) q bs
    | none => s2)

/-! ### Step 3 (19 R421-R423) -/

/-- A failure's log record whose code the manual does not state: one of the codes that are written. -/
def bistLog (s : State) : State :=
  let (s1, x) := takeFree s 1
  logPut s1 (BitVec.ofNat 8 (1 + x % 11)) none none

/-- One failure that BIST found. -/
def bistFail (s : State) (f : BistFail) : State :=
  match f with
  | .word w => retireWord s w.toNat
  | .engine e =>
    if s.hlt.retired.getLsbD e.val then s
    else
      let s1 := retireUnit s e none
      { s1 with cpx := { s1.cpx with bisteng := setBit s1.cpx.bisteng e.val true } }
  | .retry p => bistLog (ibfPut s p.val { ibfGet s p.val with dead := true, en := false })
  | .other => bistLog { s with cpx := { s.cpx with bistfail := true } }

/-- The end of step 3: the Ibfel ports begin training, and the order may halt. -/
def endStep3 (s : State) : State :=
  let s1 := (List.range 4).foldl (fun s p => if (ibfGet s p).en && !(ibfGet s p).dead then enterTrain s p else s) s
  { s1 with cpx := { s1.cpx with testhold := s.cpx.straps.test } }

/-- BIST (19 R420 step 3, R422, R423): the march, or nothing at a warm reset that does not ask for it. -/
def execBist (fails : List BistFail) (s : State) : Host.Outcome State Fault Refusal :=
  let s1 := { s with cpx := { s.cpx with step := 3 } }
  when (fclkOn s && s.cpx.step == 2) s (
    if s.cpx.warm && s.cpx.bistDone && !s.cpx.wbist then endStep3 s1
    else
      let s2 := { s1 with cpx := { s1.cpx with bistrun := true, bistDone := true }, spc := { s1.spc with mem := [], bad := [], soft := [] } }
      endStep3 (fails.foldl bistFail s2))

/-- CPX_BOOTCTL_CONT (19 R421). -/
def execCpxBootctlCont (s : State) : Host.Outcome State Fault Refusal :=
  when (fclkOn s) s { s with cpx := { s.cpx with testhold := false } }

/-! ### Release and run control (19 R426, R430, R431) -/

/-- The registers of the boot state. -/
def bootRegs (pc boot : Word) (stamp : Option Half) : Regs := { pc := pc, sp := { lrvec := boot }, stamp := stamp }

/-- An engine's release. -/
def releaseEngine (s : State) (e : Eng) : State :=
  let g := engGet s e
  let boot := tget 0 s.wvl.boot e.val
  if engExists s e.val && !g.retired && g.st == .unreleased then
    engPut s e { g with st := .running, restartpc := boot, r := bootRegs boot boot (currentStamp s e none) }
  else s

/-- ENGINE_RELEASE (19 R426): at the first warp boundary after the hand-over. -/
def execEngineRelease (s : State) : Host.Outcome State Fault Refusal :=
  when (fclkOn s && eclkOn s && s.cpx.releaseDue && s.wvl.slot == 0 && s.wvl.frame != 0) s (
    let s1 := (List.finRange 64).foldl releaseEngine s
    { s1 with cpx := { s1.cpx with releaseDue := false } })

/-- A stopped engine in the boot state, with its pc at the old `ENG.RESTARTPC` (which then is BOOT): caches, predictors (the global
history and the predicted values too, 08 R181), vector registers, SSP and draining stores stay. -/
def restarted (s : State) (e : Eng) : Engine :=
  let g := engGet s e
  flushTlbs { g with
    st := .running, restartpc := tget 0 s.wvl.boot e.val
    r := { bootRegs g.restartpc (tget 0 s.wvl.boot e.val) (currentStamp s e none) with
      ghist := g.r.ghist, plink := g.r.plink, prtop := g.r.prtop }
    bank := false, other := none, lr := false, lrCtx := none, lrPend := none, gates := [], govf := false, refill := none
    mcheck := [], wdog := false, lbe := none, lbeOpen := false, longq := [], prods := [], div := none, vq := [], vprog := 0
    io := none, walk := none, wfault := none, fence := none, gload := false, gerr := [], wrong := none, cps := 0, anchor := none
    waits := false, ra := none }

/-- A write of RESTART. -/
def runRestart (s : State) (e : Eng) : State :=
  let g := engGet s e
  if g.st = .stopped ∧ !g.retired then reportMask (engPut s e (restarted s e)) e else cpxErr s

/-- A write of STOP. -/
def runStop (s : State) (e : Eng) : State :=
  let g := engGet s e
  if (g.st = .running ∨ g.st = .sleeping) ∧ !g.retired then
    let s1 := stopEngine s e g.r.sp.fcause
    engPut s1 e { engGet s1 e with lrstop := false }
  else cpxErr s

/-- ENG_RUNCTL_STOP (19 R430). -/
def execEngRunctlStop (e : Eng) (s : State) : Host.Outcome State Fault Refusal := when (eclkOn s) s (runStop s e)
/-- ENG_RUNCTL_RESTART (19 R431). -/
def execEngRunctlRestart (e : Eng) (s : State) : Host.Outcome State Fault Refusal := when (eclkOn s) s (runRestart s e)

/-! ### Deep idle (19 R427-R429, 10 R240) -/

/-- CPX_IDLE_REQ (19 R427). -/
def execCpxIdleReq (req : Bool) (s : State) : Host.Outcome State Fault Refusal :=
  when (fclkOn s) s { s with cpx := { s.cpx with idleReq := req } }

/-- Every condition of 19 R427 holds. -/
def idleReady (s : State) : Bool :=
  ((List.finRange 64).all fun e =>
    let g := engGet s e
    !engExists s e.val || g.retired || g.st == .stopped || (g.st == .sleeping && g.m.sb.isEmpty)) &&
  ((List.range 4).all fun p => (ibfGet s p).st == .off || (ibfGet s p).st == .down) &&
  s.twn.st == .none_ && !s.nvc.busy && s.cpx.commitq.isEmpty

/-- DEEP_IDLE_ENTRY (19 R427). -/
def execDeepIdleEntry (s : State) : Host.Outcome State Fault Refusal :=
  when (fclkOn s && s.cpx.idleReq && idleReady s) s { s with cpx := { s.cpx with deepIdle := true, wakeReq := false } }

def wakeUp (s : State) : State := { s with cpx := { s.cpx with wakeReq := true } }

/-- Comparators that the time from `old` to `new` passes (10 R243). -/
def passed (s : State) (old new : BitVec 64) : BitVec 4 :=
  (List.range 4).foldl (fun m k =>
    let c := tget 0 s.tmr.cmp k
    if c ≠ 0 ∧ old.toNat < c.toNat ∧ c.toNat ≤ new.toNat then setBit m k true else m) 0

/-- A level source with EN at 1 is asserted. -/
def anyLevel (s : State) : Bool := (List.range 256).any fun w => (srcGet s (w + 1)).en && asserted s (w + 1)

/-- An AONCLK cycle: the time goes on by 1,000, and an asserted level requests the wake. -/
def aonTick (s : State) : State :=
  let t := s.tmr.gtime + 1000
  let d := passed s s.tmr.gtime t
  let s1 := { s with tmr := { s.tmr with gtime := t, due := s.tmr.due ||| d } }
  let s2 := { s1 with evg := { s1.evg with retNow := 0 } }
  if d ≠ 0 ∨ anyLevel s2 then wakeUp s2 else s2

/-- A sample of a wire in deep idle (10 R240): an edge of SENSE 2-4 with EN at 1, the wire's first in its AONCLK period, is recorded in
retention and requests the wake, and so does an asserted level with EN at 1. -/
def aonSample (s : State) (w : BitVec 8) (l : Bool) : State :=
  let n := w.toNat + 1
  let x := srcGet s n
  let s1 := setInput s w.toNat l
  let v := s1.evg
  if s.evg.input.getLsbD w.toNat != l && !v.retNow.getLsbD w.toNat && x.en && qualifies x l then
    wakeUp { s1 with evg := { v with ret := v.ret ++ [w], retNow := setBit v.retNow w.toNat true } }
  else if x.en && asserted s1 n then wakeUp s1
  else s1

/-- AON_WAKE_REQUEST (10 R240, R243): what the AON domain sees in deep idle. -/
def execAonWakeRequest (what : WakeWhat) (s : State) : Host.Outcome State Fault Refusal :=
  when (clkOn s .aonclk && s.cpx.deepIdle) s (match what with
    | .tick => aonTick s
    | .level w l => aonSample s w l
    | .edge w r => aonSample s w r)

/-- Level sources whose input deasserted in deep idle leave service (10 R230). -/
def levelsOut (s : State) : State := (List.range 256).foldl (fun s w => levelOut s (w + 1)) s

/-- Edges recorded in retention become occurrences, in the order of their recording and one after the other. -/
def retained (s : State) : State :=
  s.evg.ret.foldl (fun s w => occur { s with cyc := { s.cyc with batches := [] } } (w.toNat + 1))
    (fresh { s with evg := { s.evg with ret := [], retNow := 0, retained := true } } 0x4000 2)

/-- WAKE (19 R429). -/
def execWake (s : State) : Host.Outcome State Fault Refusal :=
  when (clkOn s .aonclk && clkOn s .fclk && s.cpx.deepIdle && s.cpx.wakeReq) s
    (levelsOut (retained { s with
      cpx := { s.cpx with deepIdle := false, idleReq := false, wakeReq := false }
      wvl := { s.wvl with slot := 0 } }))

end Sys2Proof.Machine
end

