-- ==== Sys2Proof/Machine/Registers.lean ====
section
/-! DEFINITION. Register access in common, and the CPX, WVL, NVC, HLT, MPT, HPT and PMU registers (21 R463-R469; 02 R46, R52, R53;
17 R405, R406; 18 R417; 19 R434; 20 R457-R459).
What is DEDUCED or a DESIGN CHOICE here is said in notes/assumptions, log 18, 19 and 20. -/

namespace Sys2Proof.Machine

open Sys2Proof

/-! ### Access in common -/

/-- What an access to a register comes to: done, with what a read returns; no register there; or held. -/
inductive IoAns where
  | word (s : State) (v : Word)
  | unmapped
  | held (s : State)
  deriving DecidableEq, Repr

/-- A write done. -/
def IoAns.ok (s : State) : IoAns := .word s 0

/-- A Bool at bit k of a word. -/
def bitAt (b : Bool) (k : Nat) : Word := if b then BitVec.ofNat 32 (2 ^ k) else 0
/-- A field at bit k of a word. -/
def fieldAt {w : Nat} (x : BitVec w) (k : Nat) : Word := x.setWidth 32 <<< k

def lo64 (x : BitVec 64) : Word := fld x 0 32
def hi64 (x : BitVec 64) : Word := fld x 32 32
/-- Halves of a physical address: bits [31:0] and [43:32]. -/
def paLo (x : PAddr) : Word := fld x 0 32
def paHi (x : PAddr) : Word := (fld x 32 12).setWidth 32
def setPaLo (x : PAddr) (v : Word) : PAddr := fld x 32 12 ++ v
def setPaHi (x : PAddr) (v : Word) : PAddr := fld v 0 12 ++ fld x 0 32

/-- A bit of type W1C after a write. -/
def w1c (b : Bool) (v : Word) (k : Nat) : Bool := b && !v.getLsbD k

/-! ### CPX (02 R52, 19 R434, 20 R459, 21 R467, R468) -/

/-- The W1C bits that `CPX.ERRSUM` follows. -/
def errSum (s : State) : List Bool :=
  let mpt := fun n => let x := mptGet s n; x.cfgerr || x.err || x.tmo || x.late || x.proto
  [s.cpx.cfgerr || s.cpx.unmapped || s.cpx.unmulti,
   s.wvl.cfgerr,
   s.nvc.done || s.nvc.cfgerr,
   s.evg.cfgerr || s.evg.retained,
   s.spc.cfgerr || s.spc.coll || s.spc.viol || s.spc.uncorr || s.spc.logovf,
   s.che.stat != 0,
   (ibfGet s 0).err != 0, (ibfGet s 1).err != 0, (ibfGet s 2).err != 0, (ibfGet s 3).err != 0,
   s.twn.err != 0,
   s.ins.cfgerr,
   mpt 0, mpt 1, mpt 2, mpt 3,
   mpt 4 || s.hpt.terr,
   s.pmu.cfgerr || s.pmu.dumperr || s.pmu.drop,
   s.hlt.cfgerr || s.hlt.planlim || s.hlt.logovf || s.hlt.logerr || s.hlt.nospare]

/-- A list of bits as a word, bit 0 first. -/
def wordOfBits : List Bool → Nat → Word
  | [], _ => 0
  | b :: r, k => bitAt b k ||| wordOfBits r (k + 1)

def strapWord (x : Straps) : Word :=
  fieldAt x.devid 0 ||| fieldAt x.boot 12 ||| fieldAt x.twin 14 ||| fieldAt x.ratio 16 ||| bitAt x.safe 19 ||| bitAt x.test 20

def cpxRead (s : State) (o : Nat) : IoAns :=
  let c := s.cpx
  let w := s.wvl
  let ok := IoAns.word s
  if o = 0x00 then ok 0x00030001
  else if o = 0x04 then ok (bitAt c.cfgerr 0 ||| bitAt c.unmapped 1 ||| bitAt c.unmulti 2)
  else if o = 0x08 then ok c.unmaddr
  else if o = 0x0C then ok (fieldAt c.unmmst 0)
  else if o = 0x10 then ok (fieldAt c.devid 0 ||| bitAt c.fromset 12)
  else if o = 0x14 then ok (wordOfBits (errSum s) 0)
  else if o = 0x20 then ok (lo64 w.enable)
  else if o = 0x24 then ok (hi64 w.enable)
  else if o = 0x28 then ok (lo64 w.auxsel)
  else if o = 0x2C then ok (hi64 w.auxsel)
  else if o = 0x30 then ok (lo64 w.vecen)
  else if o = 0x34 then ok (hi64 w.vecen)
  else if o = 0x38 then ok (fieldAt w.poolbase 0)
  else if o = 0x3C then ok (fieldAt w.lrbase 0)
  else if o = 0x40 then ok (bitAt (!c.commitq.isEmpty) 16 ||| bitAt c.cerr 17 ||| bitAt c.covf 18 ||| fieldAt c.errgroup 20)
  else if o = 0x48 then ok (fieldAt (fld w.spwin 24 20) 0)
  else if o = 0x80 then
    ok (fieldAt c.step 0 ||| bitAt c.testhold 3 ||| bitAt c.warm 4 ||| bitAt c.bistrun 5 ||| bitAt c.bistfail 6)
  else if o = 0x84 then ok (bitAt c.wbist 1)
  else if o = 0x88 then ok (lo64 c.bisteng)
  else if o = 0x8C then ok (hi64 c.bisteng)
  else if o = 0x90 then ok (bitAt c.idleReq 0 ||| bitAt (c.idleReq && !idleReady s) 1)
  else if o = 0x94 then ok (strapWord c.straps)
  else if o = 0x98 then ok (bitAt c.taplock 0 ||| bitAt c.nvlock 1 ||| bitAt s.tap.busy 2)
  else .unmapped

/-- Offsets of CPX registers that are only read. -/
def cpxRo : List Nat :=
  [0x00, 0x08, 0x0C, 0x10, 0x14, 0x20, 0x24, 0x28, 0x2C, 0x30, 0x34, 0x38, 0x3C, 0x48, 0x80, 0x88, 0x8C, 0x94]

def cpxWrite (s : State) (o : Nat) (v : Word) : IoAns :=
  let c := s.cpx
  let put := fun (c : Cpx) => IoAns.ok { s with cpx := c }
  if o = 0x04 then put { c with cfgerr := w1c c.cfgerr v 0, unmapped := w1c c.unmapped v 1, unmulti := w1c c.unmulti v 2 }
  else if o = 0x40 then .ok (commitWrite s v)
  else if o = 0x84 then put { c with wbist := v.getLsbD 1, testhold := c.testhold && !v.getLsbD 0 }
  else if o = 0x90 then put { c with idleReq := v.getLsbD 0 }
  else if o = 0x98 then put { c with taplock := c.taplock || v.getLsbD 0 }
  else if cpxRo.contains o then .ok s
  else .unmapped

/-! ### WVL (02 R46, R53; 21 R469) -/

def txIndex (s : State) : Nat := 512 * s.wvl.txport.toNat + s.wvl.txidx.toNat

def wvlRead (s : State) (o : Nat) (staged : Bool) : IoAns :=
  let w := s.wvl
  let ok := IoAns.word s
  if o = 0x34 then ok (fieldAt (slotAt (if staged then w.warpStg else w.warp) w.tabidx.toNat w.slotidx.toNat) 0)
  else if o = 0x3C then ok (fieldAt (fld (tget txMin (if staged then w.txfStg else w.txf) (txIndex s)) 0 6) 0)
  else if o = 0x84 then ok (fieldAt (tget 0 (if staged then w.routesStg else w.routes) w.rtidx.toNat) 0)
  else if staged then .unmapped
  else if o = 0x00 then ok (fieldAt w.src 0 ||| bitAt w.load 2)
  else if o = 0x04 then
    ok (fieldAt w.state 0 ||| fieldAt w.srcused 4 ||| bitAt w.unpinned 6 ||| bitAt w.retried 7 ||| bitAt w.cfgerr 8 |||
      fieldAt w.err 12 ||| fieldAt w.section_ 16)
  else if o = 0x08 then ok (fieldAt w.erraddr 0)
  else if o = 0x0C then ok (fieldAt w.len 0)
  else if 0x10 ≤ o ∧ o < 0x20 then ok (fld w.buildid (8 * (o - 0x10)) 32)
  else if o = 0x20 then ok w.target
  else if o = 0x24 then ok (fieldAt w.timeout 0)
  else if o = 0x28 then ok (fieldAt w.plan 0)
  else if o = 0x2C then ok (fieldAt w.slot 0 ||| fieldAt w.frame 8)
  else if o = 0x30 then ok (fieldAt w.slotidx 0 ||| fieldAt w.tabidx 8)
  else if o = 0x38 then ok (fieldAt w.txidx 0 ||| fieldAt w.txport 9)
  else if o = 0x40 then ok 0
  else if 0x60 ≤ o ∧ o < 0x80 then ok (fld w.digest (8 * (o - 0x60)) 32)
  else if o = 0x80 then ok (fieldAt w.rtidx 0)
  else .unmapped

/-- An OWNER or LEND value that names no master. -/
def badMst (b : BitVec 8) : Bool := decide (74 ≤ b.toNat ∧ b.toNat ≤ 0xFE)

/-- A write of `WVL.SLOT`: each reserved value leaves its field. -/
def slotWrite (s : State) (v : Word) : State :=
  let w := s.wvl
  let old := slotAt w.warpStg w.tabidx.toNat w.slotidx.toNat
  let o : BitVec 8 := fld v 0 8
  let l : BitVec 8 := fld v 8 8
  let new : Half := (if badMst l then fld old 8 8 else l) ++ (if badMst o then fld old 0 8 else o)
  let s1 := { s with wvl := { w with warpStg := slotSet w.warpStg w.tabidx.toNat w.slotidx.toNat new } }
  if badMst o || badMst l then wvlErr s1 else s1

def wvlWrite (s : State) (o : Nat) (staged : Bool) (v : Word) : IoAns :=
  let w := s.wvl
  let put := fun (w : Wvl) => IoAns.ok { s with wvl := w }
  if o = 0x34 then .ok (slotWrite s v)
  else if o = 0x3C then
    let b : BitVec 8 := (fld v 0 6).setWidth 8
    if txBad b then .ok (wvlErr s) else put { w with txfStg := tset txMin w.txfStg (txIndex s) b }
  else if o = 0x84 then
    if routeBad (v &&& 0xFFFF#32) then .ok (wvlErr s) else put { w with routesStg := tset 0 w.routesStg w.rtidx.toNat (fld v 0 16) }
  else if staged then .unmapped
  else if o = 0x00 then .ok (wvlCtl s v)
  else if o = 0x04 then put { w with cfgerr := w1c w.cfgerr v 8 }
  else if o = 0x24 then put { w with timeout := fld v 0 16 }
  else if o = 0x30 then
    let t : BitVec 8 := fld v 8 8
    if 138 ≤ t.toNat then .ok (wvlErr { s with wvl := { w with slotidx := fld v 0 8 } })
    else put { w with slotidx := fld v 0 8, tabidx := t }
  else if o = 0x38 then put { w with txidx := fld v 0 9, txport := fld v 9 2 }
  else if o = 0x40 then .ok (wvlData s v)
  else if o = 0x80 then put { w with rtidx := fld v 0 12 }
  else match wvlRead s o false with
    | .word _ _ => .ok s
    | a => a

/-! ### NVC (17 R405) -/

/-- The command an OP names. -/
def nvmOpOf (b : BitVec 8) : Option NvmOp :=
  if b = 0x5A#8 then some .store else if b = 0x3C#8 then some .erase else if b = 0x69#8 then some .program
  else if b = 0x96#8 then some .read else if b = 0x78#8 then some .tagw else if b = 0xA5#8 then some .lock else none

def nvcRead (s : State) (o : Nat) : IoAns :=
  let n := s.nvc
  let ok := IoAns.word s
  if o = 0x00 then ok 0
  else if o = 0x04 then
    ok (bitAt n.busy 0 ||| bitAt n.done 1 ||| bitAt n.cfgerr 2 ||| fieldAt n.err 3 ||| bitAt n.setvalid 7 ||| bitAt n.setcur 8 |||
      bitAt n.tagvalid 9 ||| bitAt n.tagcur 10 ||| bitAt n.keylock 11)
  else if o = 0x08 then ok (fieldAt n.addr 0)
  else if o = 0x0C then ok (fieldAt n.len 0)
  else if o = 0x10 then ok (fieldAt n.spoff 0)
  else if o = 0x14 then ok n.setseq
  else if o = 0x18 then ok (fieldAt n.tagsel 0)
  else if o = 0x1C then ok (lo64 n.taggrant)
  else if o = 0x20 then ok (hi64 n.taggrant)
  else if o = 0x24 then ok (fieldAt n.treqbase 0 ||| bitAt n.treqen 31)
  else if 0x1000 ≤ o ∧ o < 0x2000 then ok (tget 0 n.shadow ((o - 0x1000) / 4))
  else .unmapped

def nvcWrite (s : State) (o : Nat) (v : Word) : IoAns :=
  let n := s.nvc
  let put := fun (n : Nvc) => IoAns.ok { s with nvc := n }
  if o = 0x00 then
    .ok (match nvmOpOf (fld v 0 8) with
      | some op => nvcCmd s op
      | none => nvcErr s)
  else if o = 0x04 then put { n with done := w1c n.done v 1, cfgerr := w1c n.cfgerr v 2 }
  else if o = 0x08 then put { n with addr := fld v 0 20 }
  else if o = 0x0C then (if 4096 < (fld v 0 13).toNat then .ok (nvcErr s) else put { n with len := fld v 0 13 })
  else if o = 0x10 then put { n with spoff := fld v 0 24 }
  else if o = 0x14 then .ok s
  else if o = 0x18 then (if 74 ≤ (fld v 0 7).toNat then .ok (nvcErr s) else put { n with tagsel := fld v 0 7 })
  else if o = 0x1C then put { n with taggrant := setHalf n.taggrant false v }
  else if o = 0x20 then put { n with taggrant := setHalf n.taggrant true v }
  else if o = 0x24 then put { n with treqbase := fld v 0 24, treqen := v.getLsbD 31 }
  else if 0x1000 ≤ o ∧ o < 0x2000 then .ok (setWrite s ((o - 0x1000) / 4) v)
  else .unmapped

/-! ### HLT (17 R406) -/

def hltRead (s : State) (o : Nat) : IoAns :=
  let h := s.hlt
  let ok := IoAns.word s
  if o = 0x00 then
    ok (fieldAt h.state 0 ||| bitAt (h.state == 1 || h.state == 2) 2 ||| bitAt h.noplans 3 ||| bitAt h.cfgerr 4 |||
      bitAt h.planlim 5 ||| bitAt h.logovf 6 ||| bitAt h.logerr 7 ||| bitAt h.nospare 8)
  else if o = 0x04 then ok (bitAt h.hosten 1 ||| bitAt h.twinen 2 ||| bitAt h.logev 3)
  else if o = 0x08 then ok (fieldAt h.cethr 0)
  else if o = 0x0C then ok (fieldAt h.cewin 0)
  else if o = 0x10 then ok (fieldAt h.retthr 0)
  else if o = 0x14 then ok 0
  else if o = 0x18 then ok (lo64 h.retired)
  else if o = 0x1C then ok (hi64 h.retired)
  else if o = 0x20 then ok h.lognum
  else if o = 0x28 then ok (paLo h.hostaddr)
  else if o = 0x2C then ok (paHi h.hostaddr)
  else if 0x200 ≤ o ∧ o < 0x300 then ok (fieldAt (tget 0 h.cecnt ((o - 0x200) / 4)) 0)
  else if 0x300 ≤ o ∧ o < 0x400 then
    ok (fieldAt (tget 0 h.bank ((o - 0x300) / 4)) 0 ||| fieldAt (tget 0 h.spares ((o - 0x300) / 4)) 16)
  else .unmapped

def hltWrite (s : State) (o : Nat) (v : Word) : IoAns :=
  let h := s.hlt
  let put := fun (h : Hlt) => IoAns.ok { s with hlt := h }
  if o = 0x00 then put { h with
    cfgerr := w1c h.cfgerr v 4, planlim := w1c h.planlim v 5, logovf := w1c h.logovf v 6, logerr := w1c h.logerr v 7
    nospare := w1c h.nospare v 8 }
  else if o = 0x04 then
    let s1 := { s with hlt := { h with hosten := v.getLsbD 1, twinen := v.getLsbD 2, logev := v.getLsbD 3 } }
    .ok (if v.getLsbD 0 then healthClear s1 else s1)
  else if o = 0x08 then put { h with cethr := fld v 0 16 }
  else if o = 0x0C then put { h with cewin := fld v 0 16 }
  else if o = 0x10 then put { h with retthr := fld v 0 16 }
  else if o = 0x14 then .ok (retireWrite s v)
  else if o = 0x28 then put { h with hostaddr := setPaLo h.hostaddr v }
  else if o = 0x2C then put { h with hostaddr := setPaHi h.hostaddr v }
  else match hltRead s o with
    | .word _ _ => .ok s
    | a => a

/-! ### MPT and HPT (20 R457, R458) -/

/-- The registers that memory ports and the host initiator share. -/
def portRead (s : State) (n o : Nat) : IoAns :=
  let x := mptGet s n
  let ok := IoAns.word s
  if o = 0x08 then ok (fieldAt x.winbase 0)
  else if o = 0x0C then ok (fieldAt x.winlimit 0)
  else if o = 0x10 then ok (fieldAt x.rdbound 0)
  else if o = 0x14 then ok (fieldAt x.tmoLim 0)
  else if o = 0x18 then ok (BitVec.ofNat 32 x.out.length)
  else if o = 0x1C then ok (fieldAt x.errcode 0 ||| (paLo (linePA x.erraddr)))
  else if o = 0x20 then ok (paHi (linePA x.erraddr))
  else if o = 0x24 then ok x.errcnt
  else if o = 0x28 then ok x.tmocnt
  else .unmapped

def portWrite (s : State) (n o : Nat) (v : Word) : IoAns :=
  let x := mptGet s n
  let put := fun (x : Mpt) => IoAns.ok (mptPut s n x)
  if o = 0x08 then put { x with winbase := fld v 0 20 }
  else if o = 0x0C then
    if 0x100000 < (fld v 0 21).toNat then .ok (fresh (mptPut s n { x with cfgerr := true }) (portStat n) 0) else put { x with winlimit := fld v 0 21 }
  else if o = 0x10 then put { x with rdbound := fld v 0 16 }
  else if o = 0x14 then put { x with tmoLim := fld v 0 20 }
  else if o = 0x24 then put { x with errcnt := v }
  else if o = 0x28 then put { x with tmocnt := v }
  else match portRead s n o with
    | .word _ _ => .ok s
    | a => a

def mptRead (s : State) (n o : Nat) : IoAns :=
  let x := mptGet s n
  if o = 0x00 then .word s (bitAt x.cfgerr 0 ||| bitAt x.err 1 ||| bitAt x.tmo 2 ||| bitAt x.late 3 ||| bitAt x.proto 4)
  else if o = 0x04 then .word s (bitAt x.en 0 ||| bitAt x.ev 1)
  else if o = 0x2C then .word s x.latecnt
  else portRead s n o

def mptWrite (s : State) (n o : Nat) (v : Word) : IoAns :=
  let x := mptGet s n
  let put := fun (x : Mpt) => IoAns.ok (mptPut s n x)
  if o = 0x00 then put { x with cfgerr := w1c x.cfgerr v 0, err := w1c x.err v 1, tmo := w1c x.tmo v 2, late := w1c x.late v 3
                                proto := w1c x.proto v 4 }
  else if o = 0x04 then put { x with en := v.getLsbD 0, ev := v.getLsbD 1 }
  else if o = 0x2C then put { x with latecnt := v }
  else portWrite s n o v

def hptRead (s : State) (o : Nat) : IoAns :=
  let x := s.hpt.ini
  if o = 0x00 then
    .word s (bitAt x.cfgerr 0 ||| bitAt x.err 1 ||| bitAt x.tmo 2 ||| bitAt s.hpt.terr 3 ||| bitAt x.proto 4 ||| bitAt x.late 5)
  else if o = 0x04 then .word s (bitAt s.hpt.ten 0 ||| bitAt x.en 1 ||| bitAt x.ev 2)
  else if o = 0x2C then .word s s.hpt.terrcnt
  else if o = 0x30 then .word s 0
  else if o = 0x34 then .word s x.latecnt
  else portRead s 4 o

def hptWrite (s : State) (o : Nat) (v : Word) : IoAns :=
  let x := s.hpt.ini
  let put := fun (h : Hpt) => IoAns.ok { s with hpt := h }
  if o = 0x00 then put { s.hpt with terr := w1c s.hpt.terr v 3, ini := { x with
    cfgerr := w1c x.cfgerr v 0, err := w1c x.err v 1, tmo := w1c x.tmo v 2, proto := w1c x.proto v 4, late := w1c x.late v 5 } }
  else if o = 0x04 then put { s.hpt with ten := v.getLsbD 0, ini := { x with en := v.getLsbD 1, ev := v.getLsbD 2 } }
  else if o = 0x2C then put { s.hpt with terrcnt := v }
  else if o = 0x30 then .ok (raiseSrc s 360)
  else if o = 0x34 then put { s.hpt with ini := { x with latecnt := v } }
  else portWrite s 4 o v

/-! ### PMU (18 R417) -/

def pmuRead (s : State) (mst o : Nat) : IoAns :=
  let p := s.pmu
  let ok := IoAns.word s
  if o = 0x00 then ok (bitAt p.cfgerr 0 ||| bitAt (p.ovf != 0) 1 ||| bitAt p.dumperr 2 ||| bitAt p.drop 3)
  else if o = 0x04 then ok (fieldAt p.ctl 0)
  else if o = 0x10 then ok (fieldAt p.k 0)
  else if o = 0x14 then ok (paLo p.ring)
  else if o = 0x18 then ok (paHi p.ring ||| fieldAt p.rlog 16)
  else if o = 0x1C then ok (fieldAt p.head 0)
  else if o = 0x20 then ok (fieldAt p.tail 0)
  else if o = 0x24 then ok p.swnum
  else if o = 0x28 then ok p.drops
  else if o = 0x30 then ok (fieldAt (p.winNext.getD p.win) 0)
  else if 0x40 ≤ o ∧ o < 0x74 then ok (tget 0 p.bw ((o - 0x40) / 4))
  else if 0x80 ≤ o ∧ o < 0xB4 then ok (tget 0 p.bwpeak ((o - 0x80) / 4))
  else if 0x100 ≤ o ∧ o < 0x140 then ok (fieldAt (tget 0 p.thr ((o - 0x100) / 4)) 0)
  else if 0x200 ≤ o ∧ o < 0x250 then ok (fld p.ovf (8 * (o - 0x200)) 32)
  else if 0x1000 ≤ o ∧ o < 0x2400 then
    let c := (o - 0x1000) / 8
    if o % 8 = 0 then let (s1, v) := cntloRead s mst c; .word s1 v else ok (cnthiRead s mst c)
  else .unmapped

def pmuErr (s : State) : State := fresh { s with pmu := { s.pmu with cfgerr := true } } 0x60000 0

def pmuWrite (s : State) (mst o : Nat) (v : Word) : IoAns :=
  let p := s.pmu
  let put := fun (p : Pmu) => IoAns.ok { s with pmu := p }
  if o = 0x00 then put { p with cfgerr := w1c p.cfgerr v 0, dumperr := w1c p.dumperr v 2, drop := w1c p.drop v 3 }
  else if o = 0x04 then put { p with ctl := fld v 0 4 }
  else if o = 0x10 then
    let k : BitVec 5 := fld v 0 5
    if (1 ≤ k.toNat ∧ k.toNat ≤ 9) ∨ k = 31 then .ok (pmuErr s) else put { p with k := k }
  else if o = 0x14 then put { p with ring := setPaLo p.ring (v &&& 0xFFFFFFC0#32) }
  else if o = 0x18 then
    let r : BitVec 4 := fld v 16 4
    let s1 := { s with pmu := { p with ring := setPaHi p.ring v, rlog := if 13 ≤ r.toNat then p.rlog else r } }
    .ok (if 13 ≤ r.toNat then pmuErr s1 else s1)
  else if o = 0x20 then put { p with tail := fld v 0 12 }
  else if o = 0x28 then put { p with drops := v }
  else if o = 0x30 then .ok (winWrite s (fld v 0 12))
  else if 0x80 ≤ o ∧ o < 0xB4 then
    let k := (o - 0x80) / 4
    put { p with bwpeak := tset 0 p.bwpeak k (tget 0 p.bw k) }
  else if 0x100 ≤ o ∧ o < 0x140 then put { p with thr := tset 0 p.thr ((o - 0x100) / 4) (fld v 0 16) }
  else if 0x200 ≤ o ∧ o < 0x250 then put { p with ovf := p.ovf &&& ~~~ (v.setWidth 640 <<< (8 * (o - 0x200))) }
  else if 0x1000 ≤ o ∧ o < 0x2400 then
    let c := (o - 0x1000) / 8
    .ok (if o % 8 = 0 then cntloWrite s mst c v else cnthiWrite s mst c v)
  else match pmuRead s mst o with
    | .word _ _ => .ok s
    | a => a

end Sys2Proof.Machine
end

