-- ==== Sys2Proof/Machine/RegChannels.lean ====
section
/-! DEFINITION. The SPC, CHE and INS registers (12 R283, R284; 13 R311; 16 R370, R385).
What is DEDUCED or a DESIGN CHOICE here is said in notes/assumptions, log 14. -/

namespace Sys2Proof.Machine

open Sys2Proof

/-! ### SPC (12 R283) -/

/-- A region register's word: BASE, LIMIT, ATTR, the reserved one. -/
def regionWord (g : Region) (k : Nat) : Word :=
  if k = 0 then fieldAt g.base 0
  else if k = 1 then fieldAt g.limit 0
  else if k = 2 then bitAt g.r 0 ||| bitAt g.w 1 ||| bitAt g.v 2 ||| fieldAt g.inst 8
  else 0

/-- The offsets of region registers: 74 masters, 16 regions each. -/
def isRegion (o : Nat) : Bool := decide (0x4000 ≤ o ∧ o < 0x4000 + 74 * 256)

def spcRead (s : State) (o : Nat) (staged : Bool) : IoAns :=
  let c := s.spc
  let ok := IoAns.word s
  if isRegion o then
    let k := o / 4 % 4
    if staged && k = 3 then .unmapped
    else ok (regionWord (tget {} (if staged then c.regStg else c.reg) ((o - 0x4000) / 16)) k)
  else if staged then .unmapped
  else if o = 0x00 then ok (bitAt c.cfgerr 0 ||| bitAt c.coll 1 ||| bitAt c.viol 2 ||| bitAt c.uncorr 3 ||| bitAt c.logovf 4)
  else if o = 0x04 then ok (bitAt c.collev 0 ||| bitAt c.violev 1 ||| bitAt c.scrub 2)
  else if o = 0x08 then ok c.collcnt
  else if o = 0x0C then ok (fieldAt c.colladdr 0 &&& 0xFFFFF8#32)
  else if o = 0x10 then ok (fieldAt c.mstA 0 ||| fieldAt c.mstB 8)
  else if o = 0x14 then ok c.cecnt
  else if o = 0x18 then ok (fieldAt c.ueaddr 0 &&& 0xFFFFF8#32)
  else if o = 0x20 then ok c.vcnt
  else if o = 0x24 then ok (fieldAt c.vhead 0)
  else if 0x40 ≤ o ∧ o < 0x80 then
    let x := tget {} c.vlog ((o - 0x40) / 8)
    ok (if o % 8 = 0 then fieldAt x.off 0 ||| fieldAt x.mst 24
        else fieldAt x.acc 0 ||| fieldAt x.region 8 ||| fieldAt x.inst 16 ||| bitAt x.valid 31)
  else .unmapped

def spcWrite (s : State) (o : Nat) (staged : Bool) (v : Word) : IoAns :=
  let c := s.spc
  let put := fun (c : Spc) => IoAns.ok { s with spc := c }
  if isRegion o then
    let n := (o - 0x4000) / 16
    let k := o / 4 % 4
    let g := tget {} c.regStg n
    let set := fun (g : Region) => put { c with regStg := tset {} c.regStg n g }
    if k = 0 then set { g with base := fld v 0 24 &&& 0xFFFFF8#24 }
    else if k = 1 then
      let l : BitVec 25 := fld v 0 25 &&& 0x1FFFFF8#25
      if 0x1000000 < l.toNat then .ok (fresh { s with spc := { c with cfgerr := true } } 0x10000 0) else set { g with limit := l }
    else if k = 2 then set { g with r := v.getLsbD 0, w := v.getLsbD 1, v := v.getLsbD 2, inst := fld v 8 6 }
    else if staged then .unmapped
    else .ok s
  else if staged then .unmapped
  else if o = 0x00 then put { c with
    cfgerr := w1c c.cfgerr v 0, coll := w1c c.coll v 1, viol := w1c c.viol v 2, uncorr := w1c c.uncorr v 3
    logovf := w1c c.logovf v 4 }
  else if o = 0x04 then put { c with collev := v.getLsbD 0, violev := v.getLsbD 1, scrub := v.getLsbD 2 }
  else if o = 0x08 then put { c with collcnt := v }
  else if o = 0x14 then put { c with cecnt := v }
  else if o = 0x20 then put { c with vcnt := v }
  else if 0x40 ≤ o ∧ o < 0x80 ∧ o % 8 = 4 then
    let k := (o - 0x40) / 8
    let x := tget {} c.vlog k
    put { c with vlog := tset {} c.vlog k { x with valid := w1c x.valid v 31 } }
  else match spcRead s o false with
    | .word _ _ => .ok s
    | a => a

/-! ### CHE (13 R311, 12 R284) -/

def cheErr (s : State) : State := fresh { s with che := { s.che with stat := setBit s.che.stat 0 true } } 0x20000 0

/-- Descriptors queued for channel c. -/
def queuedOf (s : State) (c : Nat) : Nat := s.che.descq.countP fun b => (chainOf s b).any fun x => x.chan.val == c
/-- Open requests of channel c. -/
def openOf (s : State) (c : Nat) : Nat := s.che.chains.countP fun p => p.2.chan.val == c && p.2.st == .opened

/-- The channel that an offset of a channel register names: `base` is its first offset. -/
def chanAt (base o : Nat) : Option ChanNo := if base ≤ o ∧ o < base + 0x1000 then some (Fin.ofNat 1024 ((o - base) / 4)) else none

/-- A read of a register in the manager's view alone. -/
def cheManager (s : State) (o : Nat) : IoAns :=
  let c := s.che
  let ok := IoAns.word s
  if o = 0x00 then ok (fieldAt c.stat 0)
  else if o = 0x04 then ok (bitAt c.statev 0)
  else if o = 0x10 then ok (fieldAt c.errcode 0 ||| fieldAt c.errbuf 16)
  else if o = 0x20 then ok (paLo c.ldgbase)
  else if o = 0x24 then ok (paHi c.ldgbase)
  else if o = 0x28 then ok (fieldAt c.log2b 0 ||| bitAt c.ten 5)
  else if o = 0x2C then ok (BitVec.ofNat 32 (c.ledger.countP fun x => x.st == .opened))
  else if o = 0x30 then ok c.dupcnt
  else if o = 0x34 then ok c.nackcnt
  else if o = 0x38 then ok c.disccnt
  else if o = 0x3C then ok c.stalecnt
  else if o = 0x40 then ok c.latecnt
  else if 0x100 ≤ o ∧ o < 0x200 then ok (tget 0 c.grp ((o - 0x100) / 4))
  else if o = 0xF000 then ok (BitVec.ofNat 32 (poolFree s) ||| bitAt c.badrel 16)
  else if o = 0xF004 then ok (BitVec.ofNat 32 (poolBufs s))
  else if o = 0xF008 then ok (BitVec.ofNat 32 (poolRsv s))
  else if o = 0xF00C then ok c.poolref
  else .unmapped

def cheRegRead (s : State) (src : IoSrc) (o : Nat) (staged : Bool) : IoAns :=
  let c := s.che
  let v := viewOf s src
  let ok := IoAns.word s
  let chan := fun (x : ChanNo) (a : IoAns) => if chanVisible s src x.val then a else .unmapped
  if staged then
    match chanAt 0x8000 o with
    | some x => if v = .manager then ok (tget 0 c.quotaStg x.val) else .unmapped
    | none => .unmapped
  else match chanAt 0x1000 o, chanAt 0x2000 o, chanAt 0x8000 o, chanAt 0x9000 o, chanAt 0xA000 o with
  | some x, _, _, _, _ => chan x (ok (fieldAt (tget 0 c.chcfg x.val) 0))
  | _, some x, _, _, _ => chan x (ok (BitVec.ofNat 32 (queuedOf s x.val % 65536 + 65536 * openOf s x.val)))
  | _, _, some x, _, _ => chan x (ok (tget 0 c.quota x.val))
  | _, _, _, some x, _ => chan x (ok (BitVec.ofNat 32 (heldBy s x.val % 65536) ||| fieldAt (tget 0 c.peak x.val) 16))
  | _, _, _, _, some x => chan x (let (s1, w) := cheAlloc s src x; .word s1 w)
  | _, _, _, _, _ =>
    if o = 0x08 ∨ o = 0x0C then (if anyView s src then ok 0 else .unmapped)
    else if 0xE000 ≤ o ∧ o < 0xE03C then
      let k := (o - 0xE000) / 4
      if recvVisible s src k then let (s1, w) := cheRecv s src k; .word s1 w else .unmapped
    else if v = .manager then cheManager s o
    else .unmapped

/-- A write of a channel's configuration: a SRC of 15 leaves SRC. -/
def chcfgWrite (s : State) (c : Nat) (v : Word) : State :=
  let old := tget 0 s.che.chcfg c
  let bad := fld v 1 4 == 15#4
  let new : BitVec 11 := if bad then (fld v 0 11 &&& ~~~0x1E#11) ||| (old &&& 0x1E#11) else fld v 0 11
  let s1 := { s with che := { s.che with chcfg := tset 0 s.che.chcfg c new } }
  if bad then cheErr s1 else s1

/-- A write of a register in the manager's view alone. -/
def cheManagerWrite (s : State) (o : Nat) (v : Word) : IoAns :=
  let c := s.che
  let put := fun (c : Che) => IoAns.ok { s with che := c }
  if o = 0x00 then put { c with stat := c.stat &&& ~~~(fld v 0 6) }
  else if o = 0x04 then put { c with statev := v.getLsbD 0 }
  else if o = 0x20 then put { c with ldgbase := setPaLo c.ldgbase (v &&& 0xFFFFFFC0#32) }
  else if o = 0x24 then put { c with ldgbase := setPaHi c.ldgbase v }
  else if o = 0x28 then
    let l : BitVec 5 := fld v 0 5
    let s1 := { s with che := { c with ten := v.getLsbD 5, log2b := if 23 ≤ l.toNat then c.log2b else l } }
    .ok (if 23 ≤ l.toNat then cheErr s1 else s1)
  else if o = 0x30 then put { c with dupcnt := v }
  else if o = 0x34 then put { c with nackcnt := v }
  else if o = 0x38 then put { c with disccnt := v }
  else if o = 0x3C then put { c with stalecnt := v }
  else if o = 0x40 then put { c with latecnt := v }
  else if 0x100 ≤ o ∧ o < 0x200 then put { c with grp := tset 0 c.grp ((o - 0x100) / 4) v }
  else if o = 0xF000 then put { c with badrel := w1c c.badrel v 16 }
  else if o = 0xF00C then put { c with poolref := v }
  else match cheManager s o with
    | .word _ _ => .ok s
    | a => a

def cheRegWrite (s : State) (src : IoSrc) (o : Nat) (staged : Bool) (w : Word) : IoAns :=
  let c := s.che
  let v := viewOf s src
  let chan := fun (x : ChanNo) (a : State) => if chanVisible s src x.val then IoAns.ok a else .unmapped
  match chanAt 0x8000 o with
  | some x =>
    if v = .manager then .ok { s with che := { c with quotaStg := tset 0 c.quotaStg x.val w } }
    else if staged then .unmapped
    else chan x (cheErr s)
  | none =>
    if staged then .unmapped
    else match chanAt 0x1000 o, chanAt 0x2000 o, chanAt 0x9000 o, chanAt 0xA000 o with
    | some x, _, _, _ => chan x (chcfgWrite s x.val w)
    | _, some x, _, _ => chan x s
    | _, _, some x, _ => chan x { s with che := { c with peak := tset 0 c.peak x.val (BitVec.ofNat 16 (heldBy s x.val)) } }
    | _, _, _, some x => chan x s
    | _, _, _, _ =>
      if o = 0x08 then
        (if anyView s src then (match cheSend s src w with | some s1 => .ok s1 | none => .held s) else .unmapped)
      else if o = 0x0C then (if anyView s src then .ok (cheFree s src w) else .unmapped)
      else if 0xE000 ≤ o ∧ o < 0xE03C then (if recvVisible s src ((o - 0xE000) / 4) then .ok s else .unmapped)
      else if v = .manager then cheManagerWrite s o w
      else .unmapped

/-! ### INS (16 R370, R385) -/

/-- Engines of an instance that run or sleep and whose stamp is old (16 R376). -/
def oldCount (s : State) (x : Inst) : Nat :=
  ((List.finRange 64).filter fun e =>
    let g := engGet s e
    x.eng.getLsbD e.val && (g.st == .running || g.st == .sleeping) && g.r.stamp.any fun t => t != x.lot).length

/-- Word k of an instance's set; a disabled instance's registers read 0 apart from `INS.LOT` (16 R369). -/
def insWord (s : State) (i k : Nat) : Word :=
  let x := insGet s i
  if k ≠ 5 ∧ !x.en then 0
  else if k = 0 then lo64 x.eng
  else if k = 1 then hi64 x.eng
  else if k = 2 then fieldAt x.first 0 ||| fieldAt x.chans 16
  else if k = 3 then fieldAt x.share 0
  else if k = 4 then BitVec.ofNat 32 (instHeld s i % 65536) ||| fieldAt x.peak 16
  else if k = 5 then fieldAt x.lot 0 ||| bitAt x.en 16
  else if k = 6 then bitAt x.reset 0 ||| bitAt x.sweep 1 ||| bitAt x.switch_ 2
  else if k = 7 then BitVec.ofNat 32 (oldCount s x)
  else if k = 8 then paLo x.dmap
  else if k = 9 then paHi x.dmap ||| bitAt x.sel 12 ||| bitAt x.dovf 13
  else if k = 10 then fieldAt x.trk 0
  else if k = 11 then fieldAt x.trklen 0
  else if k = 12 then paLo x.ring
  else if k = 13 then paHi x.ring ||| fieldAt x.rlog 16
  else if k = 14 then fieldAt x.head 0 ||| bitAt x.rovf 31
  else fieldAt x.tail 0

/-- The staging copies of an instance's first four words. -/
def insStaged (x : Inst) (k : Nat) : Word :=
  if !x.en then 0
  else if k = 0 then lo64 x.engStg
  else if k = 1 then hi64 x.engStg
  else if k = 2 then fieldAt x.firstStg 0 ||| fieldAt x.chansStg 16
  else fieldAt x.shareStg 0

/-- A counter of instance i; those of a disabled instance read 0 (16 R369, 21 R461). -/
def insCount (s : State) (i : Nat) (f : Inst → Word) : Word := if (insGet s i).en then f (insGet s i) else 0

def insRead (s : State) (v : View) (o : Nat) (staged : Bool) : IoAns :=
  let ok := IoAns.word s
  match v with
  | .empty => .unmapped
  | .inst i => if !staged && o < 0x40 then ok (insWord s i (o / 4)) else .unmapped
  | .manager =>
    let i := (o - 0x1000) / 64
    let k := o / 4 % 16
    if 0x1000 ≤ o ∧ o < 0x2000 then
      if staged then (if k < 4 then ok (insStaged (insGet s i) k) else .unmapped) else ok (insWord s i k)
    else if staged then .unmapped
    else if o = 0x00 then ok (bitAt s.ins.cfgerr 0)
    else if 0x100 ≤ o ∧ o < 0x200 then ok (insCount s ((o - 0x100) / 4) fun x => x.dropcnt)
    else if 0x200 ≤ o ∧ o < 0x300 then ok (insCount s ((o - 0x200) / 4) fun x => x.stalesnd)
    else .unmapped

/-- A write of word k of instance i's set in the manager's view; a staged field of a disabled instance takes no value (16 R369). -/
def insSetWrite (s : State) (i k : Nat) (v : Word) : State :=
  let x := insGet s i
  let put := insPut s i
  if k < 4 ∧ !x.en then insErr s
  else if k = 0 then put { x with engStg := setHalf x.engStg false v }
  else if k = 1 then put { x with engStg := setHalf x.engStg true v }
  else if k = 2 then
    let n : BitVec 11 := fld v 16 11
    if 1024 < n.toNat then insErr (put { x with firstStg := fld v 0 10 })
    else put { x with firstStg := fld v 0 10, chansStg := n }
  else if k = 3 then
    (if 32768 < (fld v 0 16 : Half).toNat then insErr s else put { x with shareStg := fld v 0 16 })
  else if k = 4 then put { x with peak := BitVec.ofNat 16 (instHeld s i) }
  else if k = 6 then
    let s1 := if v.getLsbD 0 then insReset s i else s
    let s2 := if v.getLsbD 1 then insSweep s1 i else s1
    if v.getLsbD 2 then insSwitch s2 i else s2
  else if k = 8 then put { x with dmap := setPaLo x.dmap (v &&& 0xFFFFFFC0#32) }
  else if k = 9 then put { x with dmap := setPaHi x.dmap v, dovf := w1c x.dovf v 13 }
  else if k = 10 then put { x with trk := fld v 0 23 }
  else if k = 11 then put { x with trklen := fld v 0 16 }
  else if k = 12 then put { x with ring := setPaLo x.ring (v &&& 0xFFFFFFC0#32) }
  else if k = 13 then
    let r : BitVec 5 := fld v 16 5
    let bad := decide ((1 ≤ r.toNat ∧ r.toNat ≤ 5) ∨ 21 ≤ r.toNat)
    let s1 := put { x with ring := setPaHi x.ring v, rlog := if bad then x.rlog else r }
    if bad then insErr s1 else s1
  else if k = 14 then put { x with rovf := w1c x.rovf v 31 }
  else if k = 15 then put { x with tail := fld v 0 20 }
  else s

def insWrite (s : State) (v : View) (o : Nat) (staged : Bool) (w : Word) : IoAns :=
  match v with
  | .empty => .unmapped
  | .inst _ => if !staged && o < 0x40 then .ok (if o < 0x10 then insErr s else s) else .unmapped
  | .manager =>
    let i := (o - 0x1000) / 64
    let k := o / 4 % 16
    if 0x1000 ≤ o ∧ o < 0x2000 then (if staged && 4 ≤ k then .unmapped else .ok (insSetWrite s i k w))
    else if staged then .unmapped
    else if o = 0x00 then .ok { s with ins := { s.ins with cfgerr := w1c s.ins.cfgerr w 0 } }
    else if 0x100 ≤ o ∧ o < 0x200 then .ok (insPut s ((o - 0x100) / 4) { insGet s ((o - 0x100) / 4) with dropcnt := w })
    else if 0x200 ≤ o ∧ o < 0x300 then .ok (insPut s ((o - 0x200) / 4) { insGet s ((o - 0x200) / 4) with stalesnd := w })
    else .unmapped

end Sys2Proof.Machine
end

