-- ==== Sys2Proof/Machine/Timers.lean ====
section
/-! DEFINITION. Interval timers, watchdogs, global time, comparators and mailboxes (10 R242, R243, R246). -/

namespace Sys2Proof.Machine

open Sys2Proof

/-- INTERVAL_TIMER_EXPIRY (10 R242): the count has run out and reloads. -/
def execIntervalTimerExpiry (e : Eng) (s : State) : Host.Outcome State Fault Refusal :=
  let t := tmrGet s e.val
  when (fclkOn s && t.period != 0 && t.count == 0) s
    (raiseSrc (fresh (tmrPut s e.val { t with count := t.period, texp := true }) (tmrStat e.val) 0) (257 + e.val))

/-- The watchdog's count has run out. -/
def wdDue (t : Timer) : Bool := t.wdperiod != 0 && t.wdcount == 0

/-- WATCHDOG_FIRST_EXPIRY (10 R242): WATCHDOG becomes pending on an engine that runs or sleeps. -/
def execWatchdogFirstExpiry (e : Eng) (s : State) : Host.Outcome State Fault Refusal :=
  let t := tmrGet s e.val
  let g := engGet s e
  when (fclkOn s && wdDue t && !t.wdsecond) s
    (engPut (fresh (tmrPut s e.val { t with wdcount := t.wdperiod, wd1 := true, wdsecond := true }) (tmrStat e.val) 1) e
      { g with wdog := g.wdog || g.st == .running || g.st == .sleeping })

/-- WATCHDOG_SECOND_EXPIRY (10 R242): repeated each period until a kick. -/
def execWatchdogSecondExpiry (e : Eng) (s : State) : Host.Outcome State Fault Refusal :=
  let t := tmrGet s e.val
  when (fclkOn s && wdDue t && t.wdsecond) s
    (raiseSrc (fresh (tmrPut s e.val { t with wdcount := t.wdperiod, wd2 := true }) (tmrStat e.val) 2) (257 + e.val))

/-- The address of word k of engine e's timer registers. -/
def tmrAddr (e : Eng) (k : Nat) : BitVec 24 := BitVec.ofNat 24 (0x8000 + 32 * e.val + 4 * k)

/-- TMR_PERIOD_WRITE (10 R246). -/
def execTmrPeriodWrite (e : Eng) (v : Word) (s : State) : Host.Outcome State Fault Refusal :=
  when (fclkOn s) s (noteSet (tmrPut s e.val { tmrGet s e.val with period := v, count := v }) (tmrAddr e 0) 0 v)

/-- TMR_WDKICK (10 R242). -/
def execTmrWdkick (e : Eng) (s : State) : Host.Outcome State Fault Refusal :=
  let t := tmrGet s e.val
  when (fclkOn s) s (noteSet (tmrPut s e.val { t with wdcount := t.wdperiod, wdsecond := false }) (tmrAddr e 3) 0 0)

/-- TMR_WDPERIOD_WRITE (10 R242). -/
def execTmrWdperiodWrite (e : Eng) (v : Word) (s : State) : Host.Outcome State Fault Refusal :=
  when (fclkOn s) s
    (noteSet (tmrPut s e.val { tmrGet s e.val with wdperiod := v, wdcount := v, wdsecond := false }) (tmrAddr e 2) 0 v)

/-- TMR_GTIMELO_READ (10 R246). -/
def execTmrGtimeloRead (s : State) : Host.Outcome State Fault Refusal :=
  when (fclkOn s) s { s with tmr := { s.tmr with gtimehi := fld s.tmr.gtime 32 32 }, lastRead := fld s.tmr.gtime 0 32 }

/-- COMPARATOR_MATCH (10 R243): the time has reached the value; the source is raised once. -/
def execComparatorMatch (k : Fin 4) (s : State) : Host.Outcome State Fault Refusal :=
  when (fclkOn s && s.tmr.due.getLsbD k.val) s
    (raiseSrc { s with tmr := { s.tmr with due := setBit s.tmr.due k.val false } } (377 + k.val))

/-- TMR_MBOX_WRITE (10 R243). -/
def execTmrMboxWrite (k : Fin 4) (v : Word) (s : State) : Host.Outcome State Fault Refusal :=
  when (fclkOn s) s (raiseSrc { s with tmr := { s.tmr with mbox := tset 0 s.tmr.mbox k.val v } } (381 + k.val))

end Sys2Proof.Machine
end

