-- ==== Sys2Proof/Machine/RegEvents.lean ====
section
/-! DEFINITION. The EVG and TMR registers and the external views of engines (10 R245, R246; 09 R226; 11 R267; 19 R435). -/

namespace Sys2Proof.Machine

open Sys2Proof

/-! ### EVG (10 R245) -/

/-- `EVG.PEND` of source n. -/
def pendWord (s : State) (n : Nat) : Word :=
  let x := srcGet s n
  fieldAt x.count 0 ||| fieldAt x.acc 16 ||| bitAt x.insvc 24 ||| bitAt (reserved s n != 0) 25 ||| bitAt x.ovf 26 |||
    bitAt (inputBit s n) 27

/-- A word of source n's configuration. -/
def cfgWord (s : State) (n k : Nat) : Word :=
  let x := srcGet s n
  if k = 0 then fieldAt x.sense 0 ||| bitAt x.en 3 ||| fieldAt x.prio 4 ||| fieldAt x.ccount 8 ||| fieldAt x.inst 16
  else if k = 1 then fieldAt x.ctime 0
  else if k = 2 then lo64 x.target
  else hi64 x.target

def evgRead (s : State) (v : View) (o : Nat) : IoAns :=
  let g := s.evg
  let ok := IoAns.word s
  if 0x1000 ≤ o ∧ o < 0x2800 then
    let n := (o - 0x1000) / 16 + 1
    if srcVisible s v n then ok (cfgWord s n (o / 4 % 4)) else .unmapped
  else if 0x2800 ≤ o ∧ o < 0x2E00 then
    let n := (o - 0x2800) / 4 + 1
    if srcVisible s v n then ok (pendWord s n) else .unmapped
  else if v ≠ .manager then .unmapped
  else if o = 0x00 then
    ok (bitAt g.cfgerr 0 ||| bitAt g.latched 1 ||| bitAt g.retained 2 ||| bitAt (g.src.any fun p => p.2.ovf) 3)
  else if o = 0x04 ∨ o = 0x14 ∨ o = 0x18 then ok 0
  else if o = 0x10 then ok g.evout
  else if 0x100 ≤ o ∧ o < 0x120 then ok (fld g.latRise (8 * (o - 0x100)) 32)
  else if 0x140 ≤ o ∧ o < 0x160 then ok (fld g.latFall (8 * (o - 0x140)) 32)
  else if 0x3000 ≤ o ∧ o < 0x3400 then
    let x := evgEng s ((o - 0x3000) / 16)
    let k := o / 4 % 4
    if k = 0 then
      ok ((match x.pres with | some (id, q) => fieldAt id 0 ||| fieldAt q 12 | none => 0) ||| fieldAt x.shadow 16)
    else if k = 1 then ok x.claims
    else if k = 2 then ok (fieldAt x.spur 0)
    else .unmapped
  else .unmapped

/-- A write of `EVG.PEND`. -/
def pendWrite (s : State) (n : Nat) (v : Word) : State :=
  let x := srcGet s n
  let s1 := srcPut s n { x with ovf := w1c x.ovf v 26 }
  let s2 := if v.getLsbD 28 then clearSource s1 n else s1
  if v.getLsbD 29 then eoi s2 n else s2

def evgWrite (s : State) (v : View) (o : Nat) (w : Word) : IoAns :=
  let g := s.evg
  let put := fun (g : Evg) => IoAns.ok { s with evg := g }
  if 0x1000 ≤ o ∧ o < 0x2800 then
    let n := (o - 0x1000) / 16 + 1
    if srcVisible s v n then .ok (srcChanged (srcWrite s v n (BitVec.ofNat 2 (o / 4)) w) n) else .unmapped
  else if 0x2800 ≤ o ∧ o < 0x2E00 then
    let n := (o - 0x2800) / 4 + 1
    if srcVisible s v n then .ok (pendWrite s n w) else .unmapped
  else if v ≠ .manager then .unmapped
  else if o = 0x00 then put { g with cfgerr := w1c g.cfgerr w 0, retained := w1c g.retained w 2 }
  else if o = 0x04 then .ok (swraise s w)
  else if o = 0x10 then .ok (evoutWrite s w)
  else if o = 0x14 then .ok (evoutSet s w)
  else if o = 0x18 then .ok (evoutClr s w)
  else match evgRead s v o with
    | .word _ _ => .ok s
    | a => a

/-! ### TMR (10 R246) -/

/-- Engine n's timer registers are in a view. -/
def tmrVisible (s : State) (v : View) (n : Nat) : Bool :=
  match v with
  | .manager => true
  | .inst i => (insGet s i).eng.getLsbD n
  | .empty => false

def tmrRead (s : State) (v : View) (o : Nat) : IoAns :=
  let ok := IoAns.word s
  if o < 0x800 then
    let n := o / 32
    let x := tmrGet s n
    let k := o / 4 % 8
    if !tmrVisible s v n then .unmapped
    else if k = 0 then ok x.period
    else if k = 1 then ok x.count
    else if k = 2 then ok x.wdperiod
    else if k = 3 then ok 0
    else if k = 4 then ok (bitAt x.texp 0 ||| bitAt x.wd1 1 ||| bitAt x.wd2 2)
    else .unmapped
  else if v = .empty then .unmapped
  else if o = 0x800 then .word { s with tmr := { s.tmr with gtimehi := hi64 s.tmr.gtime } } (lo64 s.tmr.gtime)
  else if o = 0x804 then ok s.tmr.gtimehi
  else if 0x810 ≤ o ∧ o < 0x830 then
    let c := tget 0 s.tmr.cmp ((o - 0x810) / 8)
    ok (if o % 8 = 0 then lo64 c else hi64 c)
  else if 0x830 ≤ o ∧ o < 0x840 then
    if v = .manager then ok (tget 0 s.tmr.mbox ((o - 0x830) / 4)) else .unmapped
  else .unmapped

def tmrWrite (s : State) (v : View) (o : Nat) (w : Word) : IoAns :=
  if o < 0x800 then
    let n := o / 32
    let x := tmrGet s n
    let k := o / 4 % 8
    let put := fun (x : Timer) => IoAns.ok (tmrPut s n x)
    if !tmrVisible s v n then .unmapped
    else if k = 0 then put { x with period := w, count := w }
    else if k = 1 then .ok s
    else if k = 2 then put { x with wdperiod := w, wdcount := w, wdsecond := false }
    else if k = 3 then put { x with wdcount := x.wdperiod, wdsecond := false }
    else if k = 4 then put { x with texp := w1c x.texp w 0, wd1 := w1c x.wd1 w 1, wd2 := w1c x.wd2 w 2 }
    else .unmapped
  else if v ≠ .manager then
    match tmrRead s v o with
    | .word _ _ => .ok s
    | a => a
  else if 0x810 ≤ o ∧ o < 0x830 then
    let k := (o - 0x810) / 8
    .ok { s with tmr := { s.tmr with cmp := tset 0 s.tmr.cmp k (setHalf (tget 0 s.tmr.cmp k) (o % 8 != 0) w) } }
  else if 0x830 ≤ o ∧ o < 0x840 then
    let k := (o - 0x830) / 4
    .ok (raiseSrc { s with tmr := { s.tmr with mbox := tset 0 s.tmr.mbox k w } } (381 + k))
  else if o = 0x800 ∨ o = 0x804 then .ok s
  else .unmapped

/-! ### Engines (09 R226, 11 R267, 19 R435, 21 R461) -/

def runCode (st : RunState) : BitVec 2 :=
  match st with
  | .unreleased => 0
  | .running => 1
  | .sleeping => 2
  | .stopped => 3

def xinvWord (g : Engine) : Word := fieldAt g.xop 0 ||| fieldAt g.xinst 8 ||| bitAt g.xgo 31

def engRead (s : State) (e : Eng) (o : Nat) : IoAns :=
  let g := engGet s e
  let ok := IoAns.word s
  if !engExists s e.val then .unmapped
  else if o = 0x000 then ok 0
  else if o = 0x004 then ok (fieldAt (runCode g.st) 0 ||| bitAt g.retired 2 ||| bitAt g.lrstop 3)
  else if o = 0x008 then ok g.stoppc
  else if o = 0x00C then ok g.stopcause
  else if o = 0x010 then ok g.restartpc
  else if 0x200 ≤ o ∧ o < 0x240 then
    let k := (o - 0x200) / 16
    let a := if o % 16 < 8 then tget 0 g.ssp k else tget 0 g.sslim k
    ok (if o % 8 = 0 then paLo a else paHi a)
  else if o = 0x300 then ok (xinvWord g)
  else if o = 0x310 then ok g.fipa
  else .unmapped

/-- A write of `ENG.RUNCTL`: each bit is judged by the state before the write. -/
def runctlWrite (s : State) (e : Eng) (v : Word) : State :=
  let was := (engGet s e).st
  let s1 := if v.getLsbD 1 then runStop s e else s
  if !v.getLsbD 0 then s1
  else if was = .stopped then runRestart s1 e
  else cpxErr s1

/-- A write of OP and INST without GO. -/
def xinvSet (s : State) (e : Eng) (op : BitVec 2) (inst : BitVec 6) : State :=
  let g := engGet s e
  if g.xgo then s
  else
    let s1 := engPut s e { g with xop := if op = 3 then g.xop else op, xinst := inst }
    if op = 3 then cpxErr s1 else s1

def engWrite (s : State) (e : Eng) (o : Nat) (v : Word) : IoAns :=
  let g := engGet s e
  let put := fun (g : Engine) => IoAns.ok (engPut s e g)
  if !engExists s e.val then .unmapped
  else if o = 0x000 then .ok (runctlWrite s e v)
  else if o = 0x010 then put { g with restartpc := v &&& 0xFFFFFFFC#32 }
  else if 0x200 ≤ o ∧ o < 0x240 then
    let k := (o - 0x200) / 16
    let w := v &&& 0xFFFFFF80#32
    let new := fun (a : PAddr) => if o % 8 = 0 then setPaLo a w else setPaHi a v
    if o % 16 < 8 then put { g with ssp := tset 0 g.ssp k (new (tget 0 g.ssp k)) }
    else put { g with sslim := tset 0 g.sslim k (new (tget 0 g.sslim k)) }
  else if o = 0x300 then
    .ok (if v.getLsbD 31 then xinvWrite s e (fld v 0 2) (fld v 8 6) else xinvSet s e (fld v 0 2) (fld v 8 6))
  else match engRead s e o with
    | .word _ _ => .ok s
    | a => a

end Sys2Proof.Machine
end

