-- ==== Sys2Proof/Machine/Mgmt.lean ====
section
/-! DEFINITION. Management messages (14 R340-R342).
What is DEDUCED or a DESIGN CHOICE here is said in notes/assumptions, log 15. -/

namespace Sys2Proof.Machine

open Sys2Proof

/-! ### Origination and the received queue (14 R342) -/

/-- The management message that `IBF.MGTX` of port p holds, with SRCDEV set. -/
def mgtxFlit (s : State) (p : Nat) : LineData :=
  let d := toLine 0 ((List.range 16).flatMap fun w => toBytes 4 (tget 0 (ibfGet s p).mgtx w).toNat)
  mergeLine d (toLine 2 (toBytes 2 s.cpx.devid.toNat)) (lineMask 2 2)

/-- GO: the message is given to the transport layer; GO reads 1 until it is queued or discarded. -/
def mgGo (s : State) (p : Nat) : State :=
  match mgSend s p 1 (mgtxFlit s p) with
  | .done s1 => ibfPut s1 p { ibfGet s1 p with mggo := false }
  | .wait q v m =>
    let s1 := txJoin s q v m
    ibfPut s1 p { ibfGet s1 p with mggo := true }

/-- A message that waits under GO is tried again. -/
def mgFlush (s : State) (p : Nat) : State := if (ibfGet s p).mggo then mgGo s p else s

/-- IBF_MGTXCTL_GO (14 R342). -/
def execIbfMgtxctlGo (p : PortNo) (s : State) : Host.Outcome State Fault Refusal := when (fclkOn s) s (mgGo s p.val)

/-- The oldest received message is removed. -/
def mgPop (s : State) (p : Nat) : State := ibfPut s p { ibfGet s p with mgrx := (ibfGet s p).mgrx.drop 1 }

/-- IBF_MGRXCTL_POP (14 R344). -/
def execIbfMgrxctlPop (p : PortNo) (s : State) : Host.Outcome State Fault Refusal := when (fclkOn s) s (mgPop s p.val)

/-! ### Messages for this device (14 R341) -/

/-- The next management message of a MOP delivered at port p: from its receive buffer, or originated here; and the state without it. -/
def mgTake (s : State) (p : Nat) (mop : Nat) : Option (State × LineData) :=
  let x := ibfGet s p
  match tget [] x.rx 3, x.mgLoop with
  | .flit d :: r, l =>
    if isOwn s (flitDest 3 d) && flitNat d 0 1 == mop then
      some (ibfPut s p (rxFreed { x with rx := tset [] x.rx 3 r, rxLeft := tset 0 x.rxLeft 3 0 } 3), d)
    else match l with
      | d :: r => if flitNat d 0 1 = mop then some (ibfPut s p { x with mgLoop := r }, d) else none
      | [] => none
  | _, d :: r => if flitNat d 0 1 = mop then some (ibfPut s p { x with mgLoop := r }, d) else none
  | _, [] => none

/-- A command for a delivered message. -/
def onMessage (p : PortNo) (mop : Nat) (s : State) (f : State → LineData → State) : Host.Outcome State Fault Refusal :=
  happens s (if !fclkOn s then s else match mgTake s p.val mop with
    | some (s1, d) => f s1 d
    | none => s)

def mgTag (d : LineData) : Half := BitVec.ofNat 16 (flitNat d 4 2)
def mgChan (d : LineData) : BitVec 10 := BitVec.ofNat 10 (flitNat d 6 2)
def mgSrc (d : LineData) : BitVec 12 := BitVec.ofNat 12 (flitNat d 2 2)
def mgAddr (d : LineData) : PAddr := BitVec.ofNat 44 (flitNat d 8 7)
def mgCount (d : LineData) : Nat := flitNat d 16 1
def mgData (d : LineData) : List Byte := lineBytes d 32 (mgCount d)

/-- A request with a reserved field, or a COUNT above 32. -/
def mgBad (d : LineData) : Bool :=
  decide (4096 ≤ flitNat d 2 2) || decide (1024 ≤ flitNat d 6 2) || flitNat d 15 1 != 0 || flitNat d 18 14 != 0 ||
    decide (32 < mgCount d)

/-- The response to a request: its fields with the destination turned round; COUNT counts the bytes it carries (log 15). -/
def mgResponse (s : State) (mop : Byte) (d : LineData) (status : Byte) (data : List Byte) : LineData :=
  let dev := mgSrc d
  mgFlit mop (hopsOf s dev) s.cpx.devid (mgTag d) (mgChan d) (dev ++ mgAddr d) (BitVec.ofNat 8 data.length) status data

/-- What the checks before the access say (14 R341): a STATUS, or none to go on. -/
def mgCheck (s : State) (d : LineData) : Option Byte :=
  let n := mgCount d
  let a := mgAddr d
  if mgBad d then some 5
  else if n = 0 then some 0
  else if !(inWindow s a && decide (winOff s a + n ≤ 0x1000000)) then some 1
  else if !(tget 0 s.che.chcfg (mgChan d).toNat).getLsbD 0 || (instOfChan s (mgChan d).toNat).isNone then some 2
  else none

/-- A response is sent, or the request waits in its place (state `s`), with the words that slots have served. -/
def mgAnswer (s s1 : State) (p : Nat) (d : LineData) : State :=
  match mgSend s1 p 2 d with
  | .done s2 => s2
  | .wait q v m => txJoin (slotsBack s s1) q v m

/-- WREQ (14 R341). -/
def execWreq (p : PortNo) (s : State) : Host.Outcome State Fault Refusal :=
  onMessage p 1 s fun s1 d =>
    let reply := fun (s2 : State) (st : Byte) => mgAnswer s s2 p.val (mgResponse s2 2 d st [])
    match mgCheck s1 d with
    | some st => reply s1 st
    | none =>
      let m := 67 + p.val
      match mstWrite s1 m (presOf s1 m (mgChan d).toNat) (winOff s1 (mgAddr d)) ((mgData d).map some) none with
      | .done s2 => reply s2 0
      | .refused s2 => reply s2 3
      | .bad s2 => reply s2 4
      | .held s2 => heldState s s2

/-- RREQ (14 R341). -/
def execRreq (p : PortNo) (s : State) : Host.Outcome State Fault Refusal :=
  onMessage p 3 s fun s1 d =>
    let reply := fun (s2 : State) (st : Byte) (data : List Byte) => mgAnswer s s2 p.val (mgResponse s2 4 d st data)
    match mgCheck s1 d with
    | some st => reply s1 st []
    | none =>
      let m := 67 + p.val
      let o := winOff s1 (mgAddr d)
      let p := presOf s1 m (mgChan d).toNat
      let (s2, ok) := wordsServe s1 m (wordsOf o (mgCount d))
      if !ok then s2
      else match firstRefused s2 m p false ((List.range (mgCount d)).map (· + o)) with
      | some r => reply (violation s2 m r false (presInst p)) 3 []
      | none =>
        match spRead s2 m o (mgCount d) with
        | (s3, some bs) => reply s3 0 bs
        | (s3, none) => reply s3 4 []

/-- A message joins `IBF.MGRX` (14 R342). -/
def mgQueue (s : State) (p : Nat) (d : LineData) : State :=
  let x := ibfGet s p
  if x.mgrx.length < 8 then ibfErr (ibfPut s p { x with mgrx := x.mgrx ++ [d] }) p eMgrx else ibfErr s p eMgovf

/-- WRSP (14 R341). -/
def execWrsp (p : PortNo) (s : State) : Host.Outcome State Fault Refusal := onMessage p 2 s fun s1 d => mgQueue s1 p.val d
/-- RRSP (14 R341). -/
def execRrsp (p : PortNo) (s : State) : Host.Outcome State Fault Refusal := onMessage p 4 s fun s1 d => mgQueue s1 p.val d
/-- HEALTH (14 R341). -/
def execHealth (p : PortNo) (s : State) : Host.Outcome State Fault Refusal := onMessage p 6 s fun s1 d => mgQueue s1 p.val d

/-- Word w of a message's DATA. -/
def mgWord (d : LineData) (w : Nat) : Word := BitVec.ofNat 32 (flitNat d (32 + 4 * w) 4)

/-- A message that writes WVL registers does so in a slot of the I/O register bus that serves its port's DMA (02 R38). -/
def onRegBus (s : State) (p : Nat) (f : State → State) : State :=
  match outServe s 137 (67 + p) true with
  | some t => f t
  | none => stall s

/-- WEAVE (14 R341): a COUNT that is no multiple of 4 up to 32 discards the message. -/
def execWeave (p : PortNo) (s : State) : Host.Outcome State Fault Refusal :=
  onMessage p 5 s fun s1 d =>
    if mgCount d % 4 ≠ 0 ∨ 32 < mgCount d then s1
    else onRegBus s1 p.val fun s1 => (List.range (mgCount d / 4)).foldl (fun s w => wvlData s (mgWord d w)) s1

/-- LOADCTL (14 R341): acted on only from the direct peer, in WAIT or MINIMAL. -/
def execLoadctl (p : PortNo) (s : State) : Host.Outcome State Fault Refusal :=
  onMessage p 7 s fun s1 d =>
    let x := ibfGet s1 p.val
    if x.peerv && mgSrc d == x.peer && mgCount d == 4 && (s1.wvl.state == 4 || s1.wvl.state == 5) then
      onRegBus s1 p.val fun s1 => wvlCtl s1 (mgWord d 0)
    else ibfErr s1 p.val eProto

end Sys2Proof.Machine
end

