-- ==== Sys2Proof/Machine/RegLinks.lean ====
section
/-! DEFINITION. The IBF and TWN registers (14 R344, 15 R367).
What is DEDUCED or a DESIGN CHOICE here is said in notes/assumptions, log 15. -/

namespace Sys2Proof.Machine

open Sys2Proof

/-! ### IBF (14 R344) -/

def portCode (st : PortSt) : BitVec 3 :=
  match st with
  | .off => 0
  | .train => 1
  | .plan => 2
  | .active => 3
  | .down => 4

/-- The counter registers, by offset. -/
def ibfCounter (x : Ibf) (o : Nat) : Option Word :=
  if o = 0x60 then some x.uncorr
  else if o = 0x64 then some x.badflit
  else if o = 0x68 then some x.replays
  else if o = 0x6C then some x.dupflit
  else if o = 0x70 then some x.hopdrop
  else if o = 0x74 then some x.unreach
  else if o = 0x78 then some x.lost
  else if o = 0x7C then some x.aborts
  else none

def ibfRead (s : State) (p o : Nat) : IoAns :=
  let x := ibfGet s p
  let ok := IoAns.word s
  match ibfCounter x o with
  | some v => ok v
  | none =>
    if o = 0x00 then ok (bitAt x.en 0 ||| bitAt x.retrain 1 ||| fieldAt x.maxw 2)
    else if o = 0x04 then
      ok (fieldAt (portCode x.st) 0 ||| fieldAt x.width 3 ||| fieldAt (if x.st = .active then x.lanes else 0) 8 ||| fieldAt (rxokOf x) 16 ||| fieldAt x.retired 24)
    else if o = 0x08 then ok (fieldAt x.err 0)
    else if o = 0x0C then ok (fieldAt x.even 0)
    else if o = 0x10 then ok (fieldAt x.peer 0 ||| bitAt x.peerv 16)
    else if o = 0x14 then ok (fieldAt x.traintmo 0)
    else if o = 0x18 then ok (fieldAt x.rtmo 0)
    else if o = 0x1C then ok (fieldAt x.retrymax 0)
    else if o = 0x20 then ok x.lanethr
    else if o = 0x24 then ok (fieldAt x.lanewin 0)
    else if o = 0x28 then ok (fieldAt x.txnext 0 ||| fieldAt x.e 16)
    else if o = 0x2C then ok (BitVec.ofNat 32 x.retry.length)
    else if 0x40 ≤ o ∧ o < 0x60 then ok (tget 0 x.lanecnt ((o - 0x40) / 4))
    else if 0x80 ≤ o ∧ o < 0x90 then
      let v := (o - 0x80) / 4
      ok (fieldAt (creditsOf x v) 0 ||| BitVec.ofNat 32 (rxFree x v * 65536))
    else if 0x100 ≤ o ∧ o < 0x140 then ok (tget 0 x.mgtx ((o - 0x100) / 4))
    else if o = 0x140 then ok (bitAt x.mggo 0)
    else if 0x180 ≤ o ∧ o < 0x1C0 then
      ok (match x.mgrx with | d :: _ => fld d (8 * (o - 0x180)) 32 | [] => 0)
    else if o = 0x1C0 then ok (BitVec.ofNat 32 x.mgrx.length)
    else .unmapped

/-- A write of `IBF.CTL`: MAXW, then what EN, UP and RETRAIN bring. -/
def ibfCtl (s : State) (p : Nat) (v : Word) : State :=
  let w : BitVec 2 := fld v 2 2
  let s1 := if w = 3 then ibfErr s p eCfg else ibfPut s p { ibfGet s p with maxw := w }
  let s2 := ibfEn s1 p (v.getLsbD 0)
  let s3 := if v.getLsbD 4 then ibfUp s2 p else s2
  if v.getLsbD 1 then ibfRetrain s3 p else s3

def ibfWrite (s : State) (p o : Nat) (v : Word) : IoAns :=
  let x := ibfGet s p
  let put := fun (x : Ibf) => IoAns.ok (ibfPut s p x)
  if o = 0x00 then .ok (ibfCtl s p v)
  else if o = 0x08 then put { x with err := x.err &&& ~~~(fld v 0 13) }
  else if o = 0x0C then put { x with even := fld v 0 13 }
  else if o = 0x14 then put { x with traintmo := fld v 0 16 }
  else if o = 0x18 then put { x with rtmo := fld v 0 20 }
  else if o = 0x1C then put { x with retrymax := fld v 0 8 }
  else if o = 0x20 then put { x with lanethr := v }
  else if o = 0x24 then put { x with lanewin := fld v 0 16, lanewn := [] }
  else if 0x40 ≤ o ∧ o < 0x60 then put { x with lanecnt := tset 0 x.lanecnt ((o - 0x40) / 4) v }
  else if o = 0x60 then put { x with uncorr := v }
  else if o = 0x64 then put { x with badflit := v }
  else if o = 0x68 then put { x with replays := v }
  else if o = 0x6C then put { x with dupflit := v }
  else if o = 0x70 then put { x with hopdrop := v }
  else if o = 0x74 then put { x with unreach := v }
  else if o = 0x78 then put { x with lost := v }
  else if o = 0x7C then put { x with aborts := v }
  else if 0x100 ≤ o ∧ o < 0x140 ∧ x.mggo then .ok (ibfErr s p eCfg)
  else if 0x100 ≤ o ∧ o < 0x140 then put { x with mgtx := tset 0 x.mgtx ((o - 0x100) / 4) v }
  else if o = 0x140 then .ok (if v.getLsbD 0 then mgGo s p else s)
  else if o = 0x1C0 then .ok (if v.getLsbD 8 then mgPop s p else s)
  else match ibfRead s p o with
    | .word _ _ => .ok s
    | a => a

/-! ### TWN (15 R367) -/

def twinCode (st : TwinSt) : BitVec 3 :=
  match st with
  | .none_ => 0
  | .wait => 1
  | .sync => 2
  | .paired => 3
  | .promoting => 4
  | .fenced => 5

def mrGet (s : State) (r : Nat) : MirrorReg := tget {} s.twn.mr r

/-- Low and high words of a 48-bit sequence. -/
def seqWord (q : BitVec 48) (hi : Bool) : Word := if hi then (fld q 32 16).setWidth 32 else fld q 0 32

/-- Replies that wait for the partner (15 R357). -/
def heldReplies (s : State) : Nat := s.che.sendq.countP fun q => q.reply

def twnRead (s : State) (o : Nat) : IoAns :=
  let t := s.twn
  let ok := IoAns.word s
  if o = 0x00 then ok (fieldAt t.role 0 ||| BitVec.ofNat 32 (4 * t.port.val) ||| bitAt t.start 4 ||| bitAt t.copy 5)
  else if o = 0x04 then
    ok (fieldAt (twinCode t.st) 0 ||| bitAt t.txsync 3 ||| bitAt t.rxsync 4 ||| bitAt t.alias_ 5 ||| fieldAt t.miss 8)
  else if o = 0x08 then ok (fieldAt t.err 0)
  else if o = 0x0C then ok (fieldAt t.even 0)
  else if o = 0x10 then ok (lo64 t.own)
  else if o = 0x14 then ok (hi64 t.own)
  else if o = 0x18 then ok (fieldAt t.peer 0 ||| bitAt t.peerv 16)
  else if o = 0x20 ∨ o = 0x24 then ok (seqWord t.txseq (o == 0x24))
  else if o = 0x28 ∨ o = 0x2C then ok (seqWord t.acknext (o == 0x2C))
  else if o = 0x30 ∨ o = 0x34 then ok (seqWord t.rxnext (o == 0x34))
  else if o = 0x38 then ok (BitVec.ofNat 32 (t.jbuf.length + 65536 * t.applyq.length))
  else if o = 0x3C then ok (BitVec.ofNat 32 (heldReplies s))
  else if o = 0x40 then ok (paLo t.rsmap)
  else if o = 0x44 then ok (paHi t.rsmap)
  else if o = 0x48 then ok (lo64 t.fence)
  else if o = 0x4C then ok (hi64 t.fence)
  else if o = 0x60 then ok t.applyerrcnt
  else if o = 0x64 then ok t.seqgapcnt
  else if o = 0x68 then ok t.holdcnt
  else if 0x100 ≤ o ∧ o < 0x200 then
    let m := mrGet s ((o - 0x100) / 16)
    let k := o / 4 % 4
    ok (if k = 0 then paLo m.base else if k = 1 then paHi m.base ||| (paHi m.limit <<< 16)
        else if k = 2 then paLo m.limit else bitAt m.en 0 ||| bitAt m.dir 1)
  else .unmapped

/-- A write of `TWN.CTL`. ROLE and PORT count as written when their value changes (log 15). -/
def twnCtl (s : State) (v : Word) : State :=
  let role : BitVec 2 := fld v 0 2
  let port : Fin 4 := Fin.ofNat 4 (fld v 2 2).toNat
  let s1 := { s with twn := { s.twn with copy := v.getLsbD 5 } }
  let s2 := if port = s1.twn.port then s1
    else if twnBusy s1 then twnErr s1 0 else { s1 with twn := { s1.twn with port := port } }
  let s3 := if role = s2.twn.role then s2 else twnRole s2 role
  let s4 := if v.getLsbD 4 then twnStart s3 else s3
  if v.getLsbD 6 then twnSolo s4 else s4

/-- A write of a mirror region's word. -/
def mrWrite (m : MirrorReg) (k : Nat) (v : Word) : MirrorReg :=
  if k = 0 then { m with base := setPaLo m.base (v &&& 0xFFFFFFC0#32) }
  else if k = 1 then { m with base := setPaHi m.base v, limit := setPaHi m.limit (v >>> 16) }
  else if k = 2 then { m with limit := setPaLo m.limit (v &&& 0xFFFFFFC0#32) }
  else { m with en := v.getLsbD 0, dir := v.getLsbD 1 }

def twnWrite (s : State) (o : Nat) (v : Word) : IoAns :=
  let t := s.twn
  let put := fun (t : Twn) => IoAns.ok { s with twn := t }
  let guarded := fun (t : Twn) => IoAns.ok (if twnBusy s then twnErr s 0 else { s with twn := t })
  if o = 0x00 then .ok (twnCtl s v)
  else if o = 0x08 then put { t with err := t.err &&& ~~~(fld v 0 10) }
  else if o = 0x0C then put { t with even := fld v 0 10 }
  else if o = 0x10 then guarded { t with own := setHalf t.own false v }
  else if o = 0x14 then guarded { t with own := setHalf t.own true v }
  else if o = 0x40 then guarded { t with rsmap := setPaLo t.rsmap (v &&& 0xFFFFFFC0#32) }
  else if o = 0x44 then guarded { t with rsmap := setPaHi t.rsmap v }
  else if o = 0x60 then put { t with applyerrcnt := v }
  else if o = 0x64 then put { t with seqgapcnt := v }
  else if o = 0x68 then put { t with holdcnt := v }
  else if 0x100 ≤ o ∧ o < 0x200 then
    let r := (o - 0x100) / 16
    guarded { t with mr := tset {} t.mr r (mrWrite (mrGet s r) (o / 4 % 4) v) }
  else match twnRead s o with
    | .word _ _ => .ok s
    | a => a

end Sys2Proof.Machine
end

