-- ==== Sys2Proof/Machine/IoMap.lean ====
section
/-! DEFINITION. I/O space: the blocks of 21 R460, `IN` and `OUT` (05 R108-R110), and register writes and unmapped accesses
(21 R462-R465).
What is DEDUCED or a DESIGN CHOICE here is said in notes/assumptions, log 20. -/

namespace Sys2Proof.Machine

open Sys2Proof

/-! ### The blocks (21 R460, R461) -/

/-- A block of I/O space; a unit's number for those that are replicated. -/
inductive IoBlock where
  | cpx | wvl | nvc | evg | tmr | spc | che | ibf (p : Nat) | twn | ins | mpt (n : Nat) | hpt | pmu | hlt | eng (e : Eng)
  deriving DecidableEq, Repr

/-- The block that holds an address, and the offset in it. -/
def ioBlock (a : Nat) : Option (IoBlock × Nat) :=
  if a < 0x1000 then some (.cpx, a)
  else if a < 0x2000 then some (.wvl, a - 0x1000)
  else if a < 0x4000 then some (.nvc, a - 0x2000)
  else if a < 0x8000 then some (.evg, a - 0x4000)
  else if a < 0x9000 then some (.tmr, a - 0x8000)
  else if a < 0x10000 then none
  else if a < 0x20000 then some (.spc, a - 0x10000)
  else if a < 0x30000 then some (.che, a - 0x20000)
  else if a < 0x34000 then some (.ibf ((a - 0x30000) / 0x1000), a % 0x1000)
  else if a < 0x38000 then none
  else if a < 0x39000 then some (.twn, a - 0x38000)
  else if a < 0x40000 then none
  else if a < 0x42000 then some (.ins, a - 0x40000)
  else if a < 0x50000 then none
  else if a < 0x54000 then some (.mpt ((a - 0x50000) / 0x1000), a % 0x1000)
  else if a < 0x58000 then none
  else if a < 0x59000 then some (.hpt, a - 0x58000)
  else if a < 0x60000 then none
  else if a < 0x70000 then some (.pmu, a - 0x60000)
  else if a < 0x71000 then some (.hlt, a - 0x70000)
  else if a < 0x100000 then none
  else if a < 0x140000 then some (.eng (Fin.ofNat 64 ((a - 0x100000) / 0x1000)), a % 0x1000)
  else none

/-- Blocks that an instance's view holds. -/
def IoBlock.shared (b : IoBlock) : Bool := b == .evg || b == .tmr || b == .che || b == .ins

/-- Blocks with fields that are staged (02 R46). -/
def IoBlock.stages (b : IoBlock) : Bool := b == .wvl || b == .spc || b == .che || b == .ins

/-- The block that an access reaches: it holds the address, and the source's view and the staged bit admit it. -/
def ioReach (s : State) (src : IoSrc) (addr : BitVec 24) : Option (IoBlock × Nat) :=
  (ioBlock (fld addr 0 23).toNat).filter fun p =>
    (viewOf s src == .manager || (p.1.shared && !addr.getLsbD 23)) && (!addr.getLsbD 23 || p.1.stages)

/-- The clock of a block's registers runs (05 R110). -/
def ioClock (s : State) (b : IoBlock) : Bool :=
  match b with
  | .nvc | .hlt => clkOn s .mgclk
  | .eng _ => eclkOn s
  | _ => true

/-- The I/O register bus serves the source in the present slot (02 R40). -/
def ioTry (s : State) (src : IoSrc) : Option State := outServe s 137 (masterOf src) true

/-- A read of a register of a block. -/
def blockRead (s : State) (src : IoSrc) (b : IoBlock) (o : Nat) (st : Bool) : IoAns :=
  let v := viewOf s src
  match b with
  | .cpx => cpxRead s o
  | .wvl => wvlRead s o st
  | .nvc => nvcRead s o
  | .evg => evgRead s v o
  | .tmr => tmrRead s v o
  | .spc => spcRead s o st
  | .che => cheRegRead s src o st
  | .ibf p => ibfRead s p o
  | .twn => twnRead s o
  | .ins => insRead s v o st
  | .mpt n => mptRead s n o
  | .hpt => hptRead s o
  | .pmu => pmuRead s (masterOf src) o
  | .hlt => hltRead s o
  | .eng e => engRead s e o

/-- A write of a register of a block. -/
def blockWrite (s : State) (src : IoSrc) (b : IoBlock) (o : Nat) (st : Bool) (w : Word) : IoAns :=
  let v := viewOf s src
  match b with
  | .cpx => cpxWrite s o w
  | .wvl => wvlWrite s o st w
  | .nvc => nvcWrite s o w
  | .evg => evgWrite s v o w
  | .tmr => tmrWrite s v o w
  | .spc => spcWrite s o st w
  | .che => cheRegWrite s src o st w
  | .ibf p => ibfWrite s p o w
  | .twn => twnWrite s o w
  | .ins => insWrite s v o st w
  | .mpt n => mptWrite s n o w
  | .hpt => hptWrite s o w
  | .pmu => pmuWrite s (masterOf src) o w
  | .hlt => hltWrite s o w
  | .eng e => engWrite s e o w

/-- An access that finds its register waits for the block's clock; one that finds none does not (21 R465). -/
def ioHeld (s : State) (b : IoBlock) (a : IoAns) : IoAns :=
  match a with
  | .word _ _ => if ioClock s b then a else .held s
  | a => a

/-- What a served read comes to. -/
def ioRead (s : State) (src : IoSrc) (addr : BitVec 24) : IoAns :=
  match ioReach s src addr with
  | none => .unmapped
  | some (b, o) => ioHeld s b (blockRead s src b o (addr.getLsbD 23))

/-- A write whose own work finds no slot waits as a whole, with the words that slots have served (02 R40). -/
def ioSettled (s : State) (a : IoAns) : IoAns :=
  match a with
  | .word t _ => if t.cyc.stalled && !s.cyc.stalled then .held (slotsBack s t) else a
  | a => a

/-- Registers in which hardware counts, or that it counts down from. -/
def hwCounted (b : IoBlock) (o : Nat) : Bool :=
  match b with
  | .spc => o == 0x08 || o == 0x14 || o == 0x20
  | .che => decide (0x30 ≤ o ∧ o ≤ 0x40) || o == 0xF00C || decide (0x9000 ≤ o ∧ o < 0xA000)
  | .ibf _ => decide (0x40 ≤ o ∧ o < 0x80)
  | .twn => decide (0x60 ≤ o ∧ o ≤ 0x68)
  | .ins => decide (0x100 ≤ o ∧ o < 0x300) || (decide (0x1000 ≤ o) && o / 4 % 16 == 4)
  | .mpt _ => o == 0x24 || o == 0x28 || o == 0x2C
  | .hpt => o == 0x24 || o == 0x28 || o == 0x2C || o == 0x34
  | .pmu => o == 0x28 || decide (0x80 ≤ o ∧ o < 0xB4)
  | .tmr => decide (o < 0x800) && decide (o / 4 % 8 < 4)
  | _ => false

/-- What a served write comes to (21 R463, R464): W1C bits are cleared under 00 R6, and a register in which hardware counts is written again as
the cycle ends (21 R466). -/
def ioWrite (s : State) (src : IoSrc) (addr : BitVec 24) (w : Word) : IoAns :=
  match ioReach s src addr with
  | none => .unmapped
  | some (b, o) =>
    let v := if b = .cpx ∧ o = 0x40 then w else w1cWord s (fld addr 0 23).toNat w
    match ioHeld s b (ioSettled s (blockWrite s src b o (addr.getLsbD 23) v)) with
    | .word t x => .word (if hwCounted b o && !addr.getLsbD 23 then noteSet t addr (masterOf src) w else t) x
    | a => a

/-- The cycle ends: such a write takes effect after what hardware has done in the cycle (21 R466). -/
def endSets (s : State) : State :=
  s.cyc.sets.foldl (fun s x =>
    match ioReach s .host x.1 with
    | some (b, o) => (match blockWrite s .host b o false x.2.2 with | .word t _ => t | _ => s)
    | none => s) s

/-- A read with 21 R465 applied: the state after it and the word, or none while it is held. -/
def ioGet (s : State) (src : IoSrc) (addr : BitVec 24) : Option (State × Word) :=
  (ioTry s src).bind fun s0 =>
    match ioRead s0 src addr with
    | .word s1 v => some (s1, v)
    | .unmapped => some (unmapped s0 src addr false, 0)
    | .held _ => none

/-- A write with 21 R465 applied: done, or held, with what it leaves then. -/
def ioPut (s : State) (src : IoSrc) (addr : BitVec 24) (w : Word) : State × Bool :=
  match ioTry s src with
  | none => (s, false)
  | some s0 =>
    match ioWrite s0 src addr w with
    | .word s1 _ => (s1, true)
    | .unmapped => (unmapped s0 src addr true, true)
    | .held s1 => (slotsBack s s1, false)

/-- The state after a write; none while it is held. -/
def ioSet (s : State) (src : IoSrc) (addr : BitVec 24) (w : Word) : Option State :=
  let (t, done) := ioPut s src addr w
  if done then some t else none

/-! ### IN and OUT (05 R108, R109) -/

/-- Every earlier data-space access and cache maintenance operation has performed, and no I/O access is open (05 R109); the spills of the
instruction's own step 3 are no earlier ones. -/
def ioReady (s : State) (g : Engine) : Bool :=
  fclkOn s && g.m.sb.isEmpty && !(g.m.wbs.any (·.dcm)) && g.io.isNone

/-- The address of an `INR` or `OUTR` (03 R68). -/
def ioSum (base : Word) (o : BitVec 24) : BitVec 24 := fld (base + o.signExtend 32) 0 24

/-- A read of I/O space: k cells popped, the data on its way until IO_ACCESS_COMPLETE. -/
def inOp (e : Eng) (k : Nat) (addr : List Word → BitVec 24) (s : State) : Out :=
  issueWith s e .long true true false none (fun s =>
    if (regGet s e).priv = 0 then .fault s (privilege (regGet s e) 1)
    else (pops s e k 1).bind fun s1 vs =>
      let a := addr vs
      if fld a 0 2 ≠ (0 : BitVec 2) then .fault s1 (alignFault 1 (a.setWidth 32))
      else if !ioReady s (engGet s e) then .hold s1
      else match ioGet s1 (.engine e) a with
        | none => .hold s1
        | some (s2, v) => .ok (putCells s2 e k []) v)
    fun s' v => engPut s' e { engGet s' e with io := some ⟨true, v⟩ }

/-- A write of I/O space: k cells popped, the value in the last of them; the instruction completes, and its acknowledgement is
on its way. -/
def outOp (e : Eng) (k : Nat) (addr : List Word → BitVec 24) (s : State) : Out :=
  issueWith s e .long true true false none (fun s =>
    if (regGet s e).priv = 0 then .fault s (privilege (regGet s e) 1)
    else (pops s e k 0).bind fun s1 vs =>
      let a := addr vs
      if fld a 0 2 ≠ (0 : BitVec 2) then .fault s1 (alignFault 1 (a.setWidth 32))
      else if !ioReady s (engGet s e) then .hold s1
      else
        let s2 := putCells s1 e k []
        match ioPut (regPut s2 e (nextRegs (regGet s2 e) .long false none)) (.engine e) a (vs.getLastD 0) with
        | (s3, false) => .hold (slotsBack s1 s3)
        | (s3, true) => .ok s3 ())
    fun s' _ =>
      let s1 := commit s' e .long 0
      engPut s1 e { engGet s1 e with io := some ⟨false, 0⟩ }

/-- IN (05 R108). -/
def execInAbs (e : Eng) (o : BitVec 24) (s : State) : Out := inOp e 0 (fun _ => o) s

/-- INR (05 R108). -/
def execInr (e : Eng) (o : BitVec 24) (s : State) : Out := inOp e 1 (fun vs => ioSum (vs.headD 0) o) s

/-- OUT (05 R108). -/
def execOutAbs (e : Eng) (o : BitVec 24) (s : State) : Out := outOp e 1 (fun _ => o) s

/-- OUTR (05 R108); `SEND` is this form. -/
def execOutr (e : Eng) (o : BitVec 24) (s : State) : Out := outOp e 2 (fun vs => ioSum (vs.headD 0) o) s

/-- IO_ACCESS_COMPLETE (05 R109): an `IN` pushes its data and commits; an `OUT` is acknowledged. A stopped engine's `IN` is
discarded (19 R430). -/
def execIoAccessComplete (e : Eng) (s : State) : Host.Outcome State Fault Refusal :=
  let g := engGet s e
  when (eclkOn s) s (
    match g.io with
    | none => s
    | some w =>
      let s1 := engPut s e { g with io := none }
      if w.isIn ∧ g.st = .running then finish (putCells s1 e 0 [.val w.data]) e .long 0 none else s1)

/-! ### Register access from any source (21 R462-R466) -/

/-- The access is made: an aligned one by a source that may. -/
def ioMade (s : State) (src : IoSrc) (addr : BitVec 24) : Bool := fclkOn s && fld addr 0 2 == (0 : BitVec 2) && srcActs s src

/-- REGISTER_WRITE (21 R463, R464): a write of any register. -/
def execRegisterWrite (src : IoSrc) (addr : BitVec 24) (v : Word) (s : State) : Host.Outcome State Fault Refusal :=
  .next (if ioMade s src addr then (ioPut s src addr v).1 else s)

/-- No register lies at the address in the source's view. -/
def ioAbsent (s : State) (src : IoSrc) (addr : BitVec 24) : Bool := ioRead s src addr == .unmapped

/-- UNMAPPED_ACCESS (21 R465). -/
def execUnmappedAccess (src : IoSrc) (addr : BitVec 24) (write : Bool) (s : State) : Host.Outcome State Fault Refusal :=
  .next (if ioMade s src addr && ioAbsent s src addr then
    match ioTry s src with
    | none => s
    | some s0 => if write then unmapped s0 src addr true else { unmapped s0 src addr false with lastRead := 0 }
  else s)

end Sys2Proof.Machine
end

