-- ==== Sys2Proof/Machine/HostPort.lean ====
section
/-! DEFINITION. The host-port target and the test access port (20 R444, R454-R456, R459).
What is DEDUCED or a DESIGN CHOICE here is said in notes/assumptions, log 5 and 20. -/

namespace Sys2Proof.Machine

open Sys2Proof

/-! ### Host target (20 R444) -/

/-- The I/O register bus and the scratchpad serve the host port and the TAP (19 R424). -/
def busOn (s : State) : Bool := fclkOn s && decide (3 ≤ s.cpx.step.toNat)

/-- The aligned group of four MASK bits that is set, when exactly one is. -/
def maskGroup (mask : Word) : Option Nat := (List.range 8).find? fun g => mask == BitVec.ofNat 32 (15 * 16 ^ g)

/-- The word whose bytes are all set in a mask's named bytes. -/
def byteFill (mask : Word) : BitVec 256 :=
  BitVec.ofNat 256 (leNat ((List.range 32).map fun k => if mask.getLsbD k then (0xFF#8 : Byte) else 0))

/-- The request is answered; a byte of the beat that the manual states no value for is free. `data` is given at the bytes of
`mask`. -/
def hostAnswer (s : State) (id : BitVec 4) (err : BitVec 2) (data : BitVec 256) (mask : Word) : State :=
  let (s1, x) := takeFree s 32
  let m := byteFill mask
  let s2 := { s1 with hpt := { s1.hpt with rsp := s1.hpt.rsp ++ [⟨id, (data &&& m) ||| (BitVec.ofNat 256 x &&& ~~~ m), err⟩] } }
  if err = 0 then s2
  else raiseIf s.hpt.ini.ev (fresh { s2 with hpt := { s2.hpt with terr := true, terrcnt := satAdd s2.hpt.terrcnt 1 } } 0x58000 3) 358

/-- The request's bytes cross into FCLK (18 R409, R411). -/
def hostCount (s : State) (mask : Word) : State :=
  let n := (List.range 32).countP fun k => mask.getLsbD k
  meterAdd (pmuAdd s 520 n) 4 n

/-- A target request for I/O space: done, or held. -/
def hostIo (s : State) (write : Bool) (addr : BitVec 20) (mask : Word) (id : BitVec 4) (data : BitVec 256) : State × Bool :=
  match maskGroup mask with
  | none => (hostAnswer (hostCount s mask) id 2 0 0, true)
  | some g =>
    let a : BitVec 24 := BitVec.ofNat 24 (addr.toNat * 32 + 4 * g)
    if write then
      match ioPut s .host a (fld data (32 * g) 32) with
      | (s1, true) => (hostAnswer (hostCount s1 mask) id 0 0 0, true)
      | (s1, false) => (s1, false)
    else match ioGet s .host a with
      | some (s1, v) => (hostAnswer (hostCount s1 mask) id 0 (BitVec.shiftLeft (v.setWidth 256) (32 * g)) mask, true)
      | none => (s, false)

/-- The words of the beat, 0-3, of which MASK names a byte. -/
def maskWords (mask : Word) : List Nat := (List.range 4).filter fun k => fld mask (8 * k) 8 != (0 : BitVec 8)

/-- What the first word that a write merges with is about to show. -/
def mergeEcc (part : List Nat) (ecc : Ecc) (s : State) : State :=
  match part, ecc with
  | w :: _, .uncorrectable => spoil s w
  | w :: _, .corrected => soften s w
  | _, _ => s

/-- The 32 bytes of a beat as master 66 reads them. -/
def hostBeat (s : State) (o : Nat) : List Byte := (List.range 4).flatMap fun k => toBytes 8 (oldWord s 66 (o / 8 + k)).toNat

/-- A target request for the scratchpad, as master 66 (12 R274, R471): done, or held. -/
def hostSpad (s : State) (write : Bool) (o : Nat) (mask : Word) (id : BitVec 4) (data : BitVec 256) (ecc : Ecc) : State × Bool :=
  let answer := fun (t : State) (err : BitVec 2) => (hostAnswer (hostCount t mask) id err 0 0, true)
  if !s.hpt.ten then answer s 1
  else if mask = 0 then answer s 0
  else if write then
    let part := (maskWords mask).filter fun k => fld mask (8 * k) 8 != (0xFF : BitVec 8)
    match mstWriteWith (mergeEcc (part.map (· + o / 8)) ecc) s 66 .every o (maskBytes data mask) none with
    | .done s1 => answer s1 0
    | .refused s1 => answer s1 1
    | .bad s1 => answer s1 3
    | .held s1 => (heldState s s1, false)
  else
    match wordsServe s 66 ((maskWords mask).map (o / 8 + ·)) with
    | (s1, false) => (s1, false)
    | (s1, true) =>
      match firstRefused s1 66 .every false (((List.range 32).filter fun k => mask.getLsbD k).map (· + o)) with
      | some r => answer (violation s1 66 r false 0) 1
      | none =>
        let (s2, ok) := bankWords 66 (hostCount s1 mask) ecc ((maskWords mask).map (o / 8 + ·))
        if ok then (hostAnswer s2 id 0 (BitVec.ofNat 256 (leNat (hostBeat s1 o))) mask, true) else (hostAnswer s2 id 3 0 0, true)

/-! ### The test access port (20 R454-R456) -/

/-- The TAP is locked (20 R456). -/
def tapLocked (s : State) : Bool := s.cpx.taplock || s.cpx.nvlock

/-- The IDCODE register (20 R454); `TAP_MFR` is tied by the integrator. -/
def tapIdcode : Word := 0x3#4 ++ 0x5B64#16 ++ Config.tapMfr ++ 1#1

/-- The DBGSTAT register (20 R454, R456). -/
def dbgStat (s : State) : BitVec 8 :=
  BitVec.ofNat 8 ((if s.tap.busy then 1 else 0) + (if s.tap.done then 2 else 0) + (if tapLocked s then 4 else 0) +
    if s.tap.err || tapLocked s then 8 else 0)

/-- What Capture-DR loads: the length of the data register that the instruction selects, and its bits, bit 0 first out of `TDO`. What
DBGADDR and BYPASS capture is a DESIGN CHOICE (log 20). -/
def tapCapture (s : State) : Nat × Word :=
  if s.tap.ir = 1 then (32, tapIdcode)
  else if s.tap.ir = 2 then (32, s.tap.addr.setWidth 32 ||| (bitW s.tap.write <<< 24))
  else if s.tap.ir = 3 then (32, s.tap.data)
  else if s.tap.ir = 4 then (8, (dbgStat s).setWidth 32)
  else (1, 0)

/-- A debug access is performed, or refused by a locked TAP: done, or held. -/
def tapAccess (s : State) : State × Bool :=
  if tapLocked s then ({ s with tap := { s.tap with busy := false, err := true } }, true)
  else if s.tap.write then
    match ioPut s .tap s.tap.addr s.tap.din with
    | (s1, true) => ({ s1 with tap := { s1.tap with busy := false, done := true } }, true)
    | (s1, false) => (s1, false)
  else match ioGet s .tap s.tap.addr with
    | some (s1, v) => ({ s1 with tap := { s1.tap with busy := false, done := true, data := v } }, true)
    | none => (s, false)

/-! ### Arrival order (20 R444, R455) -/

/-- A request of the bus's queue: done, or held. -/
def busOne (s : State) (q : BusReq) : State × Bool :=
  match q with
  | .host write addr mask id data ecc =>
    if addr.getLsbD 19 then hostSpad s write ((addr.toNat % 2 ^ 19) * 32) mask id data ecc else hostIo s write addr mask id data
  | .tap => tapAccess s

/-- Those that have arrived, in order: a debug access that still crosses MGCLK comes after them. -/
def busQueue (s : State) : List BusReq :=
  if clkOn s .mgclk then s.hpt.reqs else s.hpt.reqs.filter (· ≠ .tap)

/-- Requests are served in the order of their arrival until one is held; that one keeps the words that slots have served (02 R40). -/
def busServe : Nat → State → State
  | 0, s => s
  | n + 1, s =>
    match busQueue s with
    | [] => s
    | q :: r =>
      match busOne s q with
      | (t, true) => busServe n { t with hpt := { t.hpt with reqs := r ++ if clkOn s .mgclk then [] else s.hpt.reqs.filter (· = .tap) } }
      | (t, false) => slotsBack s t

/-- Once the I/O register bus and the scratchpad serve the host port and the TAP. -/
def busFlush (s : State) : State := if busOn s then busServe s.hpt.reqs.length s else s

/-- A request joins those that wait. -/
def busJoin (s : State) (q : BusReq) : State := { s with hpt := { s.hpt with reqs := s.hpt.reqs ++ [q] } }

/-- Target requests outstanding (20 R444). -/
def hostOut (s : State) : Nat := (s.hpt.reqs.countP (· ≠ .tap)) + s.hpt.rsp.length

/-- HOST_TARGET_REQUEST (20 R444): at most 16 are outstanding. In deep idle it wakes the complex (19 R428); it is served when the bus runs
and those before it have been. -/
def execHostTargetRequest (write : Bool) (addr : BitVec 20) (mask : Word) (id : BitVec 4) (data : BitVec 256) (ecc : Ecc)
    (s : State) : Host.Outcome State Fault Refusal :=
  .next (
    if !clkOn s .hpclk || decide (16 ≤ hostOut s) then s
    else
      let s1 := busJoin s (.host write addr mask id data ecc)
      if s.cpx.deepIdle then wakeUp s1 else busFlush s1)

/-- TAP_DEBUG_ACCESS (20 R455, R456): Update-DR of DBGDATA. -/
def execTapDebugAccess (addr : BitVec 24) (write : Bool) (data : Word) (s : State) : Host.Outcome State Fault Refusal :=
  let t : Tap := { s.tap with ir := 3, addr := addr, write := write, din := data }
  .next (
    if !clkOn s .tck || s.tap.busy then s
    else if tapLocked s then { s with tap := { t with err := true } }
    else if fld addr 0 2 ≠ (0 : BitVec 2) then { s with tap := { t with done := false, err := true } }
    else busFlush (busJoin { s with tap := { t with busy := true, done := false, err := false } } .tap))

/-- CPX_TAPCTL_LOCK (20 R459). -/
def execCpxTapctlLock (s : State) : Host.Outcome State Fault Refusal :=
  when (fclkOn s) s { s with cpx := { s.cpx with taplock := true } }

end Sys2Proof.Machine
end

