-- ==== Sys2Proof/Machine/MulDiv.lean ====
section
/-! DEFINITION. The multiplier and the divider (06 R138-R145). -/

namespace Sys2Proof.Machine

open Sys2Proof

/-- Starts a product (06 R138); in run-ahead an invalid operand makes `MLO` and `MHI` invalid. -/
def mulOp (e : Eng) (o : BitVec 24) (f : Word → Word → BitVec 64) (checked : Bool) (s : State) : Out :=
  issue s e .long false false false (reservedFrom o 0) fun s =>
    ((pops s e 2 0).onInv fun s1 => markBad (markBad s1 e (.spec 0x030) true) e (.spec 0x031) true).bind fun s1 vs =>
      let b := vs.headD 0
      let a := (vs[1]?).getD 0
      let s1 := markBad (markBad s1 e (.spec 0x030) false) e (.spec 0x031) false
      let g := engGet s1 e
      let p : Product := { val := f a b, mulv := checked, ovf := checked && g.r.sp.ctlEff.getLsbD 0 && mulvOvf a b,
                           pc := g.r.pc, id := g.nextId,
                           spec := speculative g }
      if p.ovf && g.ra.isSome then .fault s1 { num := 8 }
      else .ok (engPut s1 e { g with prods := g.prods ++ [p], nextId := g.nextId + 1, r := cellsPut g.r 2 [] }) none

/-- MUL (06 R138, 03 R80). -/
def execMul (e : Eng) (o : BitVec 24) (s : State) : Out := mulOp e o mulS false s
/-- MULU. -/
def execMulu (e : Eng) (o : BitVec 24) (s : State) : Out := mulOp e o mulU false s
/-- MULV (06 R145): a long operation for its fault. -/
def execMulv (e : Eng) (o : BitVec 24) (s : State) : Out := mulOp e o mulS true s

/-- `MLO` and `MHI` with a product. -/
def productRegs (p : Product) (r : Regs) : Regs := { r with mlo := p.val.setWidth 32, mhi := fld p.val 32 32 }

/-- PRODUCT_LANDS (06 R138): the oldest product writes `MLO` and `MHI`; one of a mispredicted path never lands (06 R140), and one
of run-ahead is seen by run-ahead alone. -/
def execProductLands (e : Eng) (s : State) : Out :=
  let g := engGet s e
  .next (match g.prods with
    | [] => s
    | p :: rest =>
      if !eclkOn s || (p.spec && g.ra.isNone) then s
      else if p.spec then engPut s e { g with prods := rest, r := productRegs p g.r }
      else
        let g1 := onRegs { g with prods := rest } (productRegs p)
        engPut s e (if p.ovf then { g1 with longq := g1.longq ++ [⟨p.id, 8, p.pc, precise g true⟩] } else g1))

/-- Starts a divide and reserves its result cell (06 R142-R144). `ENG.CTL.DZE` and OVE are those in effect as it issues, also where an entry
or `RETI` changes them before its result is written (DESIGN CHOICE, log 21: 06 R145 does not say). In run-ahead one that would fault ends it
(08 R189). -/
def divOp (e : Eng) (o : BitVec 24) (f : Word → Word → Word) (ovf : Word → Word → Bool) (s : State) : Out :=
  issue s e .long false false false (reservedFrom o 0) fun s =>
    if (engGet s e).div.isSome then .hold s
    else (pops s e 2 1).bind fun s1 vs =>
      let b := vs.headD 0
      let a := (vs[1]?).getD 0
      let g := engGet s1 e
      let fault : Option (BitVec 5) :=
        if b = 0 then (if g.r.sp.ctlEff.getLsbD 1 then some 7 else none)
        else if g.r.sp.ctlEff.getLsbD 0 && ovf a b then some 8 else none
      let d : Divide := { id := g.nextId, result := f a b, fault := fault, pc := g.r.pc, spec := speculative g }
      if fault.isSome && g.ra.isSome then .fault s1 { num := fault.getD 0 }
      else .ok (engPut s1 e { g with div := some d, nextId := g.nextId + 1, r := cellsPut g.r 2 [.rsv g.nextId] }) none

/-- DIV (06 R142). -/
def execDiv (e : Eng) (o : BitVec 24) (s : State) : Out := divOp e o divS divOvf s
/-- DIVU. -/
def execDivu (e : Eng) (o : BitVec 24) (s : State) : Out := divOp e o divU (fun _ _ => false) s
/-- REM. -/
def execRem (e : Eng) (o : BitVec 24) (s : State) : Out := divOp e o remS (fun _ _ => false) s
/-- REMU. -/
def execRemu (e : Eng) (o : BitVec 24) (s : State) : Out := divOp e o remU (fun _ _ => false) s

/-- A reserved cell takes its value wherever it stands in the cache (06 R144). -/
def fillCell (id : Nat) (w : Word) (r : Regs) : Regs :=
  { r with ds := r.ds.map fun c => if c = .rsv id then .val w else c }

/-- DIVIDE_RESULT_WRITE (06 R142, R145): the result first, then the fault becomes pending. -/
def execDivideResultWrite (e : Eng) (s : State) : Out :=
  let g := engGet s e
  .next (match g.div with
    | none => s
    | some d =>
      if !eclkOn s then s
      else
        let g1 := onRegs { g with div := none } (fillCell d.id d.result)
        engPut s e (match d.fault with
          | some n => if d.spec then g1 else { g1 with longq := g1.longq ++ [⟨d.id, n, d.pc, precise g false⟩] }
          | none => g1))

end Sys2Proof.Machine
end

