-- ==== Sys2Proof/Machine/Pipeline.lean ====
section
/-! DEFINITION. What the pipeline does between instructions: the undo of a mispredicted path and run-ahead (08 R182-R190), line
fills (11 R259), the drains of the store buffer and the spill buffer (08 R192, 09 R216), and translation walks (11 R248-R253).
What is DEDUCED or a DESIGN CHOICE here is said in notes/assumptions, log 8 and 21. -/

namespace Sys2Proof.Machine

open Sys2Proof

/-- The engine's clocked parts run: its buffers drain and its fills land even when it is stopped (09 R223). -/
def engineOn (s : State) : Bool := eclkOn s

/-- MISPREDICT_UNDO (08 R184): younger work is discarded, and the engine stands after the transfer, which commits, on the correct
path; an invalidation that waits for the boundary acts there (11 R257). -/
def execMispredictUndo (e : Eng) (s : State) : Out :=
  let g := engGet s e
  .next (match g.wrong with
    | none => s
    | some c =>
      if !engineOn s then s
      else
        let g1 := discard g
        let m := predUpdate g1.m c.before.pc c.before.ghist c.cond c.tb c.after.pc
        engCount (engCount (engPut s e (xinvAct { g1 with m := m, r := c.after })) e 1) e 3)

/-- RUN_AHEAD_ENTRY (08 R187): a load's, a fill's or a spilled `PICK`'s miss is outstanding, `RAE` is 1 in effect. The anchor then
issues with an invalid result, and the instructions behind it follow. -/
def execRunAheadEntry (e : Eng) (line : LineAddr) (s : State) : Out :=
  let g := engGet s e
  let waits := g.anchor == some line && (wayOf g.m.dc line).isNone && (fillOf g .data line).all (·.st == .waiting)
  .next (
    if engineOn s && g.st == .running && g.lrPend.isNone && g.ra.isNone && g.r.sp.ctlEff.getLsbD 4 && waits then
      engCount (engPut s e { g with ra := some { anchor := g.r } }) e 6
    else s)

/-- In run-ahead the anchor's line is still asked for when its fill could not start at once (11 R259). -/
def anchorAsk (s : State) (e : Eng) : State :=
  let g := engGet s e
  match g.ra, g.anchor with
  | some _, some l =>
    if (wayOf g.m.dc l).isNone && (fillOf g .data l).isNone then
      match (askLine s e .data l { num := 15 } : Ans Unit) with
      | .hold t => t
      | _ => s
    else s
  | _, _ => s

/-- The undo of run-ahead (08 R189): its products and divide go, the anchor's registers stand. -/
def raUndo (g : Engine) : Engine :=
  match g.ra with
  | none => g
  | some a => { g with r := a.anchor, ra := none, vdirty := a.vdirty.getD g.vdirty,
                       prods := g.prods.filter fun p => !p.spec || g.wrong.isSome,
                       div := g.div.bind fun d => if d.spec && g.wrong.isNone then none else some d }

/-- RUN_AHEAD_END (08 R189): run-ahead has ended, and its instructions are discarded. -/
def execRunAheadEnd (e : Eng) (s : State) : Out :=
  .next (if engineOn s && (engGet s e).ra.any (·.ended) then engPut s e (raUndo (engGet s e)) else s)

/-- LINE_FILL_LANDS (11 R259, R260): the returned line fills its cache; a dirty victim is written back first. -/
def execLineFillLands (e : Eng) (side : CacheSide) (line : LineAddr) (s : State) : Out :=
  let g := engGet s e
  .next (match fillOf g side line with
    | none => s
    | some f =>
      if !engineOn s then s
      else match f.st with
        | .waiting => s
        | .failed => if f.prefetch then engPut s e (setFills g (fillsDel g.m.fills side line)) else s
        | .landed d =>
          let k := setOf line
          let c : CLine := { line := line, data := d, dirty := 0 }
          match side with
          | .instr =>
            let w := victim g.m.ic g.m.ilru k
            let m := { g.m with fills := fillsDel g.m.fills side line, ic := tput g.m.ic (4 * k + w) c, ilru := touch g.m.ilru k w }
            engPut s e { g with m := lbufPut m line d }
          | .data =>
            let fin := fun (g : Engine) =>
              if g.anchor = some line then { g with anchor := none, ra := g.ra.map fun a => { a with ended := true } } else g
            if (wayOf g.m.dc line).isSome then engPut s e (fin (setFills g (fillsDel g.m.fills side line)))
            else
              let w := victim g.m.dc g.m.dlru k
              let put := fun (s : State) =>
                let g := engGet s e
                let g1 := dcPut (setFills g (fillsDel g.m.fills side line)) (4 * k + w) (some c)
                engPut s e (fin { g1 with m := { g1.m with dlru := touch g1.m.dlru k w } })
              match tfind g.m.dc (4 * k + w) with
              | some v =>
                if v.dirty = 0 then put s
                else match writeBack s e v false with
                  | some s1 => put s1
                  | none => s
              | none => put s)

/-! ### Drains -/

/-- An error response on its way to the engine (09 R208). -/
def busError (s : State) (e : Eng) (l : LineAddr) (frame : Bool) : State :=
  let g := engGet s e
  engPut s e { g with berrs := g.berrs ++ [(l, frame)] }

/-- Writes masked bytes of one cacheable line: none while a fill is awaited. -/
def drainLine (s : State) (e : Eng) (l : LineAddr) (d : LineData) (mask : BitVec 64) (frame : Bool) : Option State :=
  match cacheLine s e l { num := 0 } with
    | .ok s' c =>
      let g := engGet s' e
      match wayOf g.m.dc l with
      | some w => some (engPut s' e (dcPut g (4 * setOf l + w)
          (some { c with data := mergeLine c.data d mask, dirty := c.dirty ||| mask })))
      | none => none
    | .fault s' _ => some (busError s' e l frame)
    | .hold _ => none
    | .inv _ => none

/-- The same, with the request of a missing line kept when it must wait. -/
def drainOr (s : State) (e : Eng) (l : LineAddr) (d : LineData) (mask : BitVec 64) (frame : Bool) : State × Bool :=
  match drainLine s e l d mask frame with
  | some s' => (s', true)
  | none => (match cacheLine s e l { num := 0 } with | .hold s' => (s', false) | _ => (s, false))

/-- The lowest of a line's eight 8-byte words in which a mask still names a byte. -/
def nextWord (mask : BitVec 64) : Option Nat := (List.range 8).find? fun k => fld mask (8 * k) 8 != 0

/-- Writes word k of a line in the scratchpad window, in an owned slot of its bank (08 R192, 12 R278). -/
def drainWord (s : State) (e : Eng) (l : LineAddr) (d : LineData) (mask : BitVec 64) (k : Nat) (frame : Bool) : Option State :=
  let w := winOff s (linePA l) / 8 + k
  (wordServe s e.val w).map fun s1 =>
    match spStore s1 e.val w (fld mask (8 * k) 8) (fld d (64 * k) 64) with
    | some t => t
    | none => busError (spUncorr s1 w) e l frame

/-- One entry has left the buffer: the counts that wait for it go down (09 R216, 11 R257). -/
def drainedOne (g : Engine) : Engine :=
  let g1 := { g with spill := g.spill.map fun f => { f with after := f.after - 1 } }
  if g.xleft = 0 then g1
  else { g1 with xleft := g.xleft - 1, xgo := g.xgo && decide (1 < g.xleft) }

/-- Drains the oldest committed entry, or one word of an entry to the window, when no older frame stands before it; the flag says
that an entry linked to the next has left. -/
def drainHead (s : State) (e : Eng) : State × Bool :=
  let g := engGet s e
  match g.m.sb with
  | [] => (s, false)
  | x :: rest =>
    if x.spec || g.spill.any (·.after == 0) then (s, false)
    else if x.win then
      match nextWord x.todo with
      | none => (engPut s e (drainedOne (setSb g rest)), false)
      | some k =>
        match drainWord s e x.line x.data x.todo k false with
        | none => (s, false)
        | some s1 =>
          let todo := x.todo &&& ~~~ lineMask (8 * k) 8
          let g1 := engGet s1 e
          (engPut s1 e (if todo = 0 then drainedOne (setSb g1 rest) else setSb g1 ({ x with todo := todo } :: rest)), false)
    else
      let (s1, ok) := drainOr s e x.line x.data x.mask false
      if ok then (engPut s1 e (drainedOne (setSb (engGet s1 e) rest)), x.link) else (s1, false)

/-- STORE_BUFFER_DRAIN (08 R192, R196): in the D-cache the two entries of a split store go together; an entry to the window goes
word by word. -/
def execStoreBufferDrain (e : Eng) (s : State) : Out :=
  .next (
    if !engineOn s then s
    else match (engGet s e).m.sb with
      | x :: y :: _ =>
        if x.link && !x.win then
          let (s1, ok) := if y.win then (s, true) else match cacheLine s e y.line { num := 0 } with
            | .hold s' => (s', false)
            | _ => (s, true)
          if ok then
            let (s2, more) := drainHead s1 e
            if more && !y.win then (drainHead s2 e).1 else s2
          else s1
        else (drainHead s e).1
      | _ => (drainHead s e).1)

/-- A frame in the scratchpad window gives its next word. -/
def drainFrameWord (s : State) (e : Eng) (f : SpillFrame) : State :=
  let x := (f.entries)[f.sent / 8]?
  match x.bind fun x => drainWord s e x.line x.data x.mask (f.sent % 8) true with
  | none => s
  | some s1 => engPut s1 e { engGet s1 e with spill := if f.sent < 15 then some { f with sent := f.sent + 1 } else none }

/-- SPILL_BUFFER_DRAIN (09 R216): two line writes, after the stores committed before the entry; in the window, word by word. -/
def execSpillBufferDrain (e : Eng) (s : State) : Out :=
  let g := engGet s e
  .next (match g.spill with
    | none => s
    | some f =>
      if !engineOn s || decide (0 < f.after) then s
      else if inWindow s f.pa then drainFrameWord s e f
      else match f.entries with
        | [a, b] =>
          let (s0, ok0) := match cacheLine s e b.line { num := 0 } with
            | .hold s' => (s', false)
            | _ => (s, true)
          if !ok0 then s0
          else
            let (s1, ok1) := drainOr s0 e a.line a.data a.mask true
            if !ok1 then s1
            else
              let (s2, ok2) := drainOr s1 e b.line b.data b.mask true
              if ok2 then engPut s2 e { engGet s2 e with spill := none } else s2
        | _ => s)

/-- MULTI of the error already captured (09 R208): it is set in `FCAUSE` wherever that register's value is kept while an undo, the
end of run-ahead or a last-resort entry could bring an older one back. -/
def multiSet (g : Engine) : Engine :=
  let f := fun (x : Word) => x ||| 0x400000#32
  let g1 := onRegs g fun r => { r with sp := { r.sp with fcause := f r.sp.fcause } }
  { g1 with lrPend := g1.lrPend.map fun q => { q with fcause := f q.fcause } }

/-- LATE_BUS_ERROR (09 R208): a frame's error is a MACHINE_CHECK; another error becomes pending, or merges into the first until
software writes `FCAUSE`. -/
def execLateBusError (e : Eng) (s : State) : Out :=
  let g := engGet s e
  .next (match g.berrs with
    | [] => s
    | (l, frame) :: rest =>
      if !engineOn s then s
      else
        let g1 := { g with berrs := rest }
        if frame then mcheckPut (engPut s e g1) e 3
        else engPut s e (
          if !g.lbeOpen then { g1 with lbe := some (l, false), lbeOpen := true }
          else match g.lbe with
            | some (l0, _) => { g1 with lbe := some (l0, true) }
            | none => multiSet g1))

/-! ### Walks (11 R248-R253) -/

/-- What a part of a walk comes to: an answer with the number of reads made, a fault's KIND, LEVEL, TW and STAGE2 with the intermediate
address, or a read that waits for its slot or its answer. -/
inductive Walked (α : Type) where
  | ok (s : State) (n : Nat) (a : α)
  | bad (s : State) (detail : BitVec 8) (ia : PAddr)
  | wait (s : State)
  deriving DecidableEq, Repr

def Walked.bind {α β : Type} (x : Walked α) (f : State → Nat → α → Walked β) : Walked β :=
  match x with
  | .ok s n a => f s n a
  | .bad s d ia => .bad s d ia
  | .wait s => .wait s

/-- `FCAUSE.DETAIL` of a walk's fault (11 R258). -/
def walkDetail (kind level : Nat) (tw s2 : Bool) : BitVec 8 :=
  BitVec.ofNat 8 (kind + 8 * level + (if tw then 32 else 0) + (if s2 then 128 else 0))

/-- The descriptor at an address of a line that a read has returned. -/
def descAt (pa : PAddr) (d : LineData) : BitVec 64 := BitVec.ofNat 64 (leNat (lineBytes d (pa.toNat % 64 / 8 * 8) 8))

/-- Descriptor read n of a walk in the scratchpad window: from its bank, under the engine's regions (11 R252). -/
def readBank (s : State) (e : Eng) (pa : PAddr) (n : Nat) : Walked (Option (BitVec 64)) :=
  let o := winOff s pa
  match wordServe s e.val (o / 8) with
  | none => .wait s
  | some s1 =>
    match firstRefused s1 e.val (engPres s1 e) false ((List.range 8).map (· + o)) with
    | some r => .ok (readNote (violation s1 e.val r false (engInst s1 e)) (.walk e) n (some none)) (n + 1) none
    | none =>
      match spRead s1 e.val o 8 with
      | (s2, some bs) => .ok (readNote s2 (.walk e) n (some (some (toLine (pa.toNat % 64) bs)))) (n + 1) (some (BitVec.ofNat 64 (leNat bs)))
      | (s2, none) => .ok (readNote s2 (.walk e) n (some none)) (n + 1) none

/-- Descriptor read n of a walk: one made already keeps its answer; another goes to the bank in the scratchpad window, or to the port of its
address under the engine's master ID (11 R252). -/
def readDesc (s : State) (e : Eng) (pa : PAddr) (n : Nat) : Walked (Option (BitVec 64)) :=
  match readOf s (.walk e) n with
  | some x => match x.ans with
    | none => .wait s
    | some d => .ok s (n + 1) (d.map (descAt pa))
  | none =>
    if inWindow s pa then readBank s e pa n
    else match askRead s (.walk e) n e.val (lineOf pa) with
      | (s1, none) => .wait s1
      | (s1, some d) => .ok s1 (n + 1) (d.map (descAt pa))

/-- Which tables a descriptor may stand in (11 R250). -/
inductive TableKind where
  | top
  | middle
  | last (big : Bool)
  deriving DecidableEq, Repr

/-- A descriptor's reading: 1 invalid, 3 malformed, a leaf with its size, or a table with its granule. -/
inductive Desc where
  | bad (kind : Nat)
  | leaf (size : BitVec 2)
  | table (big : Bool)
  deriving DecidableEq, Repr

/-- 11 R249, R250. -/
def descOf (k : TableKind) (s2 : Bool) (d : BitVec 64) : Desc :=
  let ty := fld d 0 2
  let reserved := fld d 7 5 != 0 || fld d 44 12 != 0 || (s2 && fld d 5 2 != 0)
  let badLeaf := d.getLsbD 3 && !d.getLsbD 2
  if ty = 0 then .bad 1
  else if reserved then .bad 3
  else match k with
    | .top => if ty = 2 && fld d 2 5 == 0 then .table false else .bad 3
    | .middle =>
      if ty = 1 then (if badLeaf || fld d 12 9 != 0 then .bad 3 else .leaf 2)
      else if fld d 2 5 == 0 then .table (ty == 3) else .bad 3
    | .last big =>
      if ty ≠ 1 || badLeaf || (big && fld d 12 4 != 0) then .bad 3 else .leaf (if big then 1 else 0)

/-- The output address of a descriptor. -/
def descAddr (d : BitVec 64) : PAddr := fld d 12 32 ++ (0 : BitVec 12)

/-- The address a leaf gives: its base with the low bits of the input. -/
def leafOut (d : BitVec 64) (size : BitVec 2) (a : PAddr) : PAddr :=
  let m : PAddr := BitVec.ofNat 44 (2 ^ pageBits size - 1)
  (descAddr d &&& ~~~m) ||| (a &&& m)

/-- Reads and judges one descriptor. -/
def walkStep (s : State) (e : Eng) (pa : PAddr) (n : Nat) (k : TableKind) (level : Nat) (tw s2 : Bool)
    (ia : PAddr) : Walked (BitVec 64 × Desc) :=
  (readDesc s e pa n).bind fun s1 r x =>
    match x with
    | none => .bad s1 (walkDetail 4 level tw s2) ia
    | some d =>
      match descOf k s2 d with
      | .bad kind => .bad s1 (walkDetail kind level tw s2) ia
      | t => .ok s1 r (d, t)

/-- What a stage grants: the output address, the leaf's size, its descriptor. -/
structure Leaf where
  out : PAddr
  size : BitVec 2
  desc : BitVec 64
  deriving DecidableEq, Repr

/-- The index of a last-level table: 9 bits, or 5 of a 64 KiB granule. -/
def lastIndex (a : PAddr) (big : Bool) : BitVec 12 :=
  if big then BitVec.ofNat 12 (8 * (fld a 16 5).toNat) else BitVec.ofNat 12 (8 * (fld a 12 9).toNat)

/-- Stage 2 of an intermediate address; none when the stage is not consulted. -/
def stage2 (s : State) (e : Eng) (ia : PAddr) (n : Nat) (tw : Bool) : Walked (PAddr × Option Leaf) :=
  let p := (regGet s e).sp
  if !p.xctlEff.getLsbD 1 then .ok s n (ia, none)
  else
    let base : PAddr := fld p.xlt2Eff 5 27 ++ (fld ia 30 14 ++ (0 : BitVec 3))
    (walkStep s e base n .top 1 tw true ia).bind fun s1 r1 x1 =>
      let a2 : PAddr := descAddr x1.1 + (fld ia 21 9 ++ (0 : BitVec 3)).setWidth 44
      (walkStep s1 e a2 r1 .middle 2 tw true ia).bind fun s2 r2 x2 =>
        match x2.2 with
        | .leaf z => .ok s2 r2 (leafOut x2.1 z ia, some ⟨leafOut x2.1 z ia, z, x2.1⟩)
        | .table big =>
          (walkStep s2 e (descAddr x2.1 + (lastIndex ia big).setWidth 44) r2 (.last big) 3 tw true ia).bind fun s3 r3 x3 =>
            match x3.2 with
            | .leaf z => .ok s3 r3 (leafOut x3.1 z ia, some ⟨leafOut x3.1 z ia, z, x3.1⟩)
            | _ => .wait s3
        | _ => .wait s2

/-- Stage 2 of a stage-1 table address, which needs read permission (11 R252). -/
def tableAddr (s : State) (e : Eng) (ia : PAddr) (n : Nat) : Walked PAddr :=
  (stage2 s e ia n true).bind fun s1 r1 x =>
    match x.2 with
    | some l => if l.desc.getLsbD 2 then .ok s1 r1 x.1 else .bad s1 (walkDetail 2 0 true true) ia
    | none => .ok s1 r1 x.1

/-- Stage 1 of a virtual address; none when the stage is not consulted. -/
def stage1 (s : State) (e : Eng) (va : Word) (n : Nat) : Walked (PAddr × Option Leaf) :=
  let p := (regGet s e).sp
  let a : PAddr := va.setWidth 44
  if !p.xctlEff.getLsbD 0 then .ok s n (a, none)
  else
    let ia1 : PAddr := fld p.xlt1Eff 2 30 ++ (fld va 21 11 ++ (0 : BitVec 3))
    (tableAddr s e ia1 n).bind fun s1 r1 pa1 =>
      (walkStep s1 e pa1 r1 .middle 1 false false a).bind fun s2 r2 x1 =>
        match x1.2 with
        | .leaf z => .ok s2 r2 (leafOut x1.1 z a, some ⟨leafOut x1.1 z a, z, x1.1⟩)
        | .table big =>
          let ia2 := descAddr x1.1 + (lastIndex a big).setWidth 44
          (tableAddr s2 e ia2 r2).bind fun s3 r3 pa2 =>
            (walkStep s3 e pa2 r3 (.last big) 2 false false a).bind fun s4 r4 x2 =>
              match x2.2 with
              | .leaf z => .ok s4 r4 (leafOut x2.1 z a, some ⟨leafOut x2.1 z a, z, x2.1⟩)
              | _ => .wait s4
        | _ => .wait s2

/-- The TLB entry of a complete walk (11 R255): the smaller leaf size, and what each stage grants. -/
def walkEntry (tag : BitVec 7) (va : Word) (ia pa : PAddr) (l1 l2 : Option Leaf) : TlbEntry :=
  let bit := fun (l : Option Leaf) (k : Nat) => (l.map fun x => x.desc.getLsbD k).getD true
  let size := match l1, l2 with
    | some x, some y => if x.size.ult y.size then x.size else y.size
    | some x, none => x.size
    | none, some y => y.size
    | none, none => 0
  { va := va, pa := pa, size := size, r := bit l1 2, w := bit l1 3, x := bit l1 4, u := bit l1 5,
    sb1 := (l1.map fun x => x.desc.getLsbD 6).getD false, inst := tag, s2r := bit l2 2, s2w := bit l2 3, s2x := bit l2 4,
    ia := ia }

/-- Both stages (11 R247, R252). -/
def walkAll (s : State) (e : Eng) (va : Word) : Walked TlbEntry :=
  (stage1 s e va 0).bind fun s1 r1 x1 =>
    (stage2 s1 e x1.1 r1 false).bind fun s2 r2 x2 =>
      .ok s2 r2 (walkEntry (instTag s e) va x1.1 x2.1 x1.2 x2.2)

/-- The fault a walk found, kept for the access that asked for it. -/
def walkFault (g : Engine) (acc : AccKind) (va : Word) (d : BitVec 8) (ia : PAddr) : Engine :=
  { g with walk := none, wfault := some (acc, va, d, if d.getLsbD 7 then some (fipaOf ia) else none) }

/-- The walk an access waits for goes as far as its reads have been answered. The permission check follows a complete walk; a walk that ends
in a fault makes no entry. -/
def walkOn (e : Eng) (acc : AccKind) (va : Word) (s : State) : State :=
  let g := engGet s e
  match g.walk with
    | none => s
    | some (a, v, priv) =>
      if !engineOn s || a ≠ acc || v ≠ va then s
      else match walkAll s e va with
        | .wait s1 => s1
        | .bad s1 d ia => readsEnd (engPut s1 e (walkFault (engGet s1 e) acc va d ia)) (.walk e)
        | .ok s1 _ t =>
          let g1 := engGet s1 e
          let (ok1, ok2) := t.grants acc priv
          readsEnd (engPut s1 e (
            if ok1 && ok2 then { g1 with walk := none, m := firstPut (tlb2Put g1.m t) acc t }
            else walkFault g1 acc va (if ok1 then 0x82#8 else 0x02#8) t.ia)) (.walk e)

/-- TRANSLATION_WALK (11 R252, R253). -/
def execTranslationWalk (e : Eng) (acc : AccKind) (va : Word) (ecc : Ecc) (s : State) : Out := .next (withEcc [ecc] (walkOn e acc va) s)

end Sys2Proof.Machine
end

