-- ==== Sys2Proof/Machine/Vector.lean ====
section
/-! DEFINITION. The vector unit: element operations (07 R159-R164), the queue (07 R156-R158), memory (07 R165-R168), and save and
restore (07 R169, R170).
What is DEDUCED or a DESIGN CHOICE here is said in notes/assumptions, log 4 and 25. -/

namespace Sys2Proof.Machine

open Sys2Proof

/-! ### Elements -/

/-- Element width in bits for a `VTYPE.SEW` value (07 R153). -/
def sewBits (sew : BitVec 2) : Nat := if sew = 0 then 8 else if sew = 1 then 16 else 32

/-- VLMAX for a width in bits. -/
def vlmax (w : Nat) : Nat := 512 / w

def vget (g : Engine) (k : Nat) : BitVec 512 := tget 0 g.v k

/-- Element i at w bits. -/
def elem (w : Nat) (r : BitVec 512) (i : Nat) : BitVec w := fld r (w * i) w

/-- A register with element i replaced. -/
def putElem (w : Nat) (r : BitVec 512) (i : Nat) (x : BitVec w) : BitVec 512 :=
  (r &&& ~~~(BitVec.ofNat 512 (2 ^ w - 1) <<< (w * i))) ||| (x.setWidth 512 <<< (w * i))

/-- The active elements below n (07 R155). -/
def active (m : Bool) (v0 : BitVec 512) (vstart n : Nat) : List Nat :=
  (List.range n).filter fun i => decide (vstart ≤ i) && (!m || v0.getLsbD i)

/-- A vector register written: its `VDIRTY` bit is set when some element is (07 R169). -/
def vput (g : Engine) (k : Nat) (x : BitVec 512) (any : Bool) : Engine :=
  if any then { g with v := tset 0 g.v k x, vdirty := setBit g.vdirty k true } else g

/-- The element results of opcode 0x60 (07 R159). -/
def elemOp (op : VOp) (w : Nat) (a b : BitVec w) : BitVec w :=
  match op with
  | .add => a + b
  | .sub => a - b
  | .min => if a.slt b then a else b
  | .minu => if a.ult b then a else b
  | .max => if b.slt a then a else b
  | .maxu => if b.ult a then a else b
  | .and_ => a &&& b
  | .or_ => a ||| b
  | .xor_ => a ^^^ b
  | .shl => shlBy w a b.toNat
  | .shr => shrBy w a b.toNat
  | .sar => sarBy w a b.toNat
  | _ => a

/-- The relations of opcode 0x65 (07 R164). -/
def elemCmp (op : VOp) (w : Nat) (a b : BitVec w) : Bool :=
  match op with
  | .seq => a == b
  | .sne => a != b
  | .slt => a.slt b
  | .sltu => a.ult b
  | .sle => !b.slt a
  | .sleu => !b.ult a
  | _ => false

/-- The identity of a reduction, at w bits (07 R162). -/
def reduceId (op : VOp) (w : Nat) : BitVec w :=
  match op with
  | .rmin => BitVec.ofNat w (2 ^ (w - 1) - 1)
  | .rminu => BitVec.allOnes w
  | .rmax => BitVec.ofNat w (2 ^ (w - 1))
  | .rand => BitVec.allOnes w
  | _ => 0

/-- One step of a reduction other than the sum. -/
def reduceStep (op : VOp) (w : Nat) (a b : BitVec w) : BitVec w :=
  match op with
  | .rmin => elemOp .min w a b
  | .rminu => elemOp .minu w a b
  | .rmax => elemOp .max w a b
  | .rmaxu => elemOp .maxu w a b
  | .rand => a &&& b
  | _ => a ||| b

/-- The cell of a reduction (07 R162). -/
def reduce (op : VOp) (w : Nat) (va : BitVec 512) (is : List Nat) : Word :=
  match op with
  | .rsum => is.foldl (fun a i => a + (elem w va i).signExtend 32) 0
  | _ =>
    let x := is.foldl (fun a i => reduceStep op w a (elem w va i)) (reduceId op w)
    if op = .rmin ∨ op = .rmax then x.signExtend 32 else x.setWidth 32

/-- One product of a dot product or widening multiply. -/
def prod (signed : Bool) (w : Nat) (a b : BitVec w) : Int :=
  if signed then a.toInt * b.toInt else (a.toNat * b.toNat : Nat)

/-- The register that a dot product leaves: u-bit units, `per` of them in a 32-bit lane (07 R161). A lane past the register, which a VL
above 32 (legal at SEW 8) gives `VDOT16`, changes nothing, and counts as written for `VDIRTY` (DESIGN CHOICE, log 25). -/
def dotReg (signed : Bool) (u per vl : Nat) (va vb vd : BitVec 512) (is : List Nat) : BitVec 512 :=
  is.foldl (fun r j =>
    let sum := ((List.range per).map fun k =>
      let b := per * j + k
      if b < vl then prod signed u (elem u va b) (elem u vb b) else 0).foldl (· + ·) 0
    putElem 32 r j (elem 32 r j + BitVec.ofInt 32 sum)) vd

/-- The element count of a queued instruction (07 R155, R160, R161). -/
def vCount (x : VqEntry) : Nat :=
  match x.op with
  | .wmul | .wmulu => min x.vl (512 / (if x.sew = 0 then 16 else 32))
  | .dot8 | .dot8u => (x.vl + 3) / 4
  | .dot16 | .dot16u => (x.vl + 1) / 2
  | _ => x.vl

/-- A queued instruction performed on the vector registers. -/
def vPerform (g : Engine) (x : VqEntry) : Engine :=
  let w := sewBits x.sew
  let va := vget g x.va.val
  let vb := vget g x.vb.val
  let vd := vget g x.vd.val
  let is := active x.m (vget g 0) x.vstart (vCount x)
  let put := fun (r : BitVec 512) => vput g x.vd.val r (!is.isEmpty)
  let cell := fun (v : Word) => onRegs g (fillCell x.id v)
  match x.op with
  | .add | .sub | .min | .minu | .max | .maxu | .and_ | .or_ | .xor_ | .shl | .shr | .sar =>
    put (is.foldl (fun r i => putElem w r i (elemOp x.op w (elem w va i) (elem w vb i))) vd)
  | .wmul | .wmulu =>
    let dw := if w = 8 then 16 else 32
    put (is.foldl (fun r i => putElem dw r i (BitVec.ofInt dw (prod (x.op == .wmul) w (elem w va i) (elem w vb i)))) vd)
  | .dot8 | .dot8u => put (dotReg (x.op == .dot8) 8 4 x.vl va vb vd is)
  | .dot16 | .dot16u => put (dotReg (x.op == .dot16) 16 2 x.vl va vb vd is)
  | .rsum | .rmin | .rminu | .rmax | .rmaxu | .rand | .ror_ => cell (reduce x.op w va is)
  | .mv => put (is.foldl (fun r i => putElem w r i (elem w va i)) vd)
  | .bcast => put (is.foldl (fun r i => putElem w r i (x.arg.setWidth w)) vd)
  | .ext => cell (if x.arg.toNat < vlmax w then (elem w va x.arg.toNat).setWidth 32 else 0)
  | .seq | .sne | .slt | .sltu | .sle | .sleu =>
    put (is.foldl (fun r i => setBit r i (elemCmp x.op w (elem w va i) (elem w vb i))) vd)

/-! ### Encoding -/

/-- Codes 8 and 9 of 04 R96 for a vector word: which fields the row uses, and whether it writes VD. -/
def vecCode (r : Regs) (v : VFields) (d a b m wr : Bool) : Option (BitVec 8) :=
  if !r.sp.ctlEff.getLsbD 3 then some 8
  else if v.hi != 0 || (!d && v.vd != 0) || (!a && v.va != 0) || (!b && v.vb != 0) || (!m && v.m) || (wr && v.m && v.vd == 0)
    then some 9
  else none

/-! ### Vector arithmetic -/

/-- Issues a vector arithmetic instruction: pops k cells, reserves a result cell or none, and enters the queue (07 R156); on a
mispredicted path it never enters. `VEXT` leaves `VSTART` as it is. -/
def vecOp (e : Eng) (v : VFields) (op : VOp) (a b m wr : Bool) (k : Nat) (push : Bool) (s : State) : Out :=
  issueLog s e .long false false false (if op = .ext then 0 else 1) (vecCode (regGet s e) v wr a b m wr) fun s =>
    if (engGet s e).vq.length ≥ 8 then .hold s
    else (pops s e k (if push then 1 else 0)).bind fun s1 vs =>
      let g := engGet s1 e
      let x : VqEntry := { op := op, m := v.m, vb := v.vb.toFin, va := v.va.toFin, vd := v.vd.toFin, vl := g.r.sp.vl.toNat,
                           vstart := g.r.sp.vstart.toNat, sew := g.r.sp.vtype, arg := vs.headD 0, id := g.nextId }
      let r := cellsPut g.r k (if push then [.rsv g.nextId] else [])
      let r := if op = .ext then r else { r with sp := { r.sp with vstart := 0 } }
      .ok (engPut s1 e { g with r := r, nextId := g.nextId + 1, vq := if speculative g then g.vq else g.vq ++ [x] }) none

/-- VADD (07 R159). -/
def execVadd (e : Eng) (v : VFields) (s : State) : Out := vecOp e v .add true true true true 0 false s

/-- VSUB (07 R159). -/
def execVsub (e : Eng) (v : VFields) (s : State) : Out := vecOp e v .sub true true true true 0 false s

/-- VMIN (07 R159). -/
def execVmin (e : Eng) (v : VFields) (s : State) : Out := vecOp e v .min true true true true 0 false s

/-- VMINU (07 R159). -/
def execVminu (e : Eng) (v : VFields) (s : State) : Out := vecOp e v .minu true true true true 0 false s

/-- VMAX (07 R159). -/
def execVmax (e : Eng) (v : VFields) (s : State) : Out := vecOp e v .max true true true true 0 false s

/-- VMAXU (07 R159). -/
def execVmaxu (e : Eng) (v : VFields) (s : State) : Out := vecOp e v .maxu true true true true 0 false s

/-- VAND (07 R159). -/
def execVand (e : Eng) (v : VFields) (s : State) : Out := vecOp e v .and_ true true true true 0 false s

/-- VOR (07 R159). -/
def execVor (e : Eng) (v : VFields) (s : State) : Out := vecOp e v .or_ true true true true 0 false s

/-- VXOR (07 R159). -/
def execVxor (e : Eng) (v : VFields) (s : State) : Out := vecOp e v .xor_ true true true true 0 false s

/-- VSHL (07 R159). -/
def execVshl (e : Eng) (v : VFields) (s : State) : Out := vecOp e v .shl true true true true 0 false s

/-- VSHR (07 R159). -/
def execVshr (e : Eng) (v : VFields) (s : State) : Out := vecOp e v .shr true true true true 0 false s

/-- VSAR (07 R159). -/
def execVsar (e : Eng) (v : VFields) (s : State) : Out := vecOp e v .sar true true true true 0 false s

/-- VWMUL (07 R160). -/
def execVwmul (e : Eng) (v : VFields) (s : State) : Out := vecOp e v .wmul true true true true 0 false s

/-- VWMULU (07 R160). -/
def execVwmulu (e : Eng) (v : VFields) (s : State) : Out := vecOp e v .wmulu true true true true 0 false s

/-- VDOT8 (07 R161). -/
def execVdot8 (e : Eng) (v : VFields) (s : State) : Out := vecOp e v .dot8 true true true true 0 false s

/-- VDOT8U (07 R161). -/
def execVdot8u (e : Eng) (v : VFields) (s : State) : Out := vecOp e v .dot8u true true true true 0 false s

/-- VDOT16 (07 R161). -/
def execVdot16 (e : Eng) (v : VFields) (s : State) : Out := vecOp e v .dot16 true true true true 0 false s

/-- VDOT16U (07 R161). -/
def execVdot16u (e : Eng) (v : VFields) (s : State) : Out := vecOp e v .dot16u true true true true 0 false s

/-- VRSUM (07 R162). -/
def execVrsum (e : Eng) (v : VFields) (s : State) : Out := vecOp e v .rsum true false true false 0 true s

/-- VRMIN (07 R162). -/
def execVrmin (e : Eng) (v : VFields) (s : State) : Out := vecOp e v .rmin true false true false 0 true s

/-- VRMINU (07 R162). -/
def execVrminu (e : Eng) (v : VFields) (s : State) : Out := vecOp e v .rminu true false true false 0 true s

/-- VRMAX (07 R162). -/
def execVrmax (e : Eng) (v : VFields) (s : State) : Out := vecOp e v .rmax true false true false 0 true s

/-- VRMAXU (07 R162). -/
def execVrmaxu (e : Eng) (v : VFields) (s : State) : Out := vecOp e v .rmaxu true false true false 0 true s

/-- VRAND (07 R162). -/
def execVrand (e : Eng) (v : VFields) (s : State) : Out := vecOp e v .rand true false true false 0 true s

/-- VROR (07 R162). -/
def execVror (e : Eng) (v : VFields) (s : State) : Out := vecOp e v .ror_ true false true false 0 true s

/-- VMV (07 R163). -/
def execVmv (e : Eng) (v : VFields) (s : State) : Out := vecOp e v .mv true false true true 0 false s

/-- VBCAST (07 R163). -/
def execVbcast (e : Eng) (v : VFields) (s : State) : Out := vecOp e v .bcast false false true true 1 false s

/-- VEXT (07 R163). -/
def execVext (e : Eng) (v : VFields) (s : State) : Out := vecOp e v .ext true false false false 1 true s

/-- VSEQ (07 R164). -/
def execVseq (e : Eng) (v : VFields) (s : State) : Out := vecOp e v .seq true true true true 0 false s

/-- VSNE (07 R164). -/
def execVsne (e : Eng) (v : VFields) (s : State) : Out := vecOp e v .sne true true true true 0 false s

/-- VSLT (07 R164). -/
def execVslt (e : Eng) (v : VFields) (s : State) : Out := vecOp e v .slt true true true true 0 false s

/-- VSLTU (07 R164). -/
def execVsltu (e : Eng) (v : VFields) (s : State) : Out := vecOp e v .sltu true true true true 0 false s

/-- VSLE (07 R164). -/
def execVsle (e : Eng) (v : VFields) (s : State) : Out := vecOp e v .sle true true true true 0 false s

/-- VSLEU (07 R164). -/
def execVsleu (e : Eng) (v : VFields) (s : State) : Out := vecOp e v .sleu true true true true 0 false s

/-- VECTOR_ARITH_COMPLETE (07 R157): the oldest queued instruction takes effect. -/
def execVectorArithComplete (e : Eng) (s : State) : Out :=
  let g := engGet s e
  .next (match g.vq with
    | [] => s
    | x :: rest => if eclkOn s then engPut s e (vPerform { g with vq := rest } x) else s)

/-! ### SETVL (07 R154) -/

/-- SETVL: never waits for the vector unit. -/
def execSetvl (e : Eng) (v : VFields) (s : State) : Out :=
  issueLog s e .long false false false 2 (vecCode (regGet s e) v false false false false false) fun s =>
    ((pops s e 1 1).onInv fun s1 => markBad (markBad s1 e (.spec 0x050) true) e (.spec 0x051) true).bind fun s1 vs =>
      let s1 := markBad (markBad s1 e (.spec 0x050) false) e (.spec 0x051) false
      let r := regGet s1 e
      let n := min (vs.headD 0).toNat (vlmax (sewBits r.sp.vtype))
      let r := cellsPut r 1 [.val (BitVec.ofNat 32 n)]
      .ok (regPut s1 e { r with sp := { r.sp with vl := BitVec.ofNat 7 n, vstart := 0 } }) none

/-! ### Vector memory (07 R165-R168) -/

/-- How a vector memory instruction forms its addresses. -/
inductive VAddr where
  | unit | strided | indexed
  deriving DecidableEq, Repr

/-- The address of element i (07 R165). -/
def vAddr (k : VAddr) (base stride : Word) (vb : BitVec 512) (w i : Nat) : Word :=
  match k with
  | .unit => base + BitVec.ofNat 32 (i * (w / 8))
  | .strided => base + BitVec.ofNat 32 i * stride
  | .indexed => base + elem 32 vb i

/-- The element count of a memory instruction. -/
def vMemCount (k : VAddr) (vl : Nat) : Nat := if k = .indexed then min vl 16 else vl

def setVstart (s : State) (e : Eng) (i : Nat) : State :=
  let r := regGet s e
  regPut s e { r with sp := { r.sp with vstart := BitVec.ofNat 6 i } }

/-- Loads elements in ascending order; a hold or fault leaves `VSTART` at its element (07 R166, R167). -/
def vLoad (e : Eng) (vd w : Nat) (addr : Nat → Word) : List Nat → State → Ans Unit
  | [], s => .ok s ()
  | i :: r, s =>
    match dataRead s e (addr i) (w / 8) with
    | .ok s1 bs =>
      let g := engGet s1 e
      vLoad e vd w addr r (slotsMark (engPut s1 e (vput g vd (putElem w (vget g vd) i (BitVec.ofNat w (leNat bs))) true)))
    | .hold s1 => .hold (setVstart s1 e i)
    | .fault s1 f => .fault (setVstart s1 e i) f
    | .inv s1 => .hold s1

/-- A run of store elements in one line: its first index, line, bytes (07 R166). -/
abbrev VRun := Option (Nat × LineAddr × LineData × BitVec 64)

/-- A run enters the store buffer as one entry; a full buffer leaves `VSTART` at its first element. -/
def vFlush (s : State) (e : Eng) (run : VRun) : Ans Unit :=
  match run with
  | none => .ok s ()
  | some (i, l, d, m) =>
    match putStore s e [(0, 64, linePA l)] (maskBytes d m) false with
    | .hold s1 => .hold (setVstart s1 e i)
    | x => x

/-- An element that joins the run gathered so far: it lies in the run's line, and its write is allowed. -/
def vJoins (s : State) (e : Eng) (run : VRun) (va : Word) (n : Nat) : Option (State × PAddr) :=
  match run, xlateParts s e .write (parts va n) with
  | some (_, l, _, _), .ok s1 [(v, m, pa)] =>
    if l = lineOf pa then
      match regionParts s1 e true [(v, m, pa)] with
      | .ok _ _ => some (s1, pa)
      | _ => none
    else none
  | _, _ => none

/-- Stores elements in ascending order, runs gathered (07 R166, R167): active elements of one line make one run although inactive ones
stand between them (DESIGN CHOICE, log 25). A run enters the store buffer before the element after it is
judged, so that a hold there leaves nothing of that element done. -/
def vStore (e : Eng) (w : Nat) (src : BitVec 512) (addr : Nat → Word) : VRun → List Nat → State → Ans Unit
  | run, [], s => vFlush s e run
  | run, i :: r, s =>
    let n := w / 8
    let bs := toBytes n (elem w src i).toNat
    match run, vJoins s e run (addr i) n with
    | some (i0, l, d, m), some (s1, pa) =>
      let o := pa.toNat % 64
      vStore e w src addr (some (i0, l, mergeLine d (toLine o bs) (lineMask o n), m ||| lineMask o n)) r s1
    | _, _ =>
      (vFlush s e run).bind fun s1 _ =>
        match checkAccess s1 e .write (addr i) n with
        | .ok s2 [(_, _, pa)] =>
          let o := pa.toNat % 64
          vStore e w src addr (some (i, lineOf pa, toLine o bs, lineMask o n)) r s2
        | .ok s2 ps =>
          match putStore s2 e ps (bs.map some) false with
          | .ok s3 _ => vStore e w src addr none r s3
          | .hold s3 => .hold (setVstart s3 e i)
          | .fault s3 f => .fault (setVstart s3 e i) f
          | .inv s3 => .hold s3
        | .hold s2 => .hold (setVstart s2 e i)
        | .fault s2 f => .fault (setVstart s2 e i) f
        | .inv s2 => .hold s2

/-- A vector memory instruction: it waits for queued arithmetic (07 R157), and pops its operands as it completes. While a claim waits, it
stops at the boundary after n elements, with `VSTART` at the next active element (07 R168; an inactive one has nothing to perform: DESIGN
CHOICE, log 25); with none it goes on to its end, so that no boundary parts a run of stores (07 R166). -/
def vMemOp (e : Eng) (v : VFields) (k : VAddr) (load : Bool) (n : Nat) (s : State) : Out :=
  issue s e .long true true false (vecCode (regGet s e) v true false (k == .indexed) true load) fun s =>
    if !(engGet s e).vq.isEmpty then .hold s
    else
      let cells := if k = .strided then 2 else 1
      (pops s e cells 0).bind fun s1 vs =>
        let g := engGet s1 e
        let w := sewBits g.r.sp.vtype
        let base := if k = .strided then (vs[1]?).getD 0 else vs.headD 0
        let addr := vAddr k base (vs.headD 0) (vget g v.vb.toNat) w
        let is := active v.m (vget g 0) g.r.sp.vstart.toNat (vMemCount k g.r.sp.vl.toNat)
        let n := if claimWaits g then n else is.length
        (if load then vLoad e v.vd.toNat w addr (is.take n) s1
          else vStore e w (vget g v.vd.toNat) addr none (is.take n) s1).bind fun s2 _ =>
          match is[n]? with
          | some i => .hold (setVstart s2 e i)
          | none => .ok (putCells (setVstart (slotsClear s2) e 0) e cells []) none

/-- VLD (07 R165). -/
def execVld (e : Eng) (v : VMemOp) (s : State) : Out := vMemOp e v.v .unit true v.n s
/-- VLDS. -/
def execVlds (e : Eng) (v : VMemOp) (s : State) : Out := vMemOp e v.v .strided true v.n s
/-- VLDX. -/
def execVldx (e : Eng) (v : VMemOp) (s : State) : Out := vMemOp e v.v .indexed true v.n s
/-- VST. -/
def execVst (e : Eng) (v : VMemOp) (s : State) : Out := vMemOp e v.v .unit false v.n s
/-- VSTS. -/
def execVsts (e : Eng) (v : VMemOp) (s : State) : Out := vMemOp e v.v .strided false v.n s
/-- VSTX. -/
def execVstx (e : Eng) (v : VMemOp) (s : State) : Out := vMemOp e v.v .indexed false v.n s

/-! ### Save and restore (07 R169, R170) -/

/-- The pieces of a longer access, one for each line it touches. -/
def pieces : Nat → Word → Nat → List (Word × Nat)
  | 0, _, _ => []
  | fuel + 1, va, n =>
    let f := 64 - va.toNat % 64
    if n ≤ f then [(va, n)] else (va, f) :: pieces fuel (va + BitVec.ofNat 32 f) (n - f)

/-- The 2,112 bytes of the image checked (07 R170). -/
def checkImage (s : State) (e : Eng) (acc : AccKind) (va : Word) : Ans Unit :=
  (xlateParts s e acc (pieces 40 va 2112)).bind fun s1 ps => regionParts s1 e (acc == .write) ps

/-- The 64-byte header. -/
def vHeader (g : Engine) : List Byte :=
  bytesOfWords [g.r.sp.vl.setWidth 32, g.r.sp.vstart.setWidth 32, g.r.sp.vtype.setWidth 32, g.vdirty] ++ List.replicate 48 0

/-- The blocks that `VSAVE` writes: the header and each dirty register, with their offsets. -/
def vBlocks (g : Engine) : List (Nat × List Byte) :=
  (0, vHeader g) :: ((List.range 32).filter (g.vdirty.getLsbD ·)).map fun r => (64 + 64 * r, toBytes 64 (vget g r).toNat)

/-- Writes blocks in order, counting those done so that a full store buffer loses none; the image has been checked whole. -/
def vSaveRun (e : Eng) (va : Word) : List (Nat × List Byte) → State → Ans Unit
  | [], s => .ok s ()
  | (o, bs) :: r, s =>
    ((xlateParts s e .write (parts (va + BitVec.ofNat 32 o) bs.length)).bind fun s1 ps =>
      putStore s1 e ps (bs.map some) false).bind fun s1 _ =>
      let g := engGet s1 e
      vSaveRun e va r (engPut s1 e { g with vprog := g.vprog + 1 })

/-- VSAVE (07 R170): waits for every earlier vector instruction. The image is checked before its first block, and not again. -/
def execVsave (e : Eng) (v : VFields) (s : State) : Out :=
  issue s e .long true true false (vecCode (regGet s e) v false false false false false) fun s =>
    if !(engGet s e).vq.isEmpty then .hold s
    else (pops s e 1 0).bind fun s1 vs =>
      (if (engGet s1 e).vprog = 0 then checkImage s1 e .write (vs.headD 0) else .ok s1 ()).bind fun s2 _ =>
        let g := engGet s2 e
        (vSaveRun e (vs.headD 0) ((vBlocks g).drop g.vprog) s2).bind fun s3 _ =>
          let g3 := engGet s3 e
          .ok (engPut s3 e { g3 with vprog := 0, r := cellsPut g3.r 1 [] }) none

/-- Reads blocks of 64 bytes at offsets. -/
def vReadRun (e : Eng) (va : Word) : List Nat → State → Ans (List (Nat × BitVec 512))
  | [], s => .ok s []
  | o :: r, s =>
    (dataRead s e (va + BitVec.ofNat 32 o) 64).bind fun s1 bs =>
      (vReadRun e va r s1).bind fun s2 l => .ok s2 ((o, BitVec.ofNat 512 (leNat bs)) :: l)

/-- The vector special registers that an image header sets (07 R170). -/
def vRestoreRegs (p : Specials) (h : BitVec 512) : Specials :=
  let t : BitVec 2 := fld h 64 2
  let sew := if t = 3 then p.vtype else t
  { p with vtype := sew, vl := BitVec.ofNat 7 (min (fld h 0 7).toNat (vlmax (sewBits sew))), vstart := fld h 32 6 }

/-- VRESTORE (07 R170). -/
def execVrestore (e : Eng) (v : VFields) (s : State) : Out :=
  issue s e .long true true false (vecCode (regGet s e) v false false false false false) fun s =>
    if !(engGet s e).vq.isEmpty then .hold s
    else (pops s e 1 0).bind fun s1 vs =>
      let va := vs.headD 0
      (checkImage s1 e .read va).bind fun s2 _ =>
        (vReadRun e va [0] s2).bind fun s3 hs =>
          let h := ((hs.map (·.2)).headD 0)
          let dirty : Word := fld h 96 32
          (vReadRun e va (((List.range 32).filter (dirty.getLsbD ·)).map (64 + 64 * ·)) s3).bind fun s4 l =>
            let g := engGet s4 e
            let r := cellsPut g.r 1 []
            .ok (engPut s4 e { g with r := { r with sp := vRestoreRegs r.sp h }, vdirty := dirty,
                                      v := l.foldl (fun t x => tset 0 t ((x.1 - 64) / 64) x.2) g.v }) none

end Sys2Proof.Machine
end

