-- ==== Sys2Proof/Machine/Dispatch.lean ====
section
/-! DEFINITION. One arm for each command of the block. -/

namespace Sys2Proof.Machine

/-- The effect of a command on everything but the queue. -/
def exec (i : Instr) (s : State) : Host.Outcome State Fault Refusal :=
  match i with
  | .lit e f => Sys2Proof.Machine.execLit e f s
  | .lithi e o => Sys2Proof.Machine.execLithi e o s
  | .lea e o => Sys2Proof.Machine.execLea e o s
  | .addi e f => Sys2Proof.Machine.execAddi e f s
  | .nop e y => Sys2Proof.Machine.execNop e y s
  | .dup e y => Sys2Proof.Machine.execDup e y s
  | .drop e y => Sys2Proof.Machine.execDrop e y s
  | .swap e y => Sys2Proof.Machine.execSwap e y s
  | .over e y => Sys2Proof.Machine.execOver e y s
  | .rot e y => Sys2Proof.Machine.execRot e y s
  | .pick e y => Sys2Proof.Machine.execPick e y s
  | .add e y => Sys2Proof.Machine.execAdd e y s
  | .sub e y => Sys2Proof.Machine.execSub e y s
  | .addv e y => Sys2Proof.Machine.execAddv e y s
  | .subv e y => Sys2Proof.Machine.execSubv e y s
  | .neg e y => Sys2Proof.Machine.execNeg e y s
  | .and_ e y => Sys2Proof.Machine.execAnd e y s
  | .or_ e y => Sys2Proof.Machine.execOr e y s
  | .xor_ e y => Sys2Proof.Machine.execXor e y s
  | .not_ e y => Sys2Proof.Machine.execNot e y s
  | .shl e y => Sys2Proof.Machine.execShl e y s
  | .shr e y => Sys2Proof.Machine.execShr e y s
  | .sar e y => Sys2Proof.Machine.execSar e y s
  | .rol e y => Sys2Proof.Machine.execRol e y s
  | .ror e y => Sys2Proof.Machine.execRor e y s
  | .shli e y => Sys2Proof.Machine.execShli e y s
  | .shri e y => Sys2Proof.Machine.execShri e y s
  | .sari e y => Sys2Proof.Machine.execSari e y s
  | .rori e y => Sys2Proof.Machine.execRori e y s
  | .seq e y => Sys2Proof.Machine.execSeq e y s
  | .slt e y => Sys2Proof.Machine.execSlt e y s
  | .sltu e y => Sys2Proof.Machine.execSltu e y s
  | .sextb e y => Sys2Proof.Machine.execSextb e y s
  | .sexth e y => Sys2Proof.Machine.execSexth e y s
  | .zextb e y => Sys2Proof.Machine.execZextb e y s
  | .zexth e y => Sys2Proof.Machine.execZexth e y s
  | .ldl e y => Sys2Proof.Machine.execLdl e y s
  | .stl e y => Sys2Proof.Machine.execStl e y s
  | .ldb e f => Sys2Proof.Machine.execLdb e f s
  | .ldbu e f => Sys2Proof.Machine.execLdbu e f s
  | .ldh e f => Sys2Proof.Machine.execLdh e f s
  | .ldhu e f => Sys2Proof.Machine.execLdhu e f s
  | .ldw e f => Sys2Proof.Machine.execLdw e f s
  | .stb e f => Sys2Proof.Machine.execStb e f s
  | .sth e f => Sys2Proof.Machine.execSth e f s
  | .stw e f => Sys2Proof.Machine.execStw e f s
  | .inAbs e o => Sys2Proof.Machine.execInAbs e o s
  | .inr e o => Sys2Proof.Machine.execInr e o s
  | .outAbs e o => Sys2Proof.Machine.execOutAbs e o s
  | .outr e o => Sys2Proof.Machine.execOutr e o s
  | .ioAccessComplete e => Sys2Proof.Machine.execIoAccessComplete e s
  | .beq e b => Sys2Proof.Machine.execBeq e b s
  | .bne e b => Sys2Proof.Machine.execBne e b s
  | .blt e b => Sys2Proof.Machine.execBlt e b s
  | .bge e b => Sys2Proof.Machine.execBge e b s
  | .bltu e b => Sys2Proof.Machine.execBltu e b s
  | .bgeu e b => Sys2Proof.Machine.execBgeu e b s
  | .bz e b => Sys2Proof.Machine.execBz e b s
  | .bnz e b => Sys2Proof.Machine.execBnz e b s
  | .jmp e b => Sys2Proof.Machine.execJmp e b s
  | .call e b => Sys2Proof.Machine.execCall e b s
  | .ret e b => Sys2Proof.Machine.execRet e b s
  | .jmps e o => Sys2Proof.Machine.execJmps e o s
  | .calls e o => Sys2Proof.Machine.execCalls e o s
  | .pushl e y => Sys2Proof.Machine.execPushl e y s
  | .popl e y => Sys2Proof.Machine.execPopl e y s
  | .toRs e y => Sys2Proof.Machine.execToRs e y s
  | .fromRs e y => Sys2Proof.Machine.execFromRs e y s
  | .trap e o => Sys2Proof.Machine.execTrap e o s
  | .getc e o => Sys2Proof.Machine.execGetc e o s
  | .setc e o => Sys2Proof.Machine.execSetc e o s
  | .sync e o => Sys2Proof.Machine.execSync e o s
  | .fence e o => Sys2Proof.Machine.execFence e o s
  | .lfence e o => Sys2Proof.Machine.execLfence e o s
  | .reti e o => Sys2Proof.Machine.execReti e o s
  | .stateStackRefill e => Sys2Proof.Machine.execStateStackRefill e s
  | .msk e o => Sys2Proof.Machine.execMsk e o s
  | .waite e o => Sys2Proof.Machine.execWaite e o s
  | .brk e o => Sys2Proof.Machine.execBrk e o s
  | .dcmClean e way hi => Sys2Proof.Machine.execDcmClean e way hi s
  | .dcmInvalidate e way hi => Sys2Proof.Machine.execDcmInvalidate e way hi s
  | .dcmCleanInvalidate e way hi => Sys2Proof.Machine.execDcmCleanInvalidate e way hi s
  | .icmInvalidate e way hi => Sys2Proof.Machine.execIcmInvalidate e way hi s
  | .movb e o => Sys2Proof.Machine.execMovb e o s
  | .fillb e o => Sys2Proof.Machine.execFillb e o s
  | .cmpb e o => Sys2Proof.Machine.execCmpb e o s
  | .scanb e o => Sys2Proof.Machine.execScanb e o s
  | .mul e o => Sys2Proof.Machine.execMul e o s
  | .mulu e o => Sys2Proof.Machine.execMulu e o s
  | .mulv e o => Sys2Proof.Machine.execMulv e o s
  | .productLands e => Sys2Proof.Machine.execProductLands e s
  | .div e o => Sys2Proof.Machine.execDiv e o s
  | .divu e o => Sys2Proof.Machine.execDivu e o s
  | .rem e o => Sys2Proof.Machine.execRem e o s
  | .remu e o => Sys2Proof.Machine.execRemu e o s
  | .divideResultWrite e => Sys2Proof.Machine.execDivideResultWrite e s
  | .crcb e o => Sys2Proof.Machine.execCrcb e o s
  | .crch e o => Sys2Proof.Machine.execCrch e o s
  | .crcw e o => Sys2Proof.Machine.execCrcw e o s
  | .par e o => Sys2Proof.Machine.execPar e o s
  | .brev e o => Sys2Proof.Machine.execBrev e o s
  | .ckd e o => Sys2Proof.Machine.execCkd e o s
  | .extu e o => Sys2Proof.Machine.execExtu e o s
  | .exts e o => Sys2Proof.Machine.execExts e o s
  | .ins e o => Sys2Proof.Machine.execIns e o s
  | .clz e o => Sys2Proof.Machine.execClz e o s
  | .bperm e o => Sys2Proof.Machine.execBperm e o s
  | .vadd e v => Sys2Proof.Machine.execVadd e v s
  | .vsub e v => Sys2Proof.Machine.execVsub e v s
  | .vmin e v => Sys2Proof.Machine.execVmin e v s
  | .vminu e v => Sys2Proof.Machine.execVminu e v s
  | .vmax e v => Sys2Proof.Machine.execVmax e v s
  | .vmaxu e v => Sys2Proof.Machine.execVmaxu e v s
  | .vand e v => Sys2Proof.Machine.execVand e v s
  | .vor e v => Sys2Proof.Machine.execVor e v s
  | .vxor e v => Sys2Proof.Machine.execVxor e v s
  | .vshl e v => Sys2Proof.Machine.execVshl e v s
  | .vshr e v => Sys2Proof.Machine.execVshr e v s
  | .vsar e v => Sys2Proof.Machine.execVsar e v s
  | .vwmul e v => Sys2Proof.Machine.execVwmul e v s
  | .vwmulu e v => Sys2Proof.Machine.execVwmulu e v s
  | .vdot8 e v => Sys2Proof.Machine.execVdot8 e v s
  | .vdot8u e v => Sys2Proof.Machine.execVdot8u e v s
  | .vdot16 e v => Sys2Proof.Machine.execVdot16 e v s
  | .vdot16u e v => Sys2Proof.Machine.execVdot16u e v s
  | .vrsum e v => Sys2Proof.Machine.execVrsum e v s
  | .vrmin e v => Sys2Proof.Machine.execVrmin e v s
  | .vrminu e v => Sys2Proof.Machine.execVrminu e v s
  | .vrmax e v => Sys2Proof.Machine.execVrmax e v s
  | .vrmaxu e v => Sys2Proof.Machine.execVrmaxu e v s
  | .vrand e v => Sys2Proof.Machine.execVrand e v s
  | .vror e v => Sys2Proof.Machine.execVror e v s
  | .vmv e v => Sys2Proof.Machine.execVmv e v s
  | .vbcast e v => Sys2Proof.Machine.execVbcast e v s
  | .vext e v => Sys2Proof.Machine.execVext e v s
  | .vseq e v => Sys2Proof.Machine.execVseq e v s
  | .vsne e v => Sys2Proof.Machine.execVsne e v s
  | .vslt e v => Sys2Proof.Machine.execVslt e v s
  | .vsltu e v => Sys2Proof.Machine.execVsltu e v s
  | .vsle e v => Sys2Proof.Machine.execVsle e v s
  | .vsleu e v => Sys2Proof.Machine.execVsleu e v s
  | .vectorArithComplete e => Sys2Proof.Machine.execVectorArithComplete e s
  | .vld e v => Sys2Proof.Machine.execVld e v s
  | .vlds e v => Sys2Proof.Machine.execVlds e v s
  | .vldx e v => Sys2Proof.Machine.execVldx e v s
  | .vst e v => Sys2Proof.Machine.execVst e v s
  | .vsts e v => Sys2Proof.Machine.execVsts e v s
  | .vstx e v => Sys2Proof.Machine.execVstx e v s
  | .setvl e v => Sys2Proof.Machine.execSetvl e v s
  | .vsave e v => Sys2Proof.Machine.execVsave e v s
  | .vrestore e v => Sys2Proof.Machine.execVrestore e v s
  | .mispredictUndo e => Sys2Proof.Machine.execMispredictUndo e s
  | .runAheadEntry e line => Sys2Proof.Machine.execRunAheadEntry e line s
  | .runAheadEnd e => Sys2Proof.Machine.execRunAheadEnd e s
  | .lineFillLands e side line => Sys2Proof.Machine.execLineFillLands e side line s
  | .storeBufferDrain e => Sys2Proof.Machine.execStoreBufferDrain e s
  | .translationWalk e acc va ecc => Sys2Proof.Machine.execTranslationWalk e acc va ecc s
  | .eventEntry e during => Sys2Proof.Machine.execEventEntry e during s
  | .faultEntry e cause => Sys2Proof.Machine.execFaultEntry e cause s
  | .spillBufferDrain e => Sys2Proof.Machine.execSpillBufferDrain e s
  | .lastResortEntry e => Sys2Proof.Machine.execLastResortEntry e s
  | .lateBusError e => Sys2Proof.Machine.execLateBusError e s
  | .engXinvGo e op inst => Sys2Proof.Machine.execEngXinvGo e op inst s
  | .evInEdge wire rising => Sys2Proof.Machine.execEvInEdge wire rising s
  | .evInLevelChange wire level => Sys2Proof.Machine.execEvInLevelChange wire level s
  | .internalOccurrence n => Sys2Proof.Machine.execInternalOccurrence n s
  | .batchTimerExpiry n => Sys2Proof.Machine.execBatchTimerExpiry n s
  | .presentation e => Sys2Proof.Machine.execPresentation e s
  | .withdrawal e => Sys2Proof.Machine.execWithdrawal e s
  | .claimReport e => Sys2Proof.Machine.execClaimReport e s
  | .maskShadowUpdate e => Sys2Proof.Machine.execMaskShadowUpdate e s
  | .startUpLatchEdge wire rising => Sys2Proof.Machine.execStartUpLatchEdge wire rising s
  | .evgSwraise v => Sys2Proof.Machine.execEvgSwraise v s
  | .evgPendClr n => Sys2Proof.Machine.execEvgPendClr n s
  | .evgPendEoi n => Sys2Proof.Machine.execEvgPendEoi n s
  | .evgSourceConfigWrite src n field v => Sys2Proof.Machine.execEvgSourceConfigWrite src n field v s
  | .evgEvoutWrite v => Sys2Proof.Machine.execEvgEvoutWrite v s
  | .evgEvoutset v => Sys2Proof.Machine.execEvgEvoutset v s
  | .evgEvoutclr v => Sys2Proof.Machine.execEvgEvoutclr v s
  | .intervalTimerExpiry e => Sys2Proof.Machine.execIntervalTimerExpiry e s
  | .watchdogFirstExpiry e => Sys2Proof.Machine.execWatchdogFirstExpiry e s
  | .watchdogSecondExpiry e => Sys2Proof.Machine.execWatchdogSecondExpiry e s
  | .tmrPeriodWrite e v => Sys2Proof.Machine.execTmrPeriodWrite e v s
  | .tmrWdkick e => Sys2Proof.Machine.execTmrWdkick e s
  | .tmrWdperiodWrite e v => Sys2Proof.Machine.execTmrWdperiodWrite e v s
  | .tmrGtimeloRead => Sys2Proof.Machine.execTmrGtimeloRead s
  | .comparatorMatch k => Sys2Proof.Machine.execComparatorMatch k s
  | .tmrMboxWrite k v => Sys2Proof.Machine.execTmrMboxWrite k v s
  | .weaveLoad => Sys2Proof.Machine.execWeaveLoad s
  | .wvlCtlLoad v => Sys2Proof.Machine.execWvlCtlLoad v s
  | .wvlDataWrite v => Sys2Proof.Machine.execWvlDataWrite v s
  | .weaveLoadTimeout => Sys2Proof.Machine.execWeaveLoadTimeout s
  | .cpxCommitWrite v => Sys2Proof.Machine.execCpxCommitWrite v s
  | .commitGroupApply => Sys2Proof.Machine.execCommitGroupApply s
  | .fallbackPlanApply => Sys2Proof.Machine.execFallbackPlanApply s
  | .fallbackPlanRead ok => Sys2Proof.Machine.execFallbackPlanRead ok s
  | .scratchpadAccess bank reqs => Sys2Proof.Machine.execScratchpadAccess bank reqs s
  | .scrubAccess bank portB ecc => Sys2Proof.Machine.execScrubAccess bank portB ecc s
  | .scrubWrite bank portB => Sys2Proof.Machine.execScrubWrite bank portB s
  | .messageArrival => Sys2Proof.Machine.execMessageArrival s
  | .ledgerProbe buf bucket store => Sys2Proof.Machine.execLedgerProbe buf bucket store s
  | .messagePost buf => Sys2Proof.Machine.execMessagePost buf s
  | .cheRecvRead src k => Sys2Proof.Machine.execCheRecvRead src k s
  | .cheAllocRead src c => Sys2Proof.Machine.execCheAllocRead src c s
  | .cheFree src v => Sys2Proof.Machine.execCheFree src v s
  | .cheSend src v => Sys2Proof.Machine.execCheSend src v s
  | .messageTransmit => Sys2Proof.Machine.execMessageTransmit s
  | .replyRelease => Sys2Proof.Machine.execReplyRelease s
  | .requestTimeout buf => Sys2Proof.Machine.execRequestTimeout buf s
  | .flitReceive p broken fchk payload => Sys2Proof.Machine.execFlitReceive p broken fchk payload s
  | .codewordDecode p sigs rxd => Sys2Proof.Machine.execCodewordDecode p sigs rxd s
  | .controlStatus p => Sys2Proof.Machine.execControlStatus p s
  | .controlNak p => Sys2Proof.Machine.execControlNak p s
  | .controlReplay p => Sys2Proof.Machine.execControlReplay p s
  | .controlInit p => Sys2Proof.Machine.execControlInit p s
  | .abortMark p => Sys2Proof.Machine.execAbortMark p s
  | .retryTimeout p => Sys2Proof.Machine.execRetryTimeout p s
  | .transmitSlot p => Sys2Proof.Machine.execTransmitSlot p s
  | .messageForward p lane => Sys2Proof.Machine.execMessageForward p lane s
  | .laneLock p phys m1 m2 => Sys2Proof.Machine.execLaneLock p phys m1 m2 s
  | .laneLossOfLock p phys => Sys2Proof.Machine.execLaneLossOfLock p phys s
  | .trainingComplete p => Sys2Proof.Machine.execTrainingComplete p s
  | .planDecision p => Sys2Proof.Machine.execPlanDecision p s
  | .trainTimeout p => Sys2Proof.Machine.execTrainTimeout p s
  | .laneFailure p lane => Sys2Proof.Machine.execLaneFailure p lane s
  | .laneThresholdWindow p => Sys2Proof.Machine.execLaneThresholdWindow p s
  | .ibfCtlEn p en => Sys2Proof.Machine.execIbfCtlEn p en s
  | .ibfCtlRetrain p => Sys2Proof.Machine.execIbfCtlRetrain p s
  | .ibfCtlUp p => Sys2Proof.Machine.execIbfCtlUp p s
  | .ibfMgtxctlGo p => Sys2Proof.Machine.execIbfMgtxctlGo p s
  | .ibfMgrxctlPop p => Sys2Proof.Machine.execIbfMgrxctlPop p s
  | .wreq p => Sys2Proof.Machine.execWreq p s
  | .wrsp p => Sys2Proof.Machine.execWrsp p s
  | .rreq p => Sys2Proof.Machine.execRreq p s
  | .rrsp p => Sys2Proof.Machine.execRrsp p s
  | .weave p => Sys2Proof.Machine.execWeave p s
  | .health p => Sys2Proof.Machine.execHealth p s
  | .loadctl p => Sys2Proof.Machine.execLoadctl p s
  | .journalFlitForm => Sys2Proof.Machine.execJournalFlitForm s
  | .heartbeatSend => Sys2Proof.Machine.execHeartbeatSend s
  | .ackSend => Sys2Proof.Machine.execAckSend s
  | .record => Sys2Proof.Machine.execRecord s
  | .copy => Sys2Proof.Machine.execCopy s
  | .lot => Sys2Proof.Machine.execLot s
  | .ack => Sys2Proof.Machine.execAck s
  | .heartbeat => Sys2Proof.Machine.execHeartbeat s
  | .journalApply seq map => Sys2Proof.Machine.execJournalApply seq map s
  | .heartbeatPeriodEnd => Sys2Proof.Machine.execHeartbeatPeriodEnd s
  | .promotion => Sys2Proof.Machine.execPromotion s
  | .twnCtlStart copy => Sys2Proof.Machine.execTwnCtlStart copy s
  | .copyEntryRead ecc => Sys2Proof.Machine.execCopyEntryRead ecc s
  | .twnCtlSolo => Sys2Proof.Machine.execTwnCtlSolo s
  | .twnCtlRoleWrite role => Sys2Proof.Machine.execTwnCtlRoleWrite role s
  | .insCmdReset k => Sys2Proof.Machine.execInsCmdReset k s
  | .instanceResetApply k => Sys2Proof.Machine.execInstanceResetApply k s
  | .insCmdSweep k => Sys2Proof.Machine.execInsCmdSweep k s
  | .sweepApply k => Sys2Proof.Machine.execSweepApply k s
  | .insCmdSwitch k => Sys2Proof.Machine.execInsCmdSwitch k s
  | .bitmapSwitchApply k => Sys2Proof.Machine.execBitmapSwitchApply k s
  | .dirtyMark ecc => Sys2Proof.Machine.execDirtyMark ecc s
  | .store => Sys2Proof.Machine.execStore s
  | .erase => Sys2Proof.Machine.execErase s
  | .program => Sys2Proof.Machine.execProgram s
  | .read => Sys2Proof.Machine.execRead s
  | .tagw => Sys2Proof.Machine.execTagw s
  | .lock => Sys2Proof.Machine.execLock s
  | .nvmCommandComplete verify => Sys2Proof.Machine.execNvmCommandComplete verify s
  | .nvcSetWrite w v => Sys2Proof.Machine.execNvcSetWrite w v s
  | .tagRequestPoll => Sys2Proof.Machine.execTagRequestPoll s
  | .healthLogAppend ok => Sys2Proof.Machine.execHealthLogAppend ok s
  | .correctedError unit => Sys2Proof.Machine.execCorrectedError unit s
  | .uncorrectableError what => Sys2Proof.Machine.execUncorrectableError what s
  | .healthWindowEnd => Sys2Proof.Machine.execHealthWindowEnd s
  | .engineRetirement e => Sys2Proof.Machine.execEngineRetirement e s
  | .hltRetire v => Sys2Proof.Machine.execHltRetire v s
  | .bankWordRetirement word cause => Sys2Proof.Machine.execBankWordRetirement word cause s
  | .hltCtlClear => Sys2Proof.Machine.execHltCtlClear s
  | .pmuCntloRead src c => Sys2Proof.Machine.execPmuCntloRead src c s
  | .pmuCntloWrite src c v => Sys2Proof.Machine.execPmuCntloWrite src c v s
  | .pmuCnthiWrite src c v => Sys2Proof.Machine.execPmuCnthiWrite src c v s
  | .bandwidthWindowEnd => Sys2Proof.Machine.execBandwidthWindowEnd s
  | .freeze => Sys2Proof.Machine.execFreeze s
  | .swatchWrite err => Sys2Proof.Machine.execSwatchWrite err s
  | .poresetN straps => Sys2Proof.Machine.execPoresetN straps s
  | .wresetN straps => Sys2Proof.Machine.execWresetN straps s
  | .startUpNvmRead => Sys2Proof.Machine.execStartUpNvmRead s
  | .bist fails => Sys2Proof.Machine.execBist fails s
  | .cpxBootctlCont => Sys2Proof.Machine.execCpxBootctlCont s
  | .engineRelease => Sys2Proof.Machine.execEngineRelease s
  | .cpxIdleReq req => Sys2Proof.Machine.execCpxIdleReq req s
  | .deepIdleEntry => Sys2Proof.Machine.execDeepIdleEntry s
  | .wake => Sys2Proof.Machine.execWake s
  | .aonWakeRequest what => Sys2Proof.Machine.execAonWakeRequest what s
  | .engRunctlStop e => Sys2Proof.Machine.execEngRunctlStop e s
  | .engRunctlRestart e => Sys2Proof.Machine.execEngRunctlRestart e s
  | .memoryPortResponse p id write err late data => Sys2Proof.Machine.execMemoryPortResponse p id write err late data s
  | .memoryPortTimeout p id => Sys2Proof.Machine.execMemoryPortTimeout p id s
  | .hostTargetRequest write addr mask id data ecc => Sys2Proof.Machine.execHostTargetRequest write addr mask id data ecc s
  | .hostInitiatorResponse id write err late data => Sys2Proof.Machine.execHostInitiatorResponse id write err late data s
  | .hostInitiatorTimeout id => Sys2Proof.Machine.execHostInitiatorTimeout id s
  | .hptDoorbell v => Sys2Proof.Machine.execHptDoorbell v s
  | .tapDebugAccess addr write data => Sys2Proof.Machine.execTapDebugAccess addr write data s
  | .cpxTapctlLock => Sys2Proof.Machine.execCpxTapctlLock s
  | .unmappedAccess src addr write => Sys2Proof.Machine.execUnmappedAccess src addr write s
  | .registerWrite src addr v => Sys2Proof.Machine.execRegisterWrite src addr v s
  | .clockStop c => Sys2Proof.Machine.execClockStop c s
  | .clockResume c => Sys2Proof.Machine.execClockResume c s
  | .powerLoss => Sys2Proof.Machine.execPowerLoss s
  | .channelTransfer ch => Sys2Proof.Machine.execChannelTransfer ch s
  | .alignmentMarker p phys m at_ => Sys2Proof.Machine.execAlignmentMarker p phys m at_ s
  | .testLogicReset => Sys2Proof.Machine.execTestLogicReset s

end Sys2Proof.Machine
end

