-- ==== Sys2Proof/Machine/Tick.lean ====
section
/-! DEFINITION. One FCLK cycle in which no command arrives (log 3): the warp, the global time, timers, threshold counters, and
work that waits for room.
What is DEDUCED or a DESIGN CHOICE here is said in notes/assumptions, log 3. -/

namespace Sys2Proof.Machine

open Sys2Proof

/-- The warp's slot and the frame of 02 R39; in the cycle after a boundary, what waited for the boundary after the next now waits
for the next (02 R48). -/
def tickWarp (s : State) : State :=
  let w := s.wvl
  let s1 := { s with wvl := { w with slot := w.slot + 1, frame := if w.slot = 255 then w.frame + 1 else w.frame } }
  if w.slot = 0 then
    { s1 with cpx := { s1.cpx with commitq := s1.cpx.commitq.map fun p => (p.1, false) },
              ins := { s1.ins with i := s1.ins.i.map fun p => (p.1, { p.2 with late := 0 }) } }
  else s1

/-- The batch timers at a tick boundary (10 R229). -/
def tickBatch (s : State) : State :=
  { s with evg := { s.evg with src := s.evg.src.map fun p =>
      (p.1, if p.2.acc = 0 then p.2 else { p.2 with timer := satAdd p.2.timer 1 }) } }

/-- The global time, the comparators that it reaches (10 R243), and the tick boundary. -/
def tickTime (s : State) : State :=
  let t := s.tmr.gtime + 1
  let s1 := { s with tmr := { s.tmr with gtime := t, due := s.tmr.due ||| passed s s.tmr.gtime t } }
  if t.toNat % 1024 = 0 then tickBatch s1 else s1

/-- A period that runs counts down to 0 (10 R242). -/
def countDown (period count : Word) : Word := if period = 0 ∨ count = 0 then count else count - 1

/-- The interval timers and watchdogs. -/
def tickTimers (s : State) : State :=
  { s with tmr := { s.tmr with t := s.tmr.t.map fun p =>
      (p.1, { p.2 with count := countDown p.2.period p.2.count, wdcount := countDown p.2.wdperiod p.2.wdcount }) } }

/-- The occupancies that threshold counters sample (18 R410). -/
def occupancy (s : State) (t : Nat) : Nat :=
  if t = 0 then poolBufs s - poolFree s
  else if t = 1 then s.che.ledger.countP fun x => x.st != .done
  else if t = 2 then s.twn.jbuf.length
  else if t = 3 then s.twn.applyq.length
  else if t = 4 then heldReplies s
  else if t = 5 then s.cpx.commitq.length
  else if t < 10 then (ibfGet s (t - 6)).retry.length
  else if t < 14 then (mptGet s (t - 10)).out.length
  else if t = 14 then s.che.sendq.countP fun q => !q.reply
  else s.hlt.logq.length

/-- Threshold counter t (18 R410). -/
def tickThr (s : State) (t : Nat) : State :=
  if (tget 0 s.pmu.thr t).toNat < occupancy s t then pmuAdd s (530 + t) 1 else s

/-- Bank ports whose slot served no master in the cycle that ends; a scrub access is no master's. -/
def idlePorts (s : State) : Nat := 128 - s.cyc.used.countP fun u => decide (u.tbl < 128) && u.mst != 0xFF

/-- The idle bank-port slots and the threshold counters of a cycle (18 R409, R410). -/
def tickCounters (s : State) : State := (List.range 16).foldl tickThr (pmuAdd s 599 (idlePorts s))

/-- The ECLK to FCLK ratio that the straps declare (20 R449). -/
def eclkRatio (r : BitVec 3) : Nat × Nat :=
  if r = 0 then (1, 1) else if r = 1 then (5, 4) else if r = 2 then (3, 2) else if r = 3 then (8, 5) else if r = 4 then (7, 4) else (2, 1)

/-- ECLK cycles in the FCLK cycle that ends. -/
def eclkCycles (s : State) : Nat :=
  let (p, q) := eclkRatio s.cpx.straps.ratio
  let t := s.tmr.gtime.toNat
  (t + 1) * p / q - t * p / q

/-- An engine's cycles in the FCLK cycle that ends, while it neither stands nor sleeps, and those of them in which two instructions issue:
a number that the block's commands do not show (free, log 18). -/
def tickEngine (s : State) (e : Eng) : State :=
  if (engGet s e).st ≠ .running ∨ (engGet s e).retired then s
  else
    let n := eclkCycles s
    let (s1, x) := takeFree (pmuAdd s (8 * e.val) n) 1
    pmuAdd s1 (8 * e.val + 2) (x % (n + 1))

/-- The engines' clocks (18 R408). -/
def tickEngines (s : State) : State := if eclkOn s then s.eng.foldl (fun s p => tickEngine s (Fin.ofNat 64 p.1)) s else s

/-- The end of a cycle: what the rules place there, after what its commands have brought (13 R310, 15 R362, 17 R399, R400, 12 R271, 21 R466,
10 R229, 18 R414). -/
def cycleEnd (s : State) : State :=
  let s1 := endMg (endPeriod (endTimeouts s))
  let s2 := tickTimers (tickEngines (tickCounters (s1.cyc.scrubs.foldl scrubEnd s1)))
  endFreeze (endCoalesce (endSets s2))

/-- Sources whose CCOUNT or CTIME the cycle has written. -/
def newCoalesce (s : State) : List Nat := s.cyc.ccounts.map (·.1) ++ s.cyc.ctimes.map (·.1)

/-- Work that waits for room in a queue, a slot or a clock is tried again, and batches are held to what their registers now say (10
R229). -/
def tickWaiting (s : State) : State :=
  let retry := fun (f : State → State) (s : State) => served s (f s)
  let s1 := busFlush (retry (cheFlush 64) (retry twinFlush (retry hostFlush s)))
  let s2 := (List.range 5).foldl (fun s n => retry (rspFlush n) s) ((List.range 4).foldl mgFlush s1)
  if eclkOn s2 then s2.eng.foldl (fun s p => retry (anchorAsk · (Fin.ofNat 64 p.1)) s) s2 else s2

/-- The engines' copies take their region registers' values within 3 ECLK cycles ±1 of the boundary (12 R276): here in the FCLK cycle
after it (DESIGN CHOICE, log 27). -/
def tickCopies (s : State) : State := { s with spc := { s.spc with regCopy := s.spc.reg } }

/-- One FCLK cycle: it ends what happened in it, and the next begins with the work that waits (log 27). Each port that sends drives its PCLKn
cycle in it (log 30). Without FCLK an MGCLK cycle. -/
def tick (s : State) : State :=
  if fclkOn s then
    let s1 := { tickTime (tickWarp (tickCopies (cycleEnd s))) with cyc := {} }
    let s2 := (newCoalesce s).foldl batchCheck (tickWaiting s1)
    ([0, 1, 2, 3] : List PortNo).foldl pcsCycle s2
  else if clkOn s .mgclk then endMg s
  else s

end Sys2Proof.Machine
end

