-- ==== Sys2Proof/WellFormed.lean ====
section
/-! DEFINITION. Commands whose operands name a happening that the block can meet. -/

namespace Sys2Proof

open Sys2Proof.Machine

/-- A request of a slot lies in its bank and comes from one of the 74 masters (12 R268, R274). -/
def SpReq.wf (bank : Fin 64) (q : SpReq) : Bool := bankOf q.word == bank.val && decide (q.mst.toNat ≤ 73)

/-- A command is well-formed: each master presents at most one access to a bank in a slot (12 R269). Every other command's operand types
admit only what its row names. -/
def Instr.wf (i : Instr) : Bool :=
  match i with
  | .scratchpadAccess bank reqs => reqs.all (SpReq.wf bank) && decide (reqs.map (·.mst)).Nodup
  | _ => true

end Sys2Proof
end

