-- ==== Sys2Proof/Safety.lean ====
section
/-! DEFINITION. What claims about steps say: no stop, and the canonical form of the block's memories. -/

namespace Sys2Proof.Machine

open Sys2Proof

/-- A step answers a next state. -/
def Runs (s : State) : Prop := ∃ t, step s = .next t

/-- Commands carried out one after another, as within one cycle, while each answers a next state. -/
def runAll : List Instr → State → Host.Outcome State Fault Refusal
  | [], s => .next s
  | i :: l, s =>
    match exec i s with
    | .next t => runAll l t
    | x => x

/-- Every waiting command is well-formed. -/
def PendingWf (s : State) : Prop := ∀ c ∈ s.pending, c.wf = true

/-- The scratchpad and the NVM are in canonical form. -/
def MemoriesWf (s : State) : Prop := Memory.wf spadDefault s.spc.mem = true ∧ Memory.wf nvmDefault s.nvc.nvm = true

/-! ### What statements about an engine's instructions assume and say -/

/-- Bits [15:0] of a paired word whose second syllable is no reserved encoding (04 R90, R96). -/
def restLegal (rest : BitVec 16) : Bool :=
  let o2 := rest.toNat / 256 % 128
  shortNamed o2 && !rest.getLsbD 15 && !shortBad o2 (rest.setWidth 8)

/-- The rest of the instruction's word is no reserved encoding in native mode. -/
def wordLegal (p : Place) : Bool :=
  match p with
  | .first rest => restLegal rest
  | _ => true

/-- Engine e can issue and commit an instruction at place p (05 R98): it runs on the correct path, stands at that place with its word
fetched, and no entry, boundary fault, I/O access, earlier overflow of the word, waiting invalidation or spill comes first. -/
def ready (s : State) (e : Eng) (p : Place) : Bool :=
  let g := engGet s e
  canRun s g && g.ra.isNone && g.wrong.isNone && atPlace g p && g.io.isNone && !g.r.ovp && !g.xwait && wordHeld s e &&
    g.m.sb.all (!·.spec)

/-- The same in native mode (03 R70), in a word that is no reserved encoding. -/
def readyNative (s : State) (e : Eng) (p : Place) : Bool := ready s e p && !sb1Mode s e && wordLegal p

/-- The same in SB1 mode (03 R70, R71), in a word whose syllables are all of the SB1 subset (04 R90). -/
def readyShort (s : State) (e : Eng) (p : Place) : Bool :=
  ready s e p && sb1Mode s e && wordLegal p &&
    (match p with
      | .first rest => shortSb1 (rest.toNat / 256 % 128)
      | p => p == .second)

/-- The state after an instruction at place p raises a fault with no stack moved: the entry, or a hold while the entry needs the full
spill buffer (09 R216). -/
def faulted (s : State) (e : Eng) (p : Place) (i : FaultInfo) : State :=
  let g := engGet s e
  if faultHeld (discard g) i then slotsBack s s else takeFault s e i g.r.pc (p == .second)

/-- The state after a word is judged a reserved encoding (04 R97): its ILLEGAL, with the same hold. -/
def rejected (s : State) (e : Eng) (i : FaultInfo) : State :=
  let g := engGet s e
  if faultHeld (discard g) i then s else takeFault s e i g.r.pc false

/-- The state after an instruction of engine e commits with registers r and no transfer: r at the next syllable or word, the
engine's instruction counter (18 R408) one up, nothing else of what the manual names changed. -/
def committed (s : State) (e : Eng) (p : Place) (r : Regs) : State :=
  engCount (engPut s e { engGet s e with r := nextRegs r p (sb1Mode s e) none, waits := false }) e 1

/-- The state after a transfer of engine e commits with registers r: the predictors updated at commit (08 R181), the registers at
the next word `a`, the instruction counter one up. -/
def transferred (s : State) (e : Eng) (p : Place) (k : XKind) (taken : Bool) (a : Word) (r : Regs) : State :=
  let g := engGet s e
  engCount (engPut s e { g with
    m := predUpdate g.m g.r.pc g.r.ghist (if k = .cond then some taken else none) (taken && k != .ret) a,
    r := xferRegs r p k taken a, waits := false }) e 1

/-- The engine's prediction of a transfer is its outcome, or nothing predicts it (08 R181, R182). -/
def foreseen (s : State) (e : Eng) (k : XKind) (target : Word) (taken : Bool) (a : Word) : Bool :=
  match predict (engGet s e) k target with
  | none => true
  | some q => q == (taken, a)

end Sys2Proof.Machine
end

