-- ==== Sys2Proof/Certificates/Slice0/Obligations.lean ====
section
/-! DEFINITION. The statements for the provers, one definition each. A statement of several clauses is their conjunction. -/

open Sys2Proof Sys2Proof.Machine

/-- The model's form (log 3): with a command at the front of its queue a step is the command's effect on the state with the queue's rest. -/
def Obligations.StepRunsFrontCommand : Prop :=
  ∀ (s : State) (c : Instr) (l : List Instr), step { s with pending := c :: l } = exec c { s with pending := l }

/-- The model's choice (log 3): with no command waiting a step is one FCLK cycle when that clock runs; in a cycle that ends with nothing due
and begins with no work that waits, the global time and the warp's slot go on by one, the engines' copies take the region registers (log
27), and no memory, no engine and no queue of commands changes. With neither FCLK nor MGCLK a step does nothing. -/
def Obligations.TickAdvancesTime : Prop :=
  ∀ (s : State), s.pending = [] →
    (fclkOn s = true → s.cyc = {} → s.che.wq = [] → s.hlt.twinMsgs = [] → s.hlt.hostMsgs = [] → s.hpt.reqs = [] →
      (∀ n < 5, (mptGet s n).rspq = []) → (∀ p < 4, (ibfGet s p).mggo = false) → (∀ e, (engGet s e).ra = none) →
      ∃ t, step s = .next t ∧ t.tmr.gtime = s.tmr.gtime + 1 ∧
        t.wvl.slot = s.wvl.slot + 1 ∧ t.eng = s.eng ∧ t.spc = { s.spc with regCopy := s.spc.reg } ∧
        t.nvc = s.nvc ∧ t.pending = [] ∧ t.cyc = {}) ∧
    (fclkOn s = false → clkOn s .mgclk = false → step s = .next s)

/-- 19 R418, 02 R38, 14 R344, 17 R406, 20 R446 and the other reset columns: what the manual states of the block right after a reset.
`State.reset` is the block before step 1: no start-up step has happened (log 19). Where the manual leaves a choice or is read by
inference, the clauses follow the model's log 7. -/
def Obligations.ResetState : Prop :=
  let s := State.reset
  s.pending = [] ∧ s.wvl.state = 0 ∧ s.wvl.full = false ∧ s.wvl.enable = 0 ∧ s.tmr.gtime = 0 ∧ s.evg.evout = 0 ∧
  s.hlt.state = 3 ∧ s.hlt.cethr = 64 ∧ s.hlt.cewin = 1000 ∧ s.hlt.retthr = 1024 ∧ s.hlt.retired = 0 ∧
  (∀ p < 4, (ibfGet s p).st = .off ∧ (ibfGet s p).en = true ∧ (ibfGet s p).traintmo = 1000 ∧ (ibfGet s p).rtmo = 4096 ∧
    (ibfGet s p).retrymax = 8 ∧ (ibfGet s p).err = 0) ∧
  (∀ n < 4, (mptGet s n).en = true ∧ (mptGet s n).tmoLim = 0x10000 ∧ (mptGet s n).err = false) ∧
  s.cpx.unmmst = 0xFF ∧ s.twn.txseq = 1 ∧ s.twn.acknext = 1 ∧ s.twn.rxnext = 1 ∧ s.twn.port = 3 ∧ s.spc.mem = [] ∧ s.che.owner = [] ∧
  ∀ e : Eng, (engGet s e).st = .unreleased

/-- The block's memories have one canonical form at reset: the model's own form of the memories (log 6). -/
def Obligations.MemoriesWfAtReset : Prop :=
  MemoriesWf State.reset

/-- Every step keeps the scratchpad and the NVM in canonical form (log 6): addresses strictly rising, no byte listed that reads as an
unlisted one does. -/
def Obligations.StepsKeepMemories : Prop :=
  ∀ s t : State, MemoriesWf s → step s = .next t → MemoriesWf t

/-- 12 R269: no well-formed command stops the block: a step whose waiting commands are all well-formed answers a next state, and leaves them
so. The one kind of ill-formed command stops by name: requests for a bank's slot that are in another bank, from no master, or two of one
master. The stop is the model's own (log 16): such a command names no happening. -/
def Obligations.WellFormedCommandsRun : Prop :=
  (∀ s : State, PendingWf s → ∃ t, step s = .next t ∧ PendingWf t) ∧
  (∀ (s : State) (c : Instr), c.wf = true → ∃ t, exec c s = .next t ∧ t.pending = s.pending) ∧
  (∀ (s : State) (c : Instr), c.wf = false → exec c s = .fault .badOperand)

/-- 05 R100: the literal and address-formation instructions, long and short. 05 R101: the stack shuffles, S0 first. 03 R60: `PICK` n pushes
S(n) when it is cached, and raises DSTACK_UNDER, changing no stack, when n is not below DEPTH; an entry that needs the full spill buffer
is held (09 R216). 05 R104: `LDL` n pushes local n, `STL` n pops into it. -/
def Obligations.StackAndLiterals : Prop :=
  (∀ (s : State) (e : Eng) (f : Form) (o : BitVec 24) (a : Word) (rest : List Cell),
     let imm : Word := match f with | .long v => v.signExtend 32 | .first v _ => v.signExtend 32 | .second v => v.signExtend 32
     let r := regGet s e
     (readyNative s e (formPlace f) = true → r.ds.length ≤ 31 →
       exec (.lit e f) s = .next (committed s e (formPlace f) { r with ds := .val imm :: r.ds })) ∧
     (readyNative s e (formPlace f) = true → r.ds = .val a :: rest → rest.length ≤ 31 →
       exec (.addi e f) s = .next (committed s e (formPlace f) { r with ds := .val (a + imm) :: rest })) ∧
     (readyNative s e .long = true → r.ds.length ≤ 31 →
       exec (.lea e o) s = .next (committed s e .long { r with ds := .val (r.pc + o.signExtend 32) :: r.ds })) ∧
     (readyNative s e .long = true → r.ds = .val a :: rest → rest.length ≤ 31 → o.toNat < 256 →
       exec (.lithi e o) s = .next (committed s e .long
         { r with ds := .val (BitVec.ofNat 32 (o.toNat * 2 ^ 24 + a.toNat % 2 ^ 24)) :: rest }))) ∧
  (∀ (s : State) (e : Eng) (y : Syl) (a b c : Word) (rest : List Cell),
     readyNative s e (sylPlace y) = true → sylOpnd y = 0 → rest.length ≤ 29 →
     let r := regGet s e
     let gives := fun l => Host.Outcome.next (committed s e (sylPlace y) { r with ds := l })
     (r.ds.length ≤ 32 → exec (.nop e y) s = gives r.ds) ∧
     (r.ds = .val a :: rest → exec (.dup e y) s = gives (.val a :: .val a :: rest) ∧ exec (.drop e y) s = gives rest) ∧
     (r.ds = .val b :: .val a :: rest →
       exec (.swap e y) s = gives (.val a :: .val b :: rest) ∧ exec (.over e y) s = gives (.val a :: .val b :: .val a :: rest)) ∧
     (r.ds = .val c :: .val b :: .val a :: rest → exec (.rot e y) s = gives (.val a :: .val c :: .val b :: rest))) ∧
  (∀ (s : State) (e : Eng) (y : Syl) (w : Word),
     readyNative s e (sylPlace y) = true → (regGet s e).ds.length ≤ 31 →
     let r := regGet s e
     (r.ds[(sylOpnd y).toNat]? = some (.val w) →
       exec (.pick e y) s = .next (committed s e (sylPlace y) { r with ds := .val w :: r.ds })) ∧
     (depth r ≤ (sylOpnd y).toNat →
       exec (.pick e y) s = .next (faulted s e (sylPlace y) { num := 10, faddr := some r.dsp }))) ∧
  (∀ (s : State) (e : Eng) (y : Syl) (a : Word) (rest : List Cell),
     readyNative s e (sylPlace y) = true → (sylOpnd y).toNat < 16 →
     let r := regGet s e
     (r.ds.length ≤ 31 →
       exec (.ldl e y) s =
         .next (committed s e (sylPlace y) { r with ds := .val (tget 0 r.l (sylOpnd y).toNat) :: r.ds })) ∧
     (r.ds = .val a :: rest → rest.length ≤ 31 →
       exec (.stl e y) s =
         .next (committed s e (sylPlace y) { r with ds := rest, l := tset 0 r.l (sylOpnd y).toNat a })))

/-- 05 R103, 03 R79, R80: the two-operand instructions pop b and a and push the result; the engine's other registers, memory and every other
part of the state stand. 05 R103: the one-operand instructions; an immediate shift takes operand bits [4:0] as its count. 03 R71: in SB1
mode the short forms compute at 16 bits on bits [15:0] of each cell and sign-extend the result; the comparisons `SEQ`, `SLT` and `SLTU`
are no SB1 syllables (04 R90) and raise ILLEGAL with code 4 at the first syllable (04 R96), unless the entry needs the full spill buffer
(09 R216). -/
def Obligations.ArithmeticResults : Prop :=
  (∀ (s : State) (e : Eng) (y : Syl) (a b : Word) (rest : List Cell),
     readyNative s e (sylPlace y) = true → sylOpnd y = 0 → (regGet s e).ds = .val b :: .val a :: rest → rest.length ≤ 30 →
     let done := fun x => Host.Outcome.next (committed s e (sylPlace y) { regGet s e with ds := .val x :: rest })
     exec (.add e y) s = done (a + b) ∧ exec (.sub e y) s = done (a - b) ∧
     exec (.and_ e y) s = done (a &&& b) ∧ exec (.or_ e y) s = done (a ||| b) ∧ exec (.xor_ e y) s = done (a ^^^ b) ∧
     exec (.shl e y) s = done (a <<< b.toNat) ∧ exec (.shr e y) s = done (a >>> b.toNat) ∧
     exec (.sar e y) s = done (a.sshiftRight b.toNat) ∧
     exec (.rol e y) s = done (a.rotateLeft (b.toNat % 32)) ∧ exec (.ror e y) s = done (a.rotateRight (b.toNat % 32)) ∧
     exec (.seq e y) s = done (if a = b then 1 else 0) ∧ exec (.slt e y) s = done (if a.toInt < b.toInt then 1 else 0) ∧
     exec (.sltu e y) s = done (if a.toNat < b.toNat then 1 else 0)) ∧
  (∀ (s : State) (e : Eng) (y : Syl) (a : Word) (rest : List Cell),
     readyNative s e (sylPlace y) = true → (regGet s e).ds = .val a :: rest → rest.length ≤ 31 →
     let done := fun x => Host.Outcome.next (committed s e (sylPlace y) { regGet s e with ds := .val x :: rest })
     (sylOpnd y = 0 →
       exec (.not_ e y) s = done (~~~a) ∧
       exec (.sextb e y) s = done ((a.setWidth 8).signExtend 32) ∧ exec (.sexth e y) s = done ((a.setWidth 16).signExtend 32) ∧
       exec (.zextb e y) s = done (a &&& 0xFF#32) ∧ exec (.zexth e y) s = done (a &&& 0xFFFF#32)) ∧
     ((sylOpnd y).toNat < 32 →
       exec (.shli e y) s = done (a <<< (sylOpnd y).toNat) ∧ exec (.shri e y) s = done (a >>> (sylOpnd y).toNat) ∧
       exec (.sari e y) s = done (a.sshiftRight (sylOpnd y).toNat) ∧
       exec (.rori e y) s = done (a.rotateRight (sylOpnd y).toNat))) ∧
  (∀ (s : State) (e : Eng) (y : Syl) (a b : Word) (rest : List Cell),
     readyShort s e (sylPlace y) = true → sylOpnd y = 0 → rest.length ≤ 30 →
     let r := regGet s e
     let h := fun (x : Word) => (x.setWidth 16 : BitVec 16)
     let done := fun (x : BitVec 16) =>
       Host.Outcome.next (committed s e (sylPlace y) { r with ds := .val (x.signExtend 32) :: rest })
     (r.ds = .val b :: .val a :: rest →
       exec (.add e y) s = done (h a + h b) ∧ exec (.sub e y) s = done (h a - h b) ∧ exec (.and_ e y) s = done (h a &&& h b) ∧
       exec (.or_ e y) s = done (h a ||| h b) ∧ exec (.xor_ e y) s = done (h a ^^^ h b) ∧
       exec (.shl e y) s = done (h a <<< (h b).toNat) ∧ exec (.shr e y) s = done (h a >>> (h b).toNat) ∧
       exec (.sar e y) s = done ((h a).sshiftRight (h b).toNat) ∧
       exec (.rol e y) s = done ((h a).rotateLeft ((h b).toNat % 16)) ∧
       exec (.ror e y) s = done ((h a).rotateRight ((h b).toNat % 16))) ∧
     (r.ds = .val a :: rest → exec (.not_ e y) s = done (~~~ h a)) ∧
     (sylPlace y ≠ .second → ∀ i ∈ [Instr.seq e y, .slt e y, .sltu e y],
       exec i s = .next (rejected s e { num := 1, detail := 4, faddr := some r.pc })))

/-- 03 R80, R81: the checked forms push the wrapped result; a true result outside 32 signed bits sets OVP when OVE is 1 in effect. In the
first syllable the word goes on. 03 R81: the second syllable of a word completes with an overflow pending, its own or the first's:
OVERFLOW is taken after the word, naming the word's address and resuming at the next word, with OVP cleared. `NOP` and `ADDV` show both.
An entry that needs the full spill buffer holds the syllable (09 R216). -/
def Obligations.CheckedArithmetic : Prop :=
  (∀ (s : State) (e : Eng) (w : BitVec 16) (a b : Word) (rest : List Cell),
     readyNative s e (.first w) = true → rest.length ≤ 30 →
     let r := regGet s e
     let ove := r.sp.ctlEff.getLsbD 0
     let out := fun (x : Int) => decide (x < -(2 ^ 31) ∨ 2 ^ 31 - 1 < x)
     let done := fun x ovp => Host.Outcome.next (committed s e (.first w) { r with ds := .val x :: rest, ovp := ovp })
     (r.ds = .val b :: .val a :: rest →
       exec (.addv e (.first 0 w)) s = done (a + b) (ove && out (a.toInt + b.toInt)) ∧
       exec (.subv e (.first 0 w)) s = done (a - b) (ove && out (a.toInt - b.toInt))) ∧
     (r.ds = .val a :: rest → exec (.neg e (.first 0 w)) s = done (-a) (ove && out (-a.toInt)))) ∧
  (∀ (s : State) (e : Eng) (a b : Word) (rest : List Cell),
     canRun s (engGet s e) = true → (engGet s e).ra = none → (engGet s e).wrong = none → (engGet s e).r.syll = true →
     (engGet s e).xwait = false → wordHeld s e = true → sb1Mode s e = false →
     let g := engGet s e
     let r := regGet s e
     let i : FaultInfo := { num := 8, faddr := some r.pc }
     let after := fun l => takeFault (committed s e .second { r with ds := l, ovp := false }) e i (r.pc + 4) false
     (r.ovp = true → r.ds.length ≤ 32 → faultHeld g i = true → exec (.nop e (.second 0)) s = .next (slotsBack s s)) ∧
     (faultHeld g i = false → g.m.sb.all (!·.spec) = true →
       (r.ovp = true → r.ds.length ≤ 32 → exec (.nop e (.second 0)) s = .next (after r.ds)) ∧
       (r.sp.ctlEff.getLsbD 0 = true → r.ds = .val b :: .val a :: rest → rest.length ≤ 30 → 2 ^ 31 - 1 < a.toInt + b.toInt →
         exec (.addv e (.second 0)) s = .next (after (.val (a + b) :: rest)))))

/-- 03 R57 item 1: an instruction that pops more cells than DEPTH raises DSTACK_UNDER with `DSP` in `FADDR`; no stack changes before the
entry, which is held while it needs the full spill buffer (09 R216). 03 R57: the three conditions that an instruction's stack meets
before it performs. With fewer cells than it pops it raises DSTACK_UNDER and nothing changes; with too few of them cached, one block of
8 cells is filled from below `DSP`, deepest first, under the cached cells; with too little room for what it pushes the 8 deepest cached
cells are written at `DSP`, the deepest lowest; never both. 03 R55, R57, R58: a fill moves 8 cells from the spill area and a spill moves
8 to it, so preparing the stack for an instruction leaves DEPTH as it was, and the cells it pops are cached after it. -/
def Obligations.StackPreparation : Prop :=
  (∀ (s : State) (e : Eng) (y : Syl),
     readyNative s e (sylPlace y) = true → sylOpnd y = 0 →
     let r := regGet s e
     let raised := Host.Outcome.next (faulted s e (sylPlace y) { num := 10, faddr := some r.dsp })
     (depth r < 1 → ∀ i ∈ [Instr.drop e y, .dup e y, .not_ e y, .neg e y, .stl e y, .toRs e y, .shli e y], exec i s = raised) ∧
     (depth r < 2 → ∀ i ∈ [Instr.add e y, .sub e y, .addv e y, .swap e y, .over e y, .seq e y, .shl e y], exec i s = raised) ∧
     (depth r < 3 → exec (.rot e y) s = raised)) ∧
  (∀ (s s1 : State) (e : Eng) (k m : Nat) (bs : List Byte) (vs : List Word), k ≤ 4 → m ≤ 4 → (regGet s e).ds.length ≤ 32 →
     (engGet s e).ra = none →
     let r := regGet s e
     let c := r.ds.length
     (depth r < k → prepDs s e k m = .fault s { num := 10, faddr := some r.dsp }) ∧
     (k ≤ c → c + m ≤ 32 + k → prepDs s e k m = .ok s ()) ∧
     (k ≤ depth r → c < k → prepDs s e k m = fillDs s e) ∧
     (k ≤ c → 32 + k < c + m → prepDs s e k m = spillDs s e) ∧
     (r.sp.dsbase.toNat + 32 ≤ r.dsp.toNat → loadRead s e (r.dsp - 32) 32 = .ok s1 bs →
       ∃ t, fillDs s e = .ok t () ∧ bs.length = 32 ∧
         regGet t e = { r with dsp := r.dsp - 32, ds := r.ds ++ (wordsOfBytes bs).reverse.map .val }) ∧
     (8 ≤ c → r.ds.drop (c - 8) = vs.map .val → r.sp.dsbase.toNat ≤ r.dsp.toNat → r.dsp.toNat + 32 ≤ r.sp.dslimEff.toNat →
       dataWrite s e r.dsp (bytesOfWords vs.reverse) true = .ok s1 () →
       ∃ t, spillDs s e = .ok t () ∧ regGet t e = { r with dsp := r.dsp + 32, ds := r.ds.take (c - 8) })) ∧
  (∀ (s t : State) (e : Eng) (k m : Nat), k ≤ 4 → m ≤ 4 → (regGet s e).ds.length ≤ 32 →
     (regGet s e).sp.dsbase.toNat % 32 = 0 → (regGet s e).dsp.toNat % 32 = 0 →
     prepDs s e k m = .ok t () →
     depth (regGet t e) = depth (regGet s e) ∧ k ≤ (regGet t e).ds.length ∧ (regGet t e).ds.length + m ≤ 32 + k ∧
     regGet t e = { regGet s e with ds := (regGet t e).ds, dsp := (regGet t e).dsp })

/-- 05 R105, 03 R73: a load pops its address and pushes what `rd` returned at S0 plus the offset, extended as its mnemonic says. 05 R105: a
store pops its address first and its data second, and writes the low bytes of the data, lowest first. -/
def Obligations.LoadAndStoreResults : Prop :=
  (∀ (s t : State) (e : Eng) (f : Form) (a : Word) (rest : List Cell) (bs : List Byte),
     readyNative s e (formPlace f) = true → (regGet s e).ds = .val a :: rest → rest.length ≤ 31 →
     let va := fun (size : Nat) => a + (match f with
       | .long o => o.signExtend 32
       | .first o _ => o.signExtend 32 * BitVec.ofNat 32 size
       | .second o => o.signExtend 32 * BitVec.ofNat 32 size)
     ready t e (formPlace f) = true → regGet t e = regGet s e →
     let done := fun x => Host.Outcome.next (committed t e (formPlace f) { regGet s e with ds := .val x :: rest })
     (loadRead s e (va 1) 1 = .ok t bs →
       exec (.ldb e f) s = done ((BitVec.ofNat 8 (leNat bs)).signExtend 32) ∧
       exec (.ldbu e f) s = done (BitVec.ofNat 32 (leNat bs))) ∧
     (loadRead s e (va 2) 2 = .ok t bs →
       exec (.ldh e f) s = done ((BitVec.ofNat 16 (leNat bs)).signExtend 32) ∧
       exec (.ldhu e f) s = done (BitVec.ofNat 32 (leNat bs))) ∧
     (loadRead s e (va 4) 4 = .ok t bs → exec (.ldw e f) s = done (BitVec.ofNat 32 (leNat bs)))) ∧
  (∀ (s t : State) (e : Eng) (f : Form) (x a : Word) (rest : List Cell),
     readyNative s e (formPlace f) = true → (regGet s e).ds = .val a :: .val x :: rest → rest.length ≤ 30 →
     let va := fun (size : Nat) => a + (match f with
       | .long o => o.signExtend 32
       | .first o _ => o.signExtend 32 * BitVec.ofNat 32 size
       | .second o => o.signExtend 32 * BitVec.ofNat 32 size)
     ready t e (formPlace f) = true → regGet t e = regGet s e →
     let done := Host.Outcome.next (committed t e (formPlace f) { regGet s e with ds := rest })
     (dataWrite s e (va 1) (toBytes 1 x.toNat) false = .ok t () → exec (.stb e f) s = done) ∧
     (dataWrite s e (va 2) (toBytes 2 x.toNat) false = .ok t () → exec (.sth e f) s = done) ∧
     (dataWrite s e (va 4) (toBytes 4 x.toNat) false = .ok t () → exec (.stw e f) s = done))

/-- 08 R193, 09 R216, 11 R259, 12 R274: where an untranslated read within one line finds its bytes: forwarded from the youngest store of the
line that holds them all, be it a store-buffer entry or a line of a frame in the spill buffer, else from the D-cache line, or from the
scratchpad window when a region grants them and a slot serves each word (`t` is the state that has taken the slots): the words as they
were before another master's write of this cycle (12 R272); here no word that is read shows an error. Else only the line's place among
its set's ways changes, and only for the D-cache. 12 R274, R277, 09 R206: an engine's read or write of scratchpad bytes that no region
grants raises REGION: nothing is read or stored, the violation is counted and logged, and `FADDR` is the first refused byte. Where the
manual leaves a choice or is read by inference, the clauses follow the model's log 6 and 23. -/
def Obligations.ReadsFindBytes : Prop :=
  (∀ (s : State) (e : Eng) (va : Word) (n : Nat),
     (engGet s e).io = none → untranslated (regGet s e) = true → 0 < n → va.toNat % 64 + n ≤ 64 →
     let g := engGet s e
     let pa : PAddr := va.setWidth 44
     let l := lineOf pa
     let o := va.toNat % 64
     (∀ (older : List SbEntry) (x : SbEntry), inWindow s pa = false → (decodePort s pa).isSome = true →
       sbAll g = older ++ [x] → x.line = l → lineMask o n &&& ~~~x.mask = 0 →
       loadRead s e va n = .ok s (lineBytes x.data o n)) ∧
     (∀ (w : Nat) (c : CLine), inWindow s pa = false → (decodePort s pa).isSome = true → (∀ x ∈ sbAll g, x.line ≠ l) →
       wayOf g.m.dc l = some w → tfind g.m.dc (4 * setOf l + w) = some c →
       loadRead s e va n =
         .ok (engPut s e { g with m := { g.m with dlru := touch g.m.dlru (setOf l) w } }) (lineBytes c.data o n)) ∧
     (∀ t : State, inWindow s pa = true → (∀ x ∈ sbAll g, x.line ≠ l) →
       firstRefused s e.val (engPres s e) false ((List.range n).map (· + winOff s pa)) = none →
       (∀ w ∈ wordsOf (winOff s pa) n, w ∉ s.spc.bad ∧ w ∉ s.spc.soft ∧ (w % 64, e.val) ∉ s.spc.paths ∧
         ∀ x ∈ s.cyc.wrote, x.word = w → x.mst = e.val) → s.cyc.ecc = [] →
       wordsServe s e.val (wordsOf (winOff s pa) n) = (t, true) →
       loadRead s e va n = .ok t (mread spadDefault s.spc.mem (winOff s pa) n))) ∧
  (∀ (s : State) (e : Eng) (va : Word) (n k : Nat) (write : Bool),
     (engGet s e).io = none → untranslated (regGet s e) = true → 0 < n → va.toNat % 64 + n ≤ 64 →
     let pa : PAddr := va.setWidth 44
     inWindow s pa = true → k < n →
     firstRefused s e.val (engPres s e) write ((List.range n).map (· + winOff s pa)) = some (winOff s pa + k) →
     checkAccess s e (if write then .write else .read) va n =
       .fault (violation s e.val (winOff s pa + k) write (engInst s e))
         { num := 5, detail := nearRegion s e.val (winOff s pa + k), acc := if write then 1 else 0,
           faddr := some (va + BitVec.ofNat 32 k) })

/-- 08 R192: an untranslated write within one line, by level M outside any capture, enters the store buffer as its youngest entry; nothing
else changes. 08 R192: the oldest committed entry drains: into its D-cache line, which becomes dirty there, or into the scratchpad
window, where one drain writes one 8-byte word, in a slot that serves the engine, and the entry leaves with its last word. No other
master has written that word in the cycle. -/
def Obligations.StoreBuffer : Prop :=
  (∀ (s : State) (e : Eng) (va : Word) (bs : List Byte),
     (engGet s e).io = none → untranslated (regGet s e) = true → bs ≠ [] → va.toNat % 64 + bs.length ≤ 64 →
     (engGet s e).wrong = none → (engGet s e).ra = none → (engGet s e).m.sb.length ≤ 7 → (regGet s e).priv = 2 → capturing s = false →
     let g := engGet s e
     let pa : PAddr := va.setWidth 44
     (inWindow s pa = true →
       firstRefused s e.val (engPres s e) true ((List.range bs.length).map (· + winOff s pa)) = none) →
     dataWrite s e va bs false = .ok (engPut s e { g with m := { g.m with sb := g.m.sb ++
       [{ line := lineOf pa, data := toLine (va.toNat % 64) bs, mask := lineMask (va.toNat % 64) bs.length, win := inWindow s pa,
          spec := false, link := false }] } }) ()) ∧
  (∀ (s : State) (e : Eng) (x : SbEntry),
     eclkOn s = true → (engGet s e).m.sb = [x] → x.spec = false → (engGet s e).spill = none → (engGet s e).xleft = 0 →
     let g := engGet s e
     (∀ (w : Nat) (c : CLine), x.win = false → wayOf g.m.dc x.line = some w → tfind g.m.dc (4 * setOf x.line + w) = some c →
       ∃ t, exec (.storeBufferDrain e) s = .next t ∧ (engGet t e).m.sb = [] ∧
         tfind (engGet t e).m.dc (4 * setOf x.line + w) =
           some { c with data := mergeLine c.data x.data x.mask, dirty := c.dirty ||| x.mask } ∧
         t.spc = s.spc ∧ regGet t e = regGet s e) ∧
     (∀ (k : Nat), x.win = true → s.spc.bad = [] → inWindow s (linePA x.line) = true →
       (∀ b < 8 * k, x.todo.getLsbD b = false) → k < 8 → fld x.todo (8 * k) 8 ≠ 0 →
       let o := winOff s (linePA x.line) + 8 * k
       let todo := x.todo &&& ~~~ lineMask (8 * k) 8
       o % 8 = 0 → (wordServe s e.val (o / 8)).isSome = true → (∀ y ∈ s.cyc.wrote, y.word ≠ o / 8) →
       ∃ t, exec (.storeBufferDrain e) s = .next t ∧ regGet t e = regGet s e ∧
         (engGet t e).m.sb = (if todo = 0 then [] else [{ x with todo := todo }]) ∧
         ∀ a : Nat, tget spadDefault t.spc.mem a =
           (if o ≤ a ∧ a < o + 8 ∧ x.todo.getLsbD (8 * k + (a - o)) then fld x.data (64 * k + 8 * (a - o)) 8
            else tget spadDefault s.spc.mem a)))

/-- 05 R108, R109: `IN` and `INR` read the register at their address, and the cell is pushed when the access completes. 05 R108, R109: `OUT`
and `OUTR` pop their value, write the register at their address and commit; the acknowledgement is on its way. 05 R108, 09 R206: at
level U an I/O instruction raises PRIVILEGE with detail 1, and at a higher level one whose address is not a multiple of 4 raises ALIGN
with detail 1; the register is not accessed. An entry that needs the full spill buffer is held (09 R216). 05 R109: completion of an I/O
access: an `IN` pushes its data and commits; an `OUT` only ends its hold. Where the manual leaves a choice or is read by inference, the
clauses follow the model's log 20. -/
def Obligations.InputOutput : Prop :=
  (∀ (s t : State) (e : Eng) (o : BitVec 24) (a v : Word) (rest : List Cell),
     readyNative s e .long = true → (regGet s e).priv ≠ 0 → ioReady s (engGet s e) = true →
     let waiting := fun (l : List Cell) => Host.Outcome.next (engPut t e { engGet t e with
       r := { regGet t e with ds := l }, io := some ⟨true, v⟩ })
     ((regGet s e).ds.length ≤ 31 → o.toNat % 4 = 0 → ioGet s (.engine e) o = some (t, v) → engGet t e = engGet s e →
       exec (.inAbs e o) s = waiting (regGet s e).ds) ∧
     ((regGet s e).ds = .val a :: rest → rest.length ≤ 31 → (a + o.signExtend 32).toNat % 4 = 0 →
       ioGet s (.engine e) ((a + o.signExtend 32).setWidth 24) = some (t, v) → engGet t e = engGet s e →
       exec (.inr e o) s = waiting rest)) ∧
  (∀ (s t : State) (e : Eng) (o : BitVec 24) (a v : Word) (rest : List Cell),
     readyNative s e .long = true → (regGet s e).priv ≠ 0 → ioReady s (engGet s e) = true → rest.length ≤ 30 →
     let popped := regPut s e { regGet s e with ds := rest, pc := (regGet s e).pc + 4, syll := false, rpt := false,
                                                   wsb1 := false, ent := (regGet s e).ent.drop 1 }
     (engGet t e).m.sb.all (!·.spec) = true → (engGet t e).ra = none →
     let sent := Host.Outcome.next (let u := commit t e .long 0; engPut u e { engGet u e with io := some ⟨false, 0⟩ })
     ((regGet s e).ds = .val v :: rest → o.toNat % 4 = 0 → ioSet popped (.engine e) o v = some t →
       exec (.outAbs e o) s = sent) ∧
     ((regGet s e).ds = .val a :: .val v :: rest → (a + o.signExtend 32).toNat % 4 = 0 →
       ioSet popped (.engine e) ((a + o.signExtend 32).setWidth 24) v = some t → exec (.outr e o) s = sent)) ∧
  (∀ (s : State) (e : Eng) (o : BitVec 24), readyNative s e .long = true →
     let r := regGet s e
     (r.priv = 0 → ∀ i ∈ [Instr.inAbs e o, .inr e o, .outAbs e o, .outr e o],
       exec i s = .next (faulted s e .long { num := 2, detail := 1, faddr := some r.pc })) ∧
     (r.priv ≠ 0 → r.ds.length ≤ 31 → o.toNat % 4 ≠ 0 →
       exec (.inAbs e o) s = .next (faulted s e .long { num := 6, detail := 1, faddr := some (o.setWidth 32) }))) ∧
  (∀ (s : State) (e : Eng) (v : Word), eclkOn s = true → (engGet s e).wrong = none → (engGet s e).ra = none →
     (engGet s e).xwait = false →
     let g := engGet s e
     (g.st = .running → g.r.ovp = false → g.io = some ⟨true, v⟩ →
       exec (.ioAccessComplete e) s = .next (engCount (engPut s e { g with
         io := none, waits := false,
         r := { g.r with ds := .val v :: g.r.ds, pc := g.r.pc + 4, syll := false, rpt := false, wsb1 := false,
                         ent := g.r.ent.drop 1 } }) e 1)) ∧
     (g.io = some ⟨false, v⟩ → exec (.ioAccessComplete e) s = .next (engPut s e { g with io := none })))

/-- 05 R111, 03 R79, 08 R181, R182: a compare-and-branch whose outcome was predicted, or that has no prediction and resolves at once, pops
its cells and goes to A + 4 × offset when its condition holds, else to the next word; in SB1 mode it compares bits [15:0] of the cells
(03 R71). 05 R111, 03 R63: the unconditional transfers. `CALL` and `CALLS` set `LNK` to A + 4; `RET` goes to `LNK`; `JMPS` and `CALLS`
go to the popped cell. 03 R63, 05 R111: a transfer to an address that is not a multiple of 4 raises ALIGN with detail 2 at the transfer,
which keeps its cell and `LNK`; an entry that needs the full spill buffer is held (09 R216). 03 R64: the return-stack instructions.
Where the manual leaves a choice or is read by inference, the clauses follow the model's log 21. -/
def Obligations.BranchesAndTransfers : Prop :=
  (∀ (s : State) (e : Eng) (f : BForm) (a b : Word) (rest : List Cell),
     rest.length ≤ 30 →
     let r := regGet s e
     let h := fun (x : Word) => (x.setWidth 16 : BitVec 16)
     let target := r.pc + 4 * (match f with | .long o => o.signExtend 32 | .second o => o.signExtend 32)
     let goes := fun (i : Instr) (taken : Prop) [Decidable taken] =>
       let next := if taken then target else r.pc + 4
       foreseen s e .cond target (decide taken) next = true →
       exec i s = .next (transferred s e (bPlace f) .cond (decide taken) next { r with ds := rest })
     (readyNative s e (bPlace f) = true → r.ds = .val b :: .val a :: rest →
       goes (.beq e f) (a = b) ∧ goes (.bne e f) (a ≠ b) ∧ goes (.blt e f) (a.toInt < b.toInt) ∧
       goes (.bge e f) (b.toInt ≤ a.toInt) ∧ goes (.bltu e f) (a.toNat < b.toNat) ∧ goes (.bgeu e f) (b.toNat ≤ a.toNat)) ∧
     (readyNative s e (bPlace f) = true → r.ds = .val a :: rest → goes (.bz e f) (a = 0) ∧ goes (.bnz e f) (a ≠ 0)) ∧
     (readyShort s e .second = true → bPlace f = .second → r.ds = .val b :: .val a :: rest →
       goes (.beq e f) (h a = h b) ∧ goes (.bne e f) (h a ≠ h b) ∧ goes (.blt e f) ((h a).toInt < (h b).toInt) ∧
       goes (.bge e f) ((h b).toInt ≤ (h a).toInt) ∧ goes (.bltu e f) ((h a).toNat < (h b).toNat) ∧
       goes (.bgeu e f) ((h b).toNat ≤ (h a).toNat)) ∧
     (readyShort s e .second = true → bPlace f = .second → r.ds = .val a :: rest → goes (.bz e f) (h a = 0) ∧ goes (.bnz e f) (h a ≠ 0))) ∧
  (∀ (s : State) (e : Eng) (f : BForm) (a : Word) (rest : List Cell),
     let r := regGet s e
     let target := r.pc + 4 * (match f with | .long o => o.signExtend 32 | .second o => o.signExtend 32)
     (readyNative s e (bPlace f) = true →
       exec (.jmp e f) s = .next (transferred s e (bPlace f) .direct true target r) ∧
       exec (.call e f) s =
         .next (transferred s e (bPlace f) .direct true target { r with lnk := r.pc + 4, plink := some (r.pc + 4) })) ∧
     (readyNative s e (bPlace f) = true → f = .long 0 ∨ f = .second 0 → r.lnk.toNat % 4 = 0 →
       foreseen s e .ret 0 true r.lnk = true →
       exec (.ret e f) s = .next (transferred s e (bPlace f) .ret true r.lnk r)) ∧
     (readyNative s e .long = true → r.ds = .val a :: rest → rest.length ≤ 31 → a.toNat % 4 = 0 →
       foreseen s e .indirect 0 true a = true →
       exec (.jmps e 0) s = .next (transferred s e .long .indirect true a { r with ds := rest }) ∧
       exec (.calls e 0) s = .next (transferred s e .long .indirect true a
         { r with ds := rest, lnk := r.pc + 4, plink := some (r.pc + 4) }))) ∧
  (∀ (s : State) (e : Eng) (a : Word) (rest : List Cell), readyNative s e .long = true →
     let r := regGet s e
     let raised := fun (x : Word) => Host.Outcome.next (faulted s e .long { num := 6, detail := 2, faddr := some x })
     (r.lnk.toNat % 4 ≠ 0 → exec (.ret e (.long 0)) s = raised r.lnk) ∧
     (r.ds = .val a :: rest → rest.length ≤ 31 → a.toNat % 4 ≠ 0 →
       exec (.jmps e 0) s = raised a ∧ exec (.calls e 0) s = raised a)) ∧
  (∀ (s : State) (e : Eng) (y : Syl) (a x : Word) (rest : List Cell) (rs : List Word),
     readyNative s e (sylPlace y) = true → sylOpnd y = 0 →
     let r := regGet s e
     let done := fun q => Host.Outcome.next (committed s e (sylPlace y) q)
     (r.rs.length ≤ 15 →
       exec (.pushl e y) s = done { r with rs := r.lnk :: r.rs, prtop := r.plink } ∧
       (r.ds = .val a :: rest → rest.length ≤ 31 →
         exec (.toRs e y) s = done { r with ds := rest, rs := a :: r.rs, prtop := none })) ∧
     (r.rs = x :: rs → rs.length ≤ 15 →
       exec (.popl e y) s = done { r with lnk := x, rs := rs, plink := r.prtop, prtop := none } ∧
       (r.ds.length ≤ 31 → exec (.fromRs e y) s = done { r with ds := .val x :: r.ds, rs := rs, prtop := none })))

/-- 08 R181, R184: a compare-and-branch, taken or not, that resolves against its prediction leaves the engine on the predicted path with
both its own registers and the correct path's kept, and MISPREDICT_UNDO then puts it on the correct path: the same registers as a
foreseen branch would have left. 08 R187-R189: run-ahead begins with the missing instruction as anchor. Its instructions move the
registers on and are counted, the 64th after the anchor ends it; a result computed from an invalid cell is invalid; an instruction that
never runs ahead ends it. At its end the anchor's registers stand again, and the products and the divide it started are gone. Where the
manual leaves a choice or is read by inference, the clauses follow the model's log 21 and 27. -/
def Obligations.Speculation : Prop :=
  (∀ (s : State) (e : Eng) (f : BForm) (a b : Word) (rest : List Cell),
     readyNative s e (bPlace f) = true → rest.length ≤ 30 →
     let r := regGet s e
     let target := bTarget f r.pc
     let undone := fun (i : Instr) (taken : Prop) [Decidable taken] =>
       let next := if taken then target else r.pc + 4
       let guess := if taken then r.pc + 4 else target
       foreseen s e .cond target (decide taken) next = false →
       ∃ t u, exec i s = .next t ∧ (regGet t e).pc = guess ∧ (engGet t e).wrong.isSome = true ∧
         exec (.mispredictUndo e) t = .next u ∧ (engGet u e).wrong = none ∧
         regGet u e = xferRegs { r with ds := rest } (bPlace f) .cond (decide taken) next ∧ u.spc = s.spc
     (r.ds = .val b :: .val a :: rest →
       undone (.beq e f) (a = b) ∧ undone (.bne e f) (a ≠ b) ∧ undone (.blt e f) (a.toInt < b.toInt) ∧
       undone (.bge e f) (b.toInt ≤ a.toInt) ∧ undone (.bltu e f) (a.toNat < b.toNat) ∧ undone (.bgeu e f) (b.toNat ≤ a.toNat)) ∧
     (r.ds = .val a :: rest → undone (.bz e f) (a = 0) ∧ undone (.bnz e f) (a ≠ 0))) ∧
  (∀ (s : State) (e : Eng) (l : LineAddr) (a : RunAhead), eclkOn s = true →
     let g := engGet s e
     (g.st = .running → g.lrPend = none → g.ra = none → g.r.sp.ctlEff.getLsbD 4 = true → g.anchor = some l →
       wayOf g.m.dc l = none → (∀ f, fillOf g .data l = some f → f.st = .waiting) →
       exec (.runAheadEntry e l) s = .next (engCount (engPut s e { g with ra := some { anchor := g.r } }) e 6)) ∧
     (g.ra = some a → a.ended = false → exec (.runAheadEnd e) s = .next s) ∧
     (g.ra = some a → a.ended = true → g.wrong = none →
       ∃ t, exec (.runAheadEnd e) s = .next t ∧ regGet t e = a.anchor ∧ (engGet t e).ra = none ∧
         (∀ p, p ∈ (engGet t e).prods ↔ p ∈ g.prods ∧ p.spec = false) ∧ (∀ d, (engGet t e).div = some d → d.spec = false) ∧
         (engGet t e).m = g.m) ∧
     (∀ (y : Syl) (rest : List Cell), g.ra = some a → canRun s g = true → atPlace g (sylPlace y) = true → g.wrong = none →
       wordHeld s e = true → sb1Mode s e = false → wordLegal (sylPlace y) = true → sylOpnd y = 0 → g.r.ds.length ≤ 32 →
       g.r.ovp = false → a.logged ≤ 32 →
       let moved := fun (ds : List Cell) => Host.Outcome.next (engPut s e { g with
         waits := false, r := nextRegs { g.r with ds := ds } (sylPlace y) false none,
         ra := some { a with count := a.count + 1, ended := decide (64 ≤ a.count) } })
       exec (.nop e y) s = moved g.r.ds ∧ (g.r.ds = .inv :: rest → exec (.not_ e y) s = moved (.inv :: rest))) ∧
     (g.ra = some a → canRun s g = true → atPlace g .long = true →
       exec (.sync e 0) s = .next (engPut s e { g with ra := some { a with ended := true } })))

/-- 03 R75, R76, 05 R115, 09 R225, 16 R386: `GETC` pushes each register's value for a context at its read level or above; `DEPTH` and
`RDEPTH` are those before its own push. 03 R75-R78, 07 R153, R172, 09 R208, R225, 10 R233: `SETC` pops a cell and writes its register at
the write level or above; reserved bits ignore what is written, as does ENG.CTL bit 3 of an engine without VECEN. The values in effect
of the registers marked for SYNC stand. `VL` stays within what `VTYPE` allows. A write of `STATUS` or `MASK` also sends the new mask to
the Gatherer, and one of `FCAUSE` ends the period in which late bus errors merge. A reserved encoding of `STATUS`, `FCAUSE` or `VTYPE`
raises ILLEGAL with code 10, its entry held while it needs the full spill buffer (09 R216). 03 R75: `GETC` and `SETC` below the
register's level raise PRIVILEGE with detail 1; `SETC` of a register with no write level and a number outside the table raise ILLEGAL
with code 10; operand bits [23:12] must be 0 (code 9). An entry that needs the full spill buffer is held (09 R216). -/
def Obligations.SpecialRegisters : Prop :=
  (∀ (s : State) (e : Eng),
     readyNative s e .long = true → (regGet s e).ds.length ≤ 31 → (engGet s e).vq = [] →
     let g := engGet s e
     let r := regGet s e
     let p := r.sp
     ∀ x ∈ ([(0x001, 0, r.mask.setWidth 32), (0x002, 0, p.ctl.setWidth 32), (0x003, 1, p.gtb), (0x004, 2, p.lrvec),
         (0x005, 0, p.longpc), (0x006, 1, p.lbeaddr), (0x007, 1, p.fcause), (0x008, 1, p.faddr), (0x010, 0, r.lnk),
         (0x011, 0, BitVec.ofNat 32 (depth r)), (0x012, 0, r.dsp), (0x013, 0, p.dsbase), (0x014, 0, p.dslim),
         (0x015, 0, BitVec.ofNat 32 (rdepth r)), (0x016, 0, r.rsp), (0x017, 0, p.rsbase), (0x018, 0, p.rslim),
         (0x020, 0, r.bnk.setWidth 32), (0x021, 0, p.b1base), (0x030, 0, r.mlo), (0x031, 0, r.mhi), (0x040, 0, r.bsrc),
         (0x041, 0, r.bdst), (0x042, 0, r.bcnt), (0x050, 0, p.vl.setWidth 32), (0x051, 0, p.vstart.setWidth 32),
         (0x052, 0, p.vtype.setWidth 32), (0x053, 0, 64), (0x054, 0, (engGet s e).vdirty), (0x060, 0, p.crcsel.setWidth 32),
         (0x061, 0, p.crcpoly), (0x080, 1, p.xlt1), (0x081, 2, p.xlt2), (0x082, 2, p.xctl.setWidth 32)] : List (BitVec 24 × BitVec 2 × Word)) ++
         ([(0x0F0, 0, BitVec.ofNat 32 e.val), (0x0F1, 0, match instOf s e with | some i => BitVec.ofNat 32 i | none => 0x40#32),
         (0x000, 1, r.priv.setWidth 32 ||| (r.mask.setWidth 32 <<< 4) ||| (bitW g.lr <<< 8) ||| (bitW g.govf <<< 9) |||
           (bitW g.other.isSome <<< 10) ||| (bitW g.spill.isSome <<< 11))] : List (BitVec 24 × BitVec 2 × Word)),
       x.2.1.toNat ≤ r.priv.toNat →
       exec (.getc e x.1) s = .next (committed s e .long { r with ds := .val x.2.2 :: r.ds })) ∧
  (∀ (s : State) (e : Eng) (v : Word) (rest : List Cell),
     readyNative s e .long = true → (regGet s e).ds = .val v :: rest → rest.length ≤ 31 →
     let g := engGet s e
     let r := { regGet s e with ds := rest }
     let p := r.sp
     let clear := fun (n : Nat) => (v >>> n) <<< n
     let illegal := Host.Outcome.next (faulted s e .long { num := 1, detail := 10, faddr := some r.pc })
     let vmax := fun (t : BitVec 2) => if t = 0 then 64 else if t = 1 then 32 else 16
     (∀ x ∈ ([(0x002, 1, { r with sp := { p with ctl := if s.wvl.vecen.getLsbD e.val then v.setWidth 5 else v.setWidth 5 &&& 0x17#5 } }),
         (0x003, 2, { r with sp := { p with gtb := clear 2, gtbPend := true } }),
         (0x004, 2, { r with sp := { p with lrvec := clear 2 } }), (0x010, 0, { r with lnk := v, plink := none }),
         (0x012, 1, { r with dsp := clear 5 }), (0x013, 1, { r with sp := { p with dsbase := clear 5 } }),
         (0x014, 1, { r with sp := { p with dslim := clear 5 } }), (0x016, 1, { r with rsp := clear 4 }),
         (0x017, 1, { r with sp := { p with rsbase := clear 4 } }), (0x018, 1, { r with sp := { p with rslim := clear 4 } }),
         (0x020, 0, { r with bnk := v.setWidth 8 }), (0x021, 1, { r with sp := { p with b1base := clear 12 } }),
         (0x030, 0, { r with mlo := v }), (0x031, 0, { r with mhi := v }), (0x040, 0, { r with bsrc := v }),
         (0x041, 0, { r with bdst := v }), (0x042, 0, { r with bcnt := v }),
         (0x050, 0, { r with sp := { p with vl := BitVec.ofNat 7 (min (v.toNat % 128) (vmax p.vtype)) } }),
         (0x060, 0, { r with sp := { p with crcsel := v.setWidth 3 } }), (0x061, 0, { r with sp := { p with crcpoly := v } }),
         (0x080, 1, { r with sp := { p with xlt1 := clear 2, xltPend := true } }),
         (0x081, 2, { r with sp := { p with xlt2 := clear 5, xltPend := true } }),
         (0x082, 2, { r with sp := { p with xctl := v.setWidth 3, xltPend := true } })] : List (BitVec 24 × BitVec 2 × Regs)),
       x.2.1.toNat ≤ r.priv.toNat → exec (.setc e x.1) s = .next (committed s e .long x.2.2)) ∧
     (g.vq = [] → exec (.setc e 0x051) s = .next (committed s e .long { r with sp := { p with vstart := v.setWidth 6 } }) ∧
       exec (.setc e 0x054) s = .next (committed (engPut s e { g with vdirty := v }) e .long r)) ∧
     (v.setWidth 2 ≠ 3#2 → exec (.setc e 0x052) s = .next (committed s e .long { r with sp := { p with
       vtype := v.setWidth 2, vl := BitVec.ofNat 7 (min p.vl.toNat (vmax (v.setWidth 2))) } })) ∧
     (r.priv = 2 → v.setWidth 2 ≠ 3#2 →
       let q := { r with priv := v.setWidth 2, mask := fld v 4 4, ovp := v.getLsbD 12 }
       exec (.setc e 0x000) s = .next (committed (engPut s e { g with r := q, repq := g.repq ++ [.mask q.mask] }) e .long q)) ∧
     (r.priv ≠ 0 → exec (.setc e 0x001) s = .next (committed (engPut s e { g with repq := g.repq ++ [.mask (v.setWidth 4)] }) e .long
       { r with mask := v.setWidth 4 })) ∧
     (r.priv ≠ 0 → v.toNat % 32 < 20 → exec (.setc e 0x007) s = .next (committed (engPut s e { g with lbeOpen := false }) e .long
       { r with sp := { p with fcause := v &&& 0x00FF01FF#32 } })) ∧
     (r.priv = 2 → v.setWidth 2 = 3#2 → exec (.setc e 0x000) s = illegal) ∧
     (r.priv ≠ 0 → 20 ≤ v.toNat % 32 → exec (.setc e 0x007) s = illegal) ∧
     (v.setWidth 2 = 3#2 → exec (.setc e 0x052) s = illegal)) ∧
  (∀ (s : State) (e : Eng) (o : BitVec 24), readyNative s e .long = true →
     let r := regGet s e
     let illegal := fun code => Host.Outcome.next (rejected s e { num := 1, detail := code, faddr := some r.pc })
     let privileged := Host.Outcome.next (faulted s e .long { num := 2, detail := 1, faddr := some r.pc })
     (4096 ≤ o.toNat → exec (.getc e o) s = illegal 9 ∧ exec (.setc e o) s = illegal 9) ∧
     (o ∈ [0x009#24, 0x022#24, 0x083#24, 0xFFF#24] → exec (.getc e o) s = illegal 10 ∧ exec (.setc e o) s = illegal 10) ∧
     (o ∈ [0x005#24, 0x006#24, 0x008#24, 0x011#24, 0x015#24, 0x053#24, 0x0F0#24, 0x0F1#24] → exec (.setc e o) s = illegal 10) ∧
     (r.priv = 0 → o ∈ [0x000#24, 0x003#24, 0x004#24, 0x006#24, 0x007#24, 0x008#24, 0x080#24, 0x081#24, 0x082#24] →
       exec (.getc e o) s = privileged) ∧
     (r.priv = 0 → o ∈ [0x000#24, 0x001#24, 0x002#24, 0x003#24, 0x004#24, 0x007#24, 0x012#24, 0x013#24, 0x014#24, 0x016#24,
         0x017#24, 0x018#24, 0x021#24, 0x080#24, 0x081#24, 0x082#24] → exec (.setc e o) s = privileged))

/-- 05 R120: `MSK` n sets `MASK` above level U, and the new mask goes to the Gatherer; at U it raises PRIVILEGE, whose entry is held while
it needs the full spill buffer (09 R216). 05 R116-R118, R121: with nothing outstanding `SYNC` puts every pending write of 03 R77 into
effect and empties the line buffer, `FENCE` and `LFENCE` go on, and `WAITE` sleeps unless a presented priority is above `MASK`. 05
R116-R118: while earlier work is outstanding `SYNC`, `FENCE` and `LFENCE` hold where they stand; words that bank slots have served
before stay served (02 R40). Where the manual leaves a choice or is read by inference, the clauses follow the model's log 4. -/
def Obligations.MaskAndSerialControl : Prop :=
  (∀ (s : State) (e : Eng) (o : BitVec 24), readyNative s e .long = true → o.toNat < 16 →
     let g := engGet s e
     (g.r.priv ≠ 0 → exec (.msk e o) s = .next (engCount (engPut s e { g with
       waits := false, repq := g.repq ++ [.mask (o.setWidth 4)],
       r := nextRegs { g.r with mask := o.setWidth 4 } .long false none }) e 1)) ∧
     (g.r.priv = 0 → exec (.msk e o) s = .next (faulted s e .long { num := 2, detail := 1, faddr := some g.r.pc }))) ∧
  (∀ (s : State) (e : Eng), readyNative s e .long = true →
     let g := engGet s e
     let p := g.r.sp
     let idle := g.m.sb = [] ∧ g.div = none ∧ g.prods = [] ∧ g.vq = []
     (idle → p.gtbPend = false → p.xltPend = false →
       exec (.sync e 0) s = .next (engCount (engPut s e { g with
         fence := none, gload := false, waits := false, m := { g.m with lbuf := [] },
         r := nextRegs { g.r with sp := { p with
           dslimEff := p.dslim, rslimEff := p.rslim, ctlEff := p.ctl, xlt1Eff := p.xlt1, xlt2Eff := p.xlt2,
           xctlEff := p.xctl } } .long false none }) e 1)) ∧
     (g.m.sb = [] → (∀ w ∈ g.m.wbs, w.dcm = false) → exec (.fence e 0) s = .next (committed s e .long g.r)) ∧
     (g.div = none → g.vq = [] →
       exec (.lfence e 0) s =
         .next (engCount (engPut s e { g with fence := none, waits := false, r := nextRegs g.r .long false none }) e 1)) ∧
     ((∀ h, g.held = some h → h.prio.toNat ≤ g.r.mask.toNat) →
       exec (.waite e 0) s = .next (engPut (committed s e .long g.r) e
         { engGet (committed s e .long g.r) e with st := .sleeping })) ∧
     (∀ h, g.held = some h → g.r.mask.toNat < h.prio.toNat → exec (.waite e 0) s = .next (committed s e .long g.r))) ∧
  (∀ (s t : State) (e : Eng), readyNative s e .long = true →
     let g := engGet s e
     (g.m.sb ≠ [] → exec (.fence e 0) s = .next (slotsKept s s (engPut s e g)) ∧ (exec (.sync e 0) s = .next t → regGet t e = regGet s e)) ∧
     (g.div.isSome = true → exec (.lfence e 0) s = .next (slotsKept s s (engPut s e { g with fence := some false })) ∧
       exec (.sync e 0) s = .next (slotsKept s s (engPut s e { g with fence := some true }))))

/-- 09 R206, R210, R217, R221, R223, R225, 19 R430: what a fault comes to. With its class above `MASK` and its gate valid it enters the
gate; with its class at or below `MASK`, or no valid gate, it escalates to the last-resort entry with reason 1 or 3, and with reason 2
when the entry needs a spill and the gate's state stack has no room; under LR the engine stops with the `FCAUSE` value of the fault as
its cause and the resume address. While the entry needs a spill and the spill buffer is full it waits (09 R216). 09 R211-R217: entry
while the other bank holds a context: that context moves to the spill buffer for the gate's state stack, whose pointer goes up by 128,
and the interrupted context names that stack. So does a fault with its class above `MASK`, a valid gate and a state stack with room.
Where the manual leaves a choice or is read by inference, the clauses follow the model's log 22. -/
def Obligations.FaultEntry : Prop :=
  (∀ (s : State) (e : Eng) (i : FaultInfo) (resume : Word) (syll : Bool) (d : Gate),
     (engGet s e).wrong = none → (engGet s e).ra = none → (engGet s e).prods = [] → (engGet s e).refill = none →
     let g := engGet s e
     let cls := if i.num = 7 ∨ i.num = 8 then 12 else if i.num = 14 then 14 else if i.num = 15 ∨ i.num = 17 then 15 else 13
     let cause : Word := i.num.setWidth 32 ||| (if i.sf then 0x20#32 else 0) ||| (i.acc.setWidth 32 <<< 6) |||
       (if i.imp then 0x100#32 else 0) ||| (i.detail.setWidth 32 <<< 16)
     let t := takeFault s e i resume syll
     let u := engGet t e
     (g.lr = false → g.r.mask.toNat < cls → tfind g.gates i.num.toNat = some d → g.other = none →
       u.r.pc = d.handler ∧ u.r.syll = false ∧ u.r.priv = (if g.r.priv.toNat < d.priv.toNat then d.priv else g.r.priv) ∧
       u.r.mask = (if g.r.mask.toNat < d.masklvl.toNat then d.masklvl else g.r.mask) ∧
       u.r.sp.fcause = cause ∧ u.r.sp.faddr = i.faddr.getD g.r.sp.faddr ∧ u.bank = !g.bank ∧ u.r.ds = g.r.ds ∧ u.r.dsp = g.r.dsp ∧
       ∃ c, u.other = some c ∧ c.pc = resume ∧ c.syll = syll ∧ c.priv = g.r.priv ∧ c.mask = g.r.mask ∧ c.lnk = g.r.lnk ∧
         c.l = g.r.l ∧ c.depthx = BitVec.ofNat 32 (depth g.r)) ∧
     (g.lr = false → cls ≤ g.r.mask.toNat →
       ∃ q, u.lrPend = some q ∧ q.reason = 1 ∧ q.gate = i.num.setWidth 10 ∧ q.resume = resume ∧ u.r.pc = g.r.pc) ∧
     (g.lr = false → g.r.mask.toNat < cls → tfind g.gates i.num.toNat = none →
       ∃ q, u.lrPend = some q ∧ q.reason = 3 ∧ q.gate = i.num.setWidth 10 ∧ q.resume = resume ∧ u.r.pc = g.r.pc) ∧
     (g.lr = false → g.r.mask.toNat < cls → tfind g.gates i.num.toNat = some d → g.other.isSome = true → g.spill.isSome = true →
       t = s) ∧
     (g.lr = false → g.r.mask.toNat < cls → tfind g.gates i.num.toNat = some d → g.other.isSome = true → g.spill = none →
       tget 0 g.sslim d.sssel.toNat = 0 ∨ (tget 0 g.sslim d.sssel.toNat).toNat < (tget 0 g.ssp d.sssel.toNat).toNat + 128 →
       ∃ q, u.lrPend = some q ∧ q.reason = 2 ∧ q.gate = i.num.setWidth 10 ∧ q.resume = resume ∧ u.r.pc = g.r.pc) ∧
     (g.lr = true → u.st = .stopped ∧ u.lrstop = true ∧ u.stoppc = resume ∧ u.stopcause = cause ∧ t.evg.stops.getLsbD e.val = true)) ∧
  (∀ (s : State) (e : Eng) (d : Gate) (resume : Word) (syll : Bool) (dx : Nat) (y : Ctx),
     (engGet s e).wrong = none → (engGet s e).ra = none → (engGet s e).prods = [] → (engGet s e).refill = none →
     (engGet s e).other = some y → (engGet s e).spill = none →
     let g := engGet s e
     let u := engGet (enterGate s e d resume syll dx) e
     let lim := tget 0 g.sslim d.sssel.toNat
     let spilled := fun (u : Engine) =>
       (∃ f, u.spill = some f ∧ f.frame = y ∧ f.pa = tget 0 g.ssp d.sssel.toNat) ∧
       tget 0 u.ssp d.sssel.toNat = tget 0 g.ssp d.sssel.toNat + 128 ∧
       (∃ c, u.other = some c ∧ c.prevsel = d.sssel.setWidth 3 ∧ c.pc = resume) ∧ u.r.pc = d.handler
     spilled u ∧
     (∀ i : FaultInfo, g.lr = false → classOf i.num > g.r.mask.toNat → tfind g.gates i.num.toNat = some d → lim ≠ 0 →
       (tget 0 g.ssp d.sssel.toNat).toNat + 128 ≤ lim.toNat → spilled (engGet (takeFault s e i resume syll) e)))

/-- 05 R114, R122, 09 R204: `TRAP` n reads gate 32 + n in the table and enters it with resume address A + 4, whatever `MASK` holds; `BRK`
raises BREAKPOINT with its code and resume address A + 4, and waits while its entry needs the full spill buffer (09 R216). 09 R219, 03
R61: `RETI` above level U, with the stack depths as its entry recorded them and its counts cached, restores the context below: its pc,
privilege, mask, locals and link; the banks change over. At U it raises PRIVILEGE; with another depth STACK_BALANCE. Where the manual
leaves a choice or is read by inference, the clauses follow the model's log 22. -/
def Obligations.TrapsAndReturn : Prop :=
  (∀ (s s1 s2 : State) (e : Eng) (o : BitVec 24) (bs : List Byte) (d : Gate) (w : Option EntryWords),
     readyNative s e .long = true →
     let r := regGet s e
     let i : FaultInfo := { num := 16, faddr := some (o.setWidth 32) }
     (exec (.brk e o) s = .next (if faultHeld (engGet s e) i then s else takeFault s e i (r.pc + 4) false)) ∧
     (o.toNat < 256 → (engGet s1 e).lr = false → (engGet s1 e).other = none → regGet s1 e = r →
       physRead s e (gateAddr r.sp.gtbEff (32 + o.toNat)) 16 = .ok s1 (some bs) →
       gateOf ((wordsOfBytes bs).headD 0) (((wordsOfBytes bs)[1]?).getD 0) = some d → d.tpop.toNat ≤ depth r →
       entryWords s1 e d (if r.priv.toNat < d.priv.toNat then d.priv else r.priv) = .ok s2 w →
       (engGet s2 e).m.sb.all (!·.spec) = true →
       exec (.trap e o) s = .next (reportMask (enterGate (engCount s2 e 1) e { d with words := w } ((regGet s2 e).pc + 4) false
         (depth (regGet s2 e) + d.tpush.toNat - d.tpop.toNat)) e))) ∧
  (∀ (s : State) (e : Eng) (c : Ctx), readyNative s e .long = true →
     let g := engGet s e
     (g.r.priv = 0 → exec (.reti e 0) s = .next (faulted s e .long { num := 2, detail := 1, faddr := some g.r.pc })) ∧
     (g.r.priv ≠ 0 → g.lr = false → g.other = some c → depth g.r ≠ c.depthx.toNat → rdepth g.r = c.rdepthx.toNat →
       exec (.reti e 0) s = .next (faulted s e .long { num := 19, detail := 1 })) ∧
     (g.r.priv ≠ 0 → g.lr = false → g.other = some c → g.held = none → g.prods = [] → c.prevsel = 7 →
       depth g.r = c.depthx.toNat → rdepth g.r = c.rdepthx.toNat → c.priv.toNat ≤ g.r.priv.toNat →
       wantDs c = g.r.ds.length → c.rcnt = g.r.rs.length → g.r.ds.length ≤ 32 → g.r.rs.length ≤ 16 →
       ∃ t, exec (.reti e 0) s = .next t ∧ (regGet t e).pc = c.pc ∧ (regGet t e).syll = c.syll ∧ (regGet t e).priv = c.priv ∧
         (regGet t e).mask = c.mask ∧ (regGet t e).lnk = c.lnk ∧ (regGet t e).l = c.l ∧ (regGet t e).bnk = c.bnk ∧
         (regGet t e).ds = g.r.ds ∧ (regGet t e).rs = g.r.rs ∧ (regGet t e).dsp = c.dsp ∧ (regGet t e).rsp = c.rsp ∧
         (regGet t e).mlo = (if c.mv then c.mlo else g.r.mlo) ∧ (regGet t e).mhi = (if c.mv then c.mhi else g.r.mhi) ∧
         (engGet t e).other = none ∧ (engGet t e).bank = !g.bank ∧ (engGet t e).repq = g.repq ++ [.mask c.mask] ∧
         t.spc = s.spc))

/-- 05 R123-R125, 11 R260: cache maintenance by set and way above level U, with an empty store buffer: `DCM` invalidate drops the line
without a write; clean sends a dirty line to its memory port, whose output serves the engine as the present slot's owner (02 R40), and
keeps it clean; clean-invalidate does both; `ICM` drops the I-cache line and its line-buffer entry. 05 R123-R125, 11 R260: cache
maintenance by an untranslated address, at any level and once no store of the line waits: `DCM` invalidate drops the line that the
D-cache holds there, clean sends a dirty one to its port and keeps it clean, clean-invalidate does both; `ICM` drops the I-cache line
and its line-buffer entry; a line that the cache does not hold, and an address in the scratchpad window, leave the caches as they are.
The forms by set and way raise PRIVILEGE with detail 1 at level U, the entry held while it needs the full spill buffer (09 R216). Where
the manual leaves a choice or is read by inference, the clauses follow the model's log 8 and 23. -/
def Obligations.CacheMaintenance : Prop :=
  (∀ (s : State) (e : Eng) (a : Word) (rest : List Cell) (c : CLine) (n k : Nat),
     readyNative s e .long = true → (regGet s e).ds = .val a :: rest → rest.length ≤ 31 → (regGet s e).priv ≠ 0 →
     (engGet s e).m.sb = [] →
     let frame := 4 * (a.toNat / 64 % 128) + a.toNat % 4
     let g := engGet s e
     let next := nextRegs { g.r with ds := rest } .long false none
     (tfind g.m.dc frame = some c →
       exec (.dcmInvalidate e true 0) s =
         .next (engCount (engPut s e { g with r := next, waits := false, m := { g.m with dc := tdel g.m.dc frame } }) e 1)) ∧
     (tfind g.m.dc frame = some c → c.dirty ≠ 0 → g.m.wbs.length ≤ 1 → decodePort s (linePA c.line) = some n →
       (mptGet s n).en = true → slotFor s (portTable n) e.val false = some true → freeId (mptGet s n) = some k → (mptGet s n).reqq.length ≤ 15 →
       (∃ t, exec (.dcmClean e true 0) s = .next t ∧ tfind (engGet t e).m.dc frame = some { c with dirty := 0 } ∧
         (engGet t e).m.wbs = g.m.wbs ++ [⟨c.line, true⟩] ∧ regGet t e = next ∧
         (mptGet t n).reqq.length = (mptGet s n).reqq.length + 1) ∧
       ∃ t, exec (.dcmCleanInvalidate e true 0) s = .next t ∧ tfind (engGet t e).m.dc frame = none ∧
         (engGet t e).m.wbs = g.m.wbs ++ [⟨c.line, true⟩] ∧ regGet t e = next ∧
         ∃ q, (mptGet t n).reqq = (mptGet s n).reqq ++ [q] ∧ q.write = true ∧ q.line = c.line ∧ q.data = c.data ∧ q.mask = c.dirty) ∧
     (tfind g.m.ic frame = some c →
       exec (.icmInvalidate e true 0) s = .next (engCount (engPut s e { g with
         r := next, waits := false, m := { g.m with lbuf := g.m.lbuf.filter (·.1 ≠ c.line), ic := tdel g.m.ic frame } }) e 1))) ∧
  (∀ (s : State) (e : Eng) (a : Word) (rest : List Cell) (c : CLine) (w n k : Nat), readyNative s e .long = true →
     let g := engGet s e
     let pa : PAddr := a.setWidth 44
     let l := lineOf pa
     let next := nextRegs { g.r with ds := rest } .long false none
     let done := Host.Outcome.next (committed s e .long { g.r with ds := rest })
     (g.r.priv = 0 → ∀ i ∈ [Instr.dcmClean e true 0, .dcmInvalidate e true 0, .dcmCleanInvalidate e true 0, .icmInvalidate e true 0],
       exec i s = .next (faulted s e .long { num := 2, detail := 1, faddr := some g.r.pc })) ∧
     (g.r.ds = .val a :: rest → rest.length ≤ 31 → untranslated g.r = true →
       (inWindow s pa = true → ∀ i ∈ [Instr.dcmClean e false 0, .dcmInvalidate e false 0, .dcmCleanInvalidate e false 0, .icmInvalidate e false 0],
         exec i s = done) ∧
       (inWindow s pa = false → (∀ x ∈ g.m.sb, x.line ≠ l) → wayOf g.m.dc l = none →
         ∀ i ∈ [Instr.dcmClean e false 0, .dcmInvalidate e false 0, .dcmCleanInvalidate e false 0], exec i s = done) ∧
       (inWindow s pa = false → (∀ x ∈ g.m.sb, x.line ≠ l) → wayOf g.m.dc l = some w → tfind g.m.dc (4 * setOf l + w) = some c →
         exec (.dcmInvalidate e false 0) s = .next (engCount (engPut s e { g with
           r := next, waits := false, m := { g.m with dc := tdel g.m.dc (4 * setOf l + w) } }) e 1) ∧
         (c.dirty ≠ 0 → g.m.wbs.length ≤ 1 → decodePort s (linePA c.line) = some n → (mptGet s n).en = true →
           slotFor s (portTable n) e.val false = some true → freeId (mptGet s n) = some k → (mptGet s n).reqq.length ≤ 15 →
           (∃ t, exec (.dcmClean e false 0) s = .next t ∧ tfind (engGet t e).m.dc (4 * setOf l + w) = some { c with dirty := 0 } ∧
             (engGet t e).m.wbs = g.m.wbs ++ [⟨c.line, true⟩] ∧ regGet t e = next) ∧
           ∃ t, exec (.dcmCleanInvalidate e false 0) s = .next t ∧ tfind (engGet t e).m.dc (4 * setOf l + w) = none ∧
             (engGet t e).m.wbs = g.m.wbs ++ [⟨c.line, true⟩] ∧ regGet t e = next)) ∧
       (inWindow s pa = false → wayOf g.m.ic l = some w →
         exec (.icmInvalidate e false 0) s = .next (engCount (engPut s e { g with
           r := next, waits := false,
           m := { g.m with lbuf := g.m.lbuf.filter (·.1 ≠ l), ic := tdel g.m.ic (4 * setOf l + w) } }) e 1))))

/-- 06 R146, R147, R149: the block-repeat instructions with `BCNT` 0 do nothing, and an iteration within one line of the address it advances
by moves, fills, compares or scans its bytes; a compare or scan stops at the first byte that meets its condition. Between two iterations
the registers show the completed ones and the instruction stands at its own word. 06 R146, R148: whatever lines a fill or a move
crosses, when it completes `BCNT` is 0 and its addresses have advanced by the whole count; nothing else of the registers has changed. -/
def Obligations.BlockRepeat : Prop :=
  (∀ (s t u : State) (e : Eng) (o : BlockOp) (as bs : List Byte), readyNative s e .long = true → o.bits.toNat < 256 → 0 < o.n →
     let r := regGet s e
     let n := r.bcnt.toNat
     let b : Byte := o.bits.setWidth 8
     let z : BlockOp := { o with bits := 0 }
     let same := fun (x : State) => regGet x e = r ∧ ready x e .long = true
     let word := BitVec.ofNat 32
     (r.bcnt = 0 → ∀ i ∈ [Instr.movb e z, .fillb e o, .cmpb e z, .scanb e o], exec i s = .next (committed (slotsClear s) e .long r)) ∧
     (r.bcnt ≠ 0 → n + r.bdst.toNat % 64 ≤ 64 → same t → dataWrite s e r.bdst (List.replicate n b) false = .ok t () →
       exec (.fillb e o) s = .next (committed (slotsClear t) e .long { r with bcnt := 0, bdst := r.bdst + r.bcnt })) ∧
     (64 < n + r.bdst.toNat % 64 → o.n = 1 → same t →
       let m := 64 - r.bdst.toNat % 64
       dataWrite s e r.bdst (List.replicate m b) false = .ok t () →
       ∃ v, exec (.fillb e o) s = .next v ∧ regGet v e = { r with bcnt := r.bcnt - word m, bdst := r.bdst + word m }) ∧
     (r.bcnt ≠ 0 → n + r.bdst.toNat % 64 ≤ 64 → same t → same u → blockReads s e .mov n = .ok t (as, []) →
       dataWrite t e r.bdst as false = .ok u () →
       exec (.movb e z) s =
         .next (committed (slotsClear u) e .long { r with bcnt := 0, bsrc := r.bsrc + r.bcnt, bdst := r.bdst + r.bcnt })) ∧
     (r.bcnt ≠ 0 → n + r.bsrc.toNat % 64 ≤ 64 → same t → dataRead s e r.bsrc n = .ok t as → as.length = n →
       ((∀ x ∈ as, x ≠ b) →
         exec (.scanb e o) s = .next (committed (slotsClear t) e .long { r with bcnt := 0, bsrc := r.bsrc + r.bcnt })) ∧
       (∀ j : Nat, j < n → as[j]? = some b → (∀ i < j, as[i]? ≠ some b) →
         exec (.scanb e o) s = .next (committed (slotsClear t) e .long { r with bcnt := r.bcnt - word j, bsrc := r.bsrc + word j }))) ∧
     (r.bcnt ≠ 0 → n + r.bdst.toNat % 64 ≤ 64 → same t → blockReads s e .cmp n = .ok t (as, bs) → as.length = n → bs.length = n →
       (as = bs → exec (.cmpb e z) s =
         .next (committed (slotsClear t) e .long { r with bcnt := 0, bsrc := r.bsrc + r.bcnt, bdst := r.bdst + r.bcnt })) ∧
       (∀ j : Nat, j < n → as[j]? ≠ bs[j]? → (∀ i < j, as[i]? = bs[i]?) →
         exec (.cmpb e z) s = .next (committed (slotsClear t) e .long
           { r with bcnt := r.bcnt - word j, bsrc := r.bsrc + word j, bdst := r.bdst + word j })))) ∧
  (∀ (s t : State) (e : Eng) (b : Byte),
     let r := regGet s e
     (blockRun e (.fill b) r.bcnt.toNat s = .ok t () → regGet t e = { r with bcnt := 0, bdst := r.bdst + r.bcnt }) ∧
     (blockRun e .mov r.bcnt.toNat s = .ok t () →
       regGet t e = { r with bcnt := 0, bsrc := r.bsrc + r.bcnt, bdst := r.bdst + r.bcnt }))

/-- 06 R138, R142-R145, 03 R80: the multiplies pop b and a and start a product; the divides pop them, reserve their result's cell and start,
with a zero divisor's and an overflow's results and faults as R80 gives them. 06 R138, R142, R145: a product lands in `MHI` and `MLO`; a
divide's result takes its reserved cell and its fault becomes pending. Where the manual leaves a choice or is read by inference, the
clauses follow the model's log 4. -/
def Obligations.LongOperations : Prop :=
  (∀ (s : State) (e : Eng) (a b : Word) (rest : List Cell),
     readyNative s e .long = true → (regGet s e).ds = .val b :: .val a :: rest → rest.length ≤ 30 →
     let g := engGet s e
     let ove := g.r.sp.ctlEff.getLsbD 0
     let dze := g.r.sp.ctlEff.getLsbD 1
     let starts := fun (v : BitVec 64) (checked ovf : Bool) => Host.Outcome.next (engCount (engPut s e { g with
       prods := g.prods ++ [{ val := v, mulv := checked, ovf := ovf, id := g.nextId, pc := g.r.pc, spec := false }],
       nextId := g.nextId + 1, waits := false, r := nextRegs { g.r with ds := rest } .long false none }) e 1)
     let divides := fun (q : Word) (f : Option (BitVec 5)) => Host.Outcome.next (engCount (engPut s e { g with
       div := some { id := g.nextId, result := q, fault := f, pc := g.r.pc, spec := false },
       nextId := g.nextId + 1, waits := false, r := nextRegs { g.r with ds := .rsv g.nextId :: rest } .long false none }) e 1)
     let ab : Int := a.toInt * b.toInt
     exec (.mul e 0) s = starts (BitVec.ofInt 64 ab) false false ∧
     exec (.mulu e 0) s = starts (BitVec.ofNat 64 (a.toNat * b.toNat)) false false ∧
     exec (.mulv e 0) s = starts (BitVec.ofInt 64 ab) true (ove && decide (ab < -(2 ^ 31) ∨ 2 ^ 31 - 1 < ab)) ∧
     (g.div = none → b ≠ 0 →
       exec (.div e 0) s = divides (BitVec.ofInt 32 (a.toInt.tdiv b.toInt))
         (if ove && a == 0x80000000#32 && b == 0xFFFFFFFF#32 then some 8 else none) ∧
       exec (.divu e 0) s = divides (BitVec.ofNat 32 (a.toNat / b.toNat)) none ∧
       exec (.rem e 0) s = divides (BitVec.ofInt 32 (a.toInt.tmod b.toInt)) none ∧
       exec (.remu e 0) s = divides (BitVec.ofNat 32 (a.toNat % b.toNat)) none) ∧
     (g.div = none → b = 0 →
       let f := if dze then some 7 else none
       exec (.div e 0) s = divides 0xFFFFFFFF#32 f ∧ exec (.divu e 0) s = divides 0xFFFFFFFF#32 f ∧
       exec (.rem e 0) s = divides a f ∧ exec (.remu e 0) s = divides a f)) ∧
  (∀ (s : State) (e : Eng) (p : Product) (d : Divide) (l : List Product),
     eclkOn s = true → (engGet s e).wrong = none → (engGet s e).ra = none →
     let g := engGet s e
     (g.prods = p :: l → p.spec = false → p.ovf = false →
       exec (.productLands e) s = .next (engPut s e { g with
         prods := l, r := { g.r with mlo := p.val.setWidth 32, mhi := (p.val >>> 32).setWidth 32 } })) ∧
     (g.div = some d → d.spec = false →
       exec (.divideResultWrite e) s = .next (engPut s e { g with
         div := none, r := { g.r with ds := g.r.ds.map fun c => if c = .rsv d.id then .val d.result else c },
         longq := match d.fault with
           | some n => g.longq ++ [⟨d.id, n, d.pc, g.r.sp.ctlEff.getLsbD 2 || g.fence.isSome⟩]
           | none => g.longq })))

/-- 06 R128, R130-R133, 04 R89, R96: the check set, on an engine whose Weave selects it: CRCs, parity, bit reversal and the check digit. A
word of opcode 0x70-0x74 is one word in both sets, and performs the operation of the set selected; 0x75 raises ILLEGAL with code 7 on an
engine of the field set. 06 R130: a CRC step over several bytes is the steps over its bytes, lowest first, and a byte's step in the
reflected order with the CRC-32C polynomial is eight shifts with the polynomial 0x82F63B78 folded in for each 1 that leaves. 06
R134-R137: the field set, on an engine whose Weave selects it. -/
def Obligations.AuxiliarySets : Prop :=
  (∀ (s : State) (e : Eng) (x c : Word) (o : BitVec 24) (rest : List Cell),
     readyNative s e .long = true → rest.length ≤ 30 →
     let r := regGet s e
     let done := fun v => Host.Outcome.next (committed s e .long { r with ds := .val v :: rest })
     (s.wvl.auxsel.getLsbD e.val = false → r.ds = .val x :: .val c :: rest →
       exec (.crcb e 0) s = done (crcRun r 1 c x) ∧ exec (.crch e 0) s = done (crcRun r 2 c x) ∧
       exec (.crcw e 0) s = done (crcRun r 4 c x) ∧
       (∀ d : Nat, d ≤ 9 → c.toNat ≤ 9 → x.toNat = d ∨ x.toNat = 0x30 + d →
         exec (.ckd e 0) s = done (BitVec.ofNat 32 ((c.toNat + d) % 10)) ∧
         exec (.ckd e 1) s = done (BitVec.ofNat 32 ((c.toNat + (if 4 < d then 2 * d - 9 else 2 * d)) % 10)))) ∧
     (s.wvl.auxsel.getLsbD e.val = false → r.ds = .val x :: rest →
       (∃ v, exec (.par e 0) s = done v ∧ v.toNat = (List.range 32).countP (fun k => x.getLsbD k) % 2) ∧
       (∃ v, exec (.brev e 2) s = done v ∧ ∀ k < 32, v.getLsbD k = x.getLsbD (31 - k)) ∧
       (∃ v, exec (.brev e 0) s = done v ∧ ∀ k < 32, v.getLsbD k = x.getLsbD (k / 8 * 8 + (7 - k % 8)))) ∧
     (exec (.crcb e o) s = exec (.extu e o) s ∧ exec (.crch e o) s = exec (.exts e o) s ∧ exec (.crcw e o) s = exec (.ins e o) s ∧
       exec (.par e o) s = exec (.clz e o) s ∧ exec (.brev e o) s = exec (.bperm e o) s) ∧
     (s.wvl.auxsel.getLsbD e.val = true →
       exec (.ckd e o) s = .next (rejected s e { num := 1, detail := 7, faddr := some r.pc }))) ∧
  (∀ (r : Regs) (c x : Word), r.sp.crcsel = 0 →
     let step := fun (v : Word) => if v.getLsbD 0 then (v >>> 1) ^^^ 0x82F63B78#32 else v >>> 1
     crcRun r 1 c x = step (step (step (step (step (step (step (step (c ^^^ (x &&& 0xFF#32))))))))) ∧
     crcRun r 2 c x = crcRun r 1 (crcRun r 1 c x) (x >>> 8) ∧ crcRun r 4 c x = crcRun r 2 (crcRun r 2 c x) (x >>> 16)) ∧
  (∀ (s : State) (e : Eng) (o : BitVec 24) (width pos f x : Word) (rest : List Cell),
     readyNative s e .long = true → s.wvl.auxsel.getLsbD e.val = true → rest.length ≤ 28 →
     let r := regGet s e
     let done := fun v => Host.Outcome.next (committed s e .long { r with ds := .val v :: rest })
     (r.ds = .val width :: .val pos :: .val x :: rest →
       (pos.toNat + width.toNat ≤ 32 → exec (.extu e 0) s = done (BitVec.ofNat 32 (x.toNat / 2 ^ pos.toNat % 2 ^ width.toNat))) ∧
       (0 < width.toNat → pos.toNat + width.toNat ≤ 32 →
         exec (.exts e 0) s = done ((x <<< (32 - width.toNat - pos.toNat)).sshiftRight (32 - width.toNat)))) ∧
     (r.ds = .val width :: .val pos :: .val f :: .val x :: rest →
       (pos.toNat + width.toNat ≤ 32 → ∃ v, exec (.ins e 0) s = done v ∧
         ∀ k < 32, v.getLsbD k = if pos.toNat ≤ k ∧ k < pos.toNat + width.toNat then f.getLsbD (k - pos.toNat) else x.getLsbD k)) ∧
     (r.ds = .val x :: rest →
       (x = 0 → exec (.clz e 0) s = done 32) ∧
       (∀ k : Nat, k < 32 → x.toNat / 2 ^ (31 - k) = 1 → exec (.clz e 0) s = done (BitVec.ofNat 32 k)) ∧
       (o.toNat < 2 ^ 16 → ∃ v, exec (.bperm e o) s = done v ∧
         ∀ i < 4, let n := o.toNat / 16 ^ i % 16
           v.toNat / 256 ^ i % 256 = (if n < 4 then x.toNat / 256 ^ n % 256
             else if n < 8 then (if x.getLsbD (8 * (n - 4) + 7) then 255 else 0) else 0))))

/-- 07 R156, R159-R164: a vector arithmetic instruction of an engine whose vector unit is enabled joins the queue with the length, start and
width it issued under; all but `VEXT` clear `VSTART`; a reduction and `VEXT` reserve the cell that their result takes. 07 R153, R154:
`SETVL` grants the request up to VLMAX of the element width, pushes the grant, and clears `VSTART`. 04 R96, 07 R172: with the vector
unit disabled in `ENG.CTL` a vector word raises ILLEGAL with code 8. Where the manual leaves a choice or is read by inference, the
clauses follow the model's log 25. -/
def Obligations.VectorIssue : Prop :=
  (∀ (s : State) (e : Eng) (v : VFields) (a : Word) (rest : List Cell),
     readyNative s e .long = true → (regGet s e).sp.ctlEff.getLsbD 3 = true → (engGet s e).vq.length ≤ 7 →
     (regGet s e).ds.length ≤ 31 → v.hi = 0 →
     let g := engGet s e
     let p := g.r.sp
     let apart := v.m = true → v.vd ≠ 0
     let queued := fun (op : VOp) (arg : Word) (ds : List Cell) (start : BitVec 6) =>
       Host.Outcome.next (engCount (engPut s e { g with
         vq := g.vq ++ [{ op := op, m := v.m, vb := v.vb.toFin, va := v.va.toFin, vd := v.vd.toFin, vl := p.vl.toNat,
                          vstart := p.vstart.toNat, sew := p.vtype, arg := arg, id := g.nextId }],
         nextId := g.nextId + 1, waits := false,
         r := nextRegs { g.r with ds := ds, sp := { p with vstart := start } } .long false none }) e 1)
     (apart → ∀ x ∈ [(Instr.vadd e v, VOp.add), (.vsub e v, .sub), (.vmin e v, .min), (.vminu e v, .minu), (.vmax e v, .max),
         (.vmaxu e v, .maxu), (.vand e v, .and_), (.vor e v, .or_), (.vxor e v, .xor_), (.vshl e v, .shl), (.vshr e v, .shr),
         (.vsar e v, .sar), (.vwmul e v, .wmul), (.vwmulu e v, .wmulu), (.vdot8 e v, .dot8), (.vdot8u e v, .dot8u),
         (.vdot16 e v, .dot16), (.vdot16u e v, .dot16u), (.vseq e v, .seq), (.vsne e v, .sne), (.vslt e v, .slt),
         (.vsltu e v, .sltu), (.vsle e v, .sle), (.vsleu e v, .sleu)], exec x.1 s = queued x.2 0 g.r.ds 0) ∧
     (apart → v.vb = 0 → exec (.vmv e v) s = queued .mv 0 g.r.ds 0) ∧
     (v.vb = 0 → v.vd = 0 →
       ∀ x ∈ [(Instr.vrsum e v, VOp.rsum), (.vrmin e v, .rmin), (.vrminu e v, .rminu), (.vrmax e v, .rmax),
         (.vrmaxu e v, .rmaxu), (.vrand e v, .rand), (.vror e v, .ror_)],
         exec x.1 s = queued x.2 0 (.rsv g.nextId :: g.r.ds) 0) ∧
     (apart → v.vb = 0 → v.va = 0 → g.r.ds = .val a :: rest → exec (.vbcast e v) s = queued .bcast a rest 0) ∧
     (v.vb = 0 → v.vd = 0 → v.m = false → g.r.ds = .val a :: rest →
       exec (.vext e v) s = queued .ext a (.rsv g.nextId :: rest) p.vstart)) ∧
  (∀ (s : State) (e : Eng) (a : Word) (rest : List Cell),
     readyNative s e .long = true → (regGet s e).sp.ctlEff.getLsbD 3 = true → (regGet s e).ds = .val a :: rest →
     rest.length ≤ 31 →
     let r := regGet s e
     let most := if r.sp.vtype = 0 then 64 else if r.sp.vtype = 1 then 32 else 16
     let n := if a.toNat < most then a.toNat else most
     exec (.setvl e { m := false, vb := 0, va := 0, vd := 0 }) s = .next (committed s e .long { r with
       ds := .val (BitVec.ofNat 32 n) :: rest, sp := { r.sp with vl := BitVec.ofNat 7 n, vstart := 0 } })) ∧
  (∀ (s : State) (e : Eng) (v : VFields) (n : Nat), readyNative s e .long = true → (regGet s e).sp.ctlEff.getLsbD 3 = false →
     ∀ i ∈ [Instr.vadd e v, .vwmul e v, .vdot8 e v, .vrsum e v, .vmv e v, .vbcast e v, .vext e v, .vseq e v, .vld e ⟨v, n⟩,
         .vst e ⟨v, n⟩, .setvl e v, .vsave e v, .vrestore e v],
       exec i s = .next (rejected s e { num := 1, detail := 8, faddr := some (regGet s e).pc }))

/-- 07 R155, R157, R159, R163: the oldest queued element-wise operation writes each active element of its destination at its width and
leaves every other element and register; the destination is marked dirty when an element was written. 07 R160, R161, R163, R164: what
the oldest queued operation of another kind leaves in its destination, the sources as they were: `VWMUL` and `VWMULU` the products at
twice the width; the dot products each active lane with its products added, those at `VL` and beyond left out; `VBCAST` the cell's low
bits; a compare one bit for each active element. All else in the register stands, as do the other vector registers and the scalar ones.
07 R162, R163: a queued reduction or `VEXT` gives its reserved cell its value, at any element width: over no active element the
identity; else the sum, the smallest, the largest, the AND or the OR of the active elements, extended as the operation says; `VEXT` the
element its index names, zero-extended, 0 past VLMAX. Nothing else changes. Where the manual leaves a choice or is read by inference,
the clauses follow the model's log 25. -/
def Obligations.VectorResults : Prop :=
  (∀ (s : State) (e : Eng) (x : VqEntry) (l : List VqEntry) (f : (w : Nat) → BitVec w → BitVec w → BitVec w),
     eclkOn s = true → (engGet s e).vq = x :: l → x.sew ≠ 3 →
     (x.op, f) ∈ ([(.add, fun _ a b => a + b), (.sub, fun _ a b => a - b), (.and_, fun _ a b => a &&& b),
       (.or_, fun _ a b => a ||| b), (.xor_, fun _ a b => a ^^^ b), (.minu, fun _ a b => if a.toNat < b.toNat then a else b),
       (.min, fun _ a b => if a.toInt < b.toInt then a else b), (.max, fun _ a b => if b.toInt < a.toInt then a else b),
       (.maxu, fun _ a b => if b.toNat < a.toNat then a else b), (.shl, fun _ a b => a <<< b.toNat),
       (.shr, fun _ a b => a >>> b.toNat), (.sar, fun _ a b => a.sshiftRight b.toNat), (.mv, fun _ a _ => a)] :
       List (VOp × ((w : Nat) → BitVec w → BitVec w → BitVec w))) →
     let w := if x.sew = 0 then 8 else if x.sew = 1 then 16 else 32
     let g := engGet s e
     x.vl ≤ 512 / w →
     let act := fun (i : Nat) => x.vstart ≤ i ∧ i < x.vl ∧ (x.m = true → (tget 0 g.v 0).getLsbD i = true)
     ∃ t, exec (.vectorArithComplete e) s = .next t ∧ (engGet t e).vq = l ∧ regGet t e = regGet s e ∧
       (∀ i : Nat, i < 512 / w → (act i → elem w (tget 0 (engGet t e).v x.vd.val) i =
           f w (elem w (tget 0 g.v x.va.val) i) (elem w (tget 0 g.v x.vb.val) i)) ∧
         (¬ act i → elem w (tget 0 (engGet t e).v x.vd.val) i = elem w (tget 0 g.v x.vd.val) i)) ∧
       (∀ k : Nat, k ≠ x.vd.val → tget 0 (engGet t e).v k = tget 0 g.v k) ∧
       ((engGet t e).vdirty.getLsbD x.vd.val = true ↔ g.vdirty.getLsbD x.vd.val = true ∨ ∃ i, act i)) ∧
  (∀ (s : State) (e : Eng) (x : VqEntry) (l : List VqEntry), eclkOn s = true → (engGet s e).vq = x :: l → x.sew ≠ 3 →
     let w := if x.sew = 0 then 8 else if x.sew = 1 then 16 else 32
     let dw := if w = 8 then 16 else 32
     let g := engGet s e
     let va := tget 0 g.v x.va.val
     let vb := tget 0 g.v x.vb.val
     let vd := tget 0 g.v x.vd.val
     x.vl ≤ 512 / w →
     let act := fun (n i : Nat) => x.vstart ≤ i ∧ i < n ∧ (x.m = true → (tget 0 g.v 0).getLsbD i = true)
     let leaves := fun (good : BitVec 512 → Prop) => ∃ t, exec (.vectorArithComplete e) s = .next t ∧ (engGet t e).vq = l ∧
       regGet t e = regGet s e ∧ (∀ k : Nat, k ≠ x.vd.val → tget 0 (engGet t e).v k = tget 0 g.v k) ∧ good (tget 0 (engGet t e).v x.vd.val)
     let widened := fun (f : BitVec w → BitVec w → Int) => leaves fun r => ∀ i : Nat, i < 512 / dw →
       elem dw r i = (if act x.vl i then BitVec.ofInt dw (f (elem w va i) (elem w vb i)) else elem dw vd i)
     let dotted := fun (u : Nat) (f : BitVec u → BitVec u → Int) => leaves fun r => ∀ j : Nat, j < 16 →
       elem 32 r j = (if act ((x.vl + (32 / u - 1)) / (32 / u)) j then elem 32 vd j + BitVec.ofInt 32
         (((List.range (32 / u)).map fun k =>
           let b := 32 / u * j + k
           if b < x.vl then f (elem u va b) (elem u vb b) else 0).sum)
         else elem 32 vd j)
     let compared := fun (f : BitVec w → BitVec w → Bool) => leaves fun r => ∀ i : Nat, i < 512 →
       r.getLsbD i = (if act x.vl i then f (elem w va i) (elem w vb i) else vd.getLsbD i)
     (x.op = .wmul → widened fun a b => a.toInt * b.toInt) ∧ (x.op = .wmulu → widened fun a b => (a.toNat * b.toNat : Nat)) ∧
     (x.op = .dot8 → dotted 8 fun a b => a.toInt * b.toInt) ∧ (x.op = .dot8u → dotted 8 fun a b => (a.toNat * b.toNat : Nat)) ∧
     (x.op = .dot16 → dotted 16 fun a b => a.toInt * b.toInt) ∧ (x.op = .dot16u → dotted 16 fun a b => (a.toNat * b.toNat : Nat)) ∧
     (x.op = .seq → compared fun a b => decide (a = b)) ∧ (x.op = .sne → compared fun a b => decide (a ≠ b)) ∧
     (x.op = .slt → compared fun a b => decide (a.toInt < b.toInt)) ∧ (x.op = .sltu → compared fun a b => decide (a.toNat < b.toNat)) ∧
     (x.op = .sle → compared fun a b => decide (a.toInt ≤ b.toInt)) ∧ (x.op = .sleu → compared fun a b => decide (a.toNat ≤ b.toNat)) ∧
     (x.op = .bcast → leaves fun r => ∀ i : Nat, i < 512 / w →
       elem w r i = (if act x.vl i then x.arg.setWidth w else elem w vd i))) ∧
  (∀ (s : State) (e : Eng) (x : VqEntry) (l : List VqEntry) (rest : List Cell),
     eclkOn s = true → (engGet s e).vq = x :: l → x.sew ≠ 3 → (regGet s e).ds = .rsv x.id :: rest → .rsv x.id ∉ rest →
     (engGet s e).wrong = none → (engGet s e).ra = none →
     let w := if x.sew = 0 then 8 else if x.sew = 1 then 16 else 32
     let g := engGet s e
     let is := (List.range x.vl).filter fun i => decide (x.vstart ≤ i) && (!x.m || (tget 0 g.v 0).getLsbD i)
     let el := fun (i : Nat) => elem w (tget 0 g.v x.va.val) i
     let gives := fun (v : Word) => exec (.vectorArithComplete e) s =
       .next (engPut s e { g with vq := l, r := { g.r with ds := .val v :: rest } })
     (is = [] → (x.op = .rsum → gives 0) ∧ (x.op = .rmin → gives (BitVec.ofNat 32 (2 ^ (w - 1) - 1))) ∧
       (x.op = .rminu → gives (BitVec.ofNat 32 (2 ^ w - 1))) ∧ (x.op = .rmax → gives (BitVec.ofInt 32 (-(2 ^ (w - 1))))) ∧
       (x.op = .rmaxu → gives 0) ∧ (x.op = .rand → gives (BitVec.ofNat 32 (2 ^ w - 1))) ∧ (x.op = .ror_ → gives 0)) ∧
     (x.op = .rsum → gives (BitVec.ofInt 32 ((is.map fun i => (el i).toInt).sum))) ∧
     (is ≠ [] →
       (x.op = .rmin → ∃ k ∈ is, gives ((el k).signExtend 32) ∧ ∀ i ∈ is, (el k).toInt ≤ (el i).toInt) ∧
       (x.op = .rminu → ∃ k ∈ is, gives ((el k).setWidth 32) ∧ ∀ i ∈ is, (el k).toNat ≤ (el i).toNat) ∧
       (x.op = .rmax → ∃ k ∈ is, gives ((el k).signExtend 32) ∧ ∀ i ∈ is, (el i).toInt ≤ (el k).toInt) ∧
       (x.op = .rmaxu → ∃ k ∈ is, gives ((el k).setWidth 32) ∧ ∀ i ∈ is, (el i).toNat ≤ (el k).toNat)) ∧
     (x.op = .rand → ∃ v, gives v ∧ ∀ k : Nat, k < 32 → v.getLsbD k = decide (k < w ∧ ∀ i ∈ is, (el i).getLsbD k = true)) ∧
     (x.op = .ror_ → ∃ v, gives v ∧ ∀ k : Nat, k < 32 → v.getLsbD k = decide (k < w ∧ ∃ i ∈ is, (el i).getLsbD k = true)) ∧
     (x.op = .ext → gives (if x.arg.toNat < 512 / w then (el x.arg.toNat).setWidth 32 else 0)))

/-- 07 R165-R168: a vector load or store with nothing queued runs over its active elements, in ascending order, each at its form's address;
when it completes it has popped its operands and `VSTART` is 0. Where a claim waits and the command stops at the boundary after n
elements with more to come, the instruction stands at its word with `VSTART` at the next active element. 07 R166, R167: what a completed
vector load has done: each of its elements holds the bytes read at its address, every other element, vector register, scalar register
and byte of the scratchpad stands. 07 R166, R167, 08 R192: which bytes a completed vector store by level M, untranslated and outside any
capture, has written: it runs over its elements in order, so that of elements that overlap the last one's bytes stand; each byte of an
element lies at the element's address plus its place, lowest first. They wait in the store buffer, whose youngest entry for a byte is
what it holds; what the buffer holds for every other byte stands, and so do the registers and the scratchpad. Where the manual leaves a
choice or is read by inference, the clauses follow the model's log 25. -/
def Obligations.VectorMemory : Prop :=
  (∀ (s t : State) (e : Eng) (v : VFields) (n : Nat) (a b : Word) (rest : List Cell),
     readyNative s e .long = true → (regGet s e).sp.ctlEff.getLsbD 3 = true → (engGet s e).vq = [] → rest.length ≤ 30 →
     v.hi = 0 →
     let g := engGet s e
     let apart := v.m = true → v.vd ≠ 0
     let w := if g.r.sp.vtype = 0 then 8 else if g.r.sp.vtype = 1 then 16 else 32
     let act := fun (n : Nat) => (List.range n).filter fun i =>
       decide (g.r.sp.vstart.toNat ≤ i) && (!v.m || (tget 0 g.v 0).getLsbD i)
     let vl := g.r.sp.vl.toNat
     let all := act vl
     let some16 := act (if vl < 16 then vl else 16)
     let unit := fun (i : Nat) => a + BitVec.ofNat 32 (i * (w / 8))
     let strided := fun (i : Nat) => b + BitVec.ofNat 32 i * a
     let indexed := fun (i : Nat) => a + elem 32 (tget 0 g.v v.vb.toNat) i
     let src := tget 0 g.v v.vd.toNat
     ready t e .long = true → regGet t e = g.r →
     let most := fun (is : List Nat) => if claimWaits g then n else is.length
     let gives := fun (i : Instr) (is : List Nat) => match is[most is]? with
       | none => exec i s = .next (committed (slotsClear t) e .long { g.r with ds := rest, sp := { g.r.sp with vstart := 0 } })
       | some k => ∃ u, exec i s = .next u ∧ regGet u e = { g.r with sp := { g.r.sp with vstart := BitVec.ofNat 6 k } }
     (g.r.ds = .val a :: rest → v.vb = 0 →
       (apart → vLoad e v.vd.toNat w unit (all.take (most all)) s = .ok t () → gives (.vld e ⟨v, n⟩) all) ∧
       (vStore e w src unit none (all.take (most all)) s = .ok t () → gives (.vst e ⟨v, n⟩) all)) ∧
     (g.r.ds = .val a :: .val b :: rest → v.vb = 0 →
       (apart → vLoad e v.vd.toNat w strided (all.take (most all)) s = .ok t () → gives (.vlds e ⟨v, n⟩) all) ∧
       (vStore e w src strided none (all.take (most all)) s = .ok t () → gives (.vsts e ⟨v, n⟩) all)) ∧
     (g.r.ds = .val a :: rest →
       (apart → vLoad e v.vd.toNat w indexed (some16.take (most some16)) s = .ok t () → gives (.vldx e ⟨v, n⟩) some16) ∧
       (vStore e w src indexed none (some16.take (most some16)) s = .ok t () → gives (.vstx e ⟨v, n⟩) some16))) ∧
  (∀ (s t : State) (e : Eng) (vd w : Nat) (addr : Nat → Word) (is : List Nat),
     w ∈ [8, 16, 32] → (∀ i ∈ is, i < 512 / w) → is.Nodup → vLoad e vd w addr is s = .ok t () →
     (∀ j : Nat, j < 512 / w → j ∉ is → elem w (tget 0 (engGet t e).v vd) j = elem w (tget 0 (engGet s e).v vd) j) ∧
     (∀ k : Nat, k ≠ vd → tget 0 (engGet t e).v k = tget 0 (engGet s e).v k) ∧
     regGet t e = regGet s e ∧ t.spc.mem = s.spc.mem ∧
     (∀ i ∈ is, ∃ u u' bs, dataRead u e (addr i) (w / 8) = .ok u' bs ∧ u.spc.mem = s.spc.mem ∧
       elem w (tget 0 (engGet t e).v vd) i = BitVec.ofNat w (leNat bs))) ∧
  (∀ (s t : State) (e : Eng) (w : Nat) (src : BitVec 512) (addr : Nat → Word) (is : List Nat),
     w ∈ [8, 16, 32] → (engGet s e).io = none → untranslated (regGet s e) = true → (engGet s e).wrong = none → (engGet s e).ra = none →
     (regGet s e).priv = 2 → capturing s = false → vStore e w src addr none is s = .ok t () →
     let held := fun (x : State) (p : PAddr) => ((engGet x e).m.sb.reverse.find? fun y =>
       y.line == lineOf p && y.mask.getLsbD (p.toNat % 64)).map fun y => (fld y.data (8 * (p.toNat % 64)) 8 : Byte)
     let at_ := fun (i j : Nat) => ((addr i + BitVec.ofNat 32 j).setWidth 44 : PAddr)
     (∀ p : PAddr, (∀ i ∈ is, ∀ j < w / 8, at_ i j ≠ p) → held t p = held s p) ∧
     (∀ (pre post : List Nat) (i j : Nat), is = pre ++ i :: post → j < w / 8 → (∀ k ∈ post, ∀ m < w / 8, at_ k m ≠ at_ i j) →
       held t (at_ i j) = some (fld (elem w src i) (8 * j) 8)) ∧
     regGet t e = regGet s e ∧ (engGet t e).v = (engGet s e).v ∧ t.spc.mem = s.spc.mem)

/-- 07 R169, R170: `VSAVE` writes its image, the header (`VL`, `VSTART`, `VTYPE`, `VDIRTY`, zeros) at offset 0 and register k at offset 64 +
64k for each k whose `VDIRTY` bit is 1; `VRESTORE` reads one back. Each pops the address. The last two clauses say where they complete
whatever the image holds: `VSAVE` by level M, untranslated, outside any capture, once its checks have passed and the blocks that are
left find room in the store buffer (one entry for a block, two where the address is not a multiple of 64); `VRESTORE` of an aligned
image whose lines the D-cache holds. Where the manual leaves a choice or is read by inference, the clauses follow the model's log 4 and
25. -/
def Obligations.VectorSaveAndRestore : Prop :=
  ∀ (s t u : State) (e : Eng) (a : Word) (rest : List Cell) (h : BitVec 512) (l : List (Nat × BitVec 512)) (D : Nat → LineData),
    readyNative s e .long = true → (regGet s e).sp.ctlEff.getLsbD 3 = true → (engGet s e).vq = [] →
    (regGet s e).ds = .val a :: rest → rest.length ≤ 31 →
    let v : VFields := { m := false, vb := 0, va := 0, vd := 0 }
    let g := engGet s e
    let p := g.r.sp
    let kept := fun (x : State) => regGet x e = regGet s e ∧ ready x e .long = true
    let image := fun (g : Engine) => (0, toBytes 4 g.r.sp.vl.toNat ++ toBytes 4 g.r.sp.vstart.toNat ++ toBytes 4 g.r.sp.vtype.toNat ++
        toBytes 4 g.vdirty.toNat ++ List.replicate 48 0) ::
      ((List.range 32).filter fun k => g.vdirty.getLsbD k).map fun k => (64 + 64 * k, toBytes 64 (tget 0 g.v k).toNat)
    let pa := fun (o : Nat) => ((a + BitVec.ofNat 32 o).setWidth 44 : PAddr)
    let entries := fun (x : Nat × List Byte) =>
      let k := a.toNat % 64
      let entry := fun (q : PAddr) (o : Nat) (bs : List Byte) (link : Bool) =>
        ({ line := lineOf q, data := toLine o bs, mask := lineMask o bs.length, win := inWindow s q, spec := false, link := link } : SbEntry)
      if k = 0 then [entry (pa x.1) 0 x.2 false]
      else [entry (pa x.1) k (x.2.take (64 - k)) true, entry (pa (x.1 + (64 - k))) 0 (x.2.drop (64 - k)) false]
    let left := (((image g).drop g.vprog).map entries).flatten
    let vmax := fun (z : BitVec 2) => if z = 0 then 64 else if z = 1 then 32 else 16
    let z := if (D 0 >>> 64).setWidth 2 = 3#2 then p.vtype else (D 0 >>> 64).setWidth 2
    (kept t → kept u → g.vprog = 0 → (engGet t e).vprog = 0 → checkImage s e .write a = .ok t () →
      vSaveRun e a (image (engGet t e)) t = .ok u () →
      exec (.vsave e v) s = .next (engCount (engPut u e { engGet u e with
        vprog := 0, waits := false, r := nextRegs { regGet s e with ds := rest } .long false none }) e 1)) ∧
    (kept u → checkImage s e .read a = .ok t () → ∀ t2, vReadRun e a [0] t = .ok t2 [(0, h)] →
      vReadRun e a (((List.range 32).filter (fun k => h.getLsbD (96 + k))).map (64 + 64 * ·)) t2 = .ok u l →
      exec (.vrestore e v) s = .next (engCount (engPut u e { engGet u e with
        vdirty := (h >>> 96).setWidth 32, v := l.foldl (fun x y => tset 0 x ((y.1 - 64) / 64) y.2) (engGet u e).v,
        waits := false, r := nextRegs { regGet s e with ds := rest, sp := vRestoreRegs (regGet s e).sp h } .long false none }) e 1)) ∧
    (untranslated g.r = true → g.r.priv = 2 → capturing s = false → (g.vprog = 0 → checkImage s e .write a = .ok s ()) →
      g.m.sb.length + left.length ≤ 8 →
      exec (.vsave e v) s = .next (engCount (engPut s e { g with
        m := { g.m with sb := g.m.sb ++ left }, vprog := 0, waits := false,
        r := nextRegs { g.r with ds := rest } .long false none }) e 1)) ∧
    (untranslated g.r = true → a.toNat % 64 = 0 →
      (∀ k : Nat, k < 33 → inWindow s (pa (64 * k)) = false ∧ (decodePort s (pa (64 * k))).isSome = true ∧
        (∀ x ∈ sbAll g, x.line ≠ lineOf (pa (64 * k))) ∧
        ∃ w c, wayOf g.m.dc (lineOf (pa (64 * k))) = some w ∧ tfind g.m.dc (4 * setOf (lineOf (pa (64 * k))) + w) = some c ∧
          c.data = D k) →
      ∃ x, exec (.vrestore e v) s = .next x ∧ (engGet x e).vdirty = (D 0 >>> 96).setWidth 32 ∧ x.spc = s.spc ∧
        regGet x e = nextRegs { g.r with ds := rest, sp := { p with
          vtype := z, vl := BitVec.ofNat 7 (min ((D 0).toNat % 128) (vmax z)), vstart := (D 0 >>> 32).setWidth 6 } } .long false none ∧
        ∀ k : Nat, k < 32 → tget 0 (engGet x e).v k = (if (D 0).getLsbD (96 + k) then D (k + 1) else tget 0 g.v k))

/-- 11 R259, 08 R176: a line that lands fills an invalid way of its set, clean; an instruction line also enters the line buffer. 11
R249-R258, 20 R440, R441: a stage-1 walk asks the port of its first descriptor's address for the line, under the engine's master ID, in
a slot that the engine owns, and waits. Once the line is back, a 2 MiB leaf that grants the access makes a TLB entry that maps the
address to the leaf's base with its low 21 bits; an invalid descriptor, an error response and a port out of use become the fault of the
access that waits, and make no entry; a port out of use enters the error like any other (20 R446). 11 R257: a write of `ENG.XINV` with
`GO` at an engine's boundary empties its TLBs for OP 1; with no committed store waiting `GO` has cleared. Where the manual leaves a
choice or is read by inference, the clauses follow the model's log 8 and 23. -/
def Obligations.TranslationAndFills : Prop :=
  (∀ (s : State) (e : Eng) (l : LineAddr) (f : Fill) (d : LineData), eclkOn s = true →
     let g := engGet s e
     f.st = .landed d → g.anchor = none →
     (fillOf g .data l = some f → wayOf g.m.dc l = none → ∀ w : Nat, w < 4 → tfind g.m.dc (4 * setOf l + w) = none →
       (∀ v < w, (tfind g.m.dc (4 * setOf l + v)).isSome = true) →
       ∃ t, exec (.lineFillLands e .data l) s = .next t ∧
         tfind (engGet t e).m.dc (4 * setOf l + w) = some { line := l, data := d, dirty := 0 } ∧
         fillOf (engGet t e) .data l = none ∧ regGet t e = regGet s e ∧ t.mpt = s.mpt) ∧
     (fillOf g .instr l = some f → ∀ w : Nat, w < 4 → tfind g.m.ic (4 * setOf l + w) = none →
       (∀ v < w, (tfind g.m.ic (4 * setOf l + v)).isSome = true) →
       ∃ t, exec (.lineFillLands e .instr l) s = .next t ∧
         tfind (engGet t e).m.ic (4 * setOf l + w) = some { line := l, data := d, dirty := 0 } ∧
         (engGet t e).m.lbuf.head? = some (l, d) ∧ fillOf (engGet t e) .instr l = none ∧ regGet t e = regGet s e)) ∧
  (∀ (s : State) (e : Eng) (va : Word) (priv : BitVec 2) (L : LineData) (n k : Nat) (x : PortRead),
     let g := engGet s e
     let table : PAddr := fld g.r.sp.xlt1Eff 2 30 ++ (fld va 21 11 ++ (0 : BitVec 3))
     let d : BitVec 64 := BitVec.ofNat 64 (L.toNat / 2 ^ (8 * (table.toNat % 64)))
     let done := fun (t : State) (detail : BitVec 8) => Host.Outcome.next
       (readsEnd (engPut t e { g with walk := none, wfault := some (.read, va, detail, none) }) (.walk e))
     eclkOn s = true → g.walk = some (.read, va, priv) → g.r.sp.xctlEff = 1 → priv ≠ 0 → inWindow s table = false →
     (decodePort s table = some n → (∀ y ∈ s.reads, y.who ≠ .walk e) →
       ((mptGet s n).en = true → slotFor s (portTable n) e.val false = some true → freeId (mptGet s n) = some k →
         (mptGet s n).reqq.length ≤ 15 →
         ∃ t q, exec (.translationWalk e .read va .good) s = .next t ∧ (mptGet t n).reqq = (mptGet s n).reqq ++ [q] ∧
           q.line = lineOf table ∧ q.write = false ∧ q.mst = BitVec.ofNat 7 e.val ∧ q.id = BitVec.ofNat 8 k ∧
           readOf t (.walk e) 0 = some { who := .walk e, k := 0, ans := none } ∧ engGet t e = g) ∧
       ((mptGet s n).en = false → exec (.translationWalk e .read va .good) s =
         done (readNote (portError s n (lineOf table) 2) (.walk e) 0 (some none)) 12)) ∧
     (readOf s (.walk e) 0 = some x → x.ans = some (some L) →
       (fld d 0 2 = 1 → d.getLsbD 2 = true → fld d 7 5 = 0 → fld d 44 12 = 0 → fld d 12 9 = 0 →
         ∃ t y, exec (.translationWalk e .read va .good) s = .next t ∧ (engGet t e).walk = none ∧
           (engGet t e).wfault = g.wfault ∧ (engGet t e).m.dtlb.head? = some y ∧ y.hits (instTag s e) va = true ∧
           y.out va = BitVec.ofNat 44 (d.toNat / 2 ^ 21 % 2 ^ 23 * 2 ^ 21 + va.toNat % 2 ^ 21) ∧ regGet t e = regGet s e) ∧
       (fld d 0 2 = 0 → exec (.translationWalk e .read va .good) s = done s 9)) ∧
     (readOf s (.walk e) 0 = some x → x.ans = some none → exec (.translationWalk e .read va .good) s = done s 12)) ∧
  (∀ (s : State) (e : Eng) (inst : BitVec 6), eclkOn s = true → engExists s e.val = true →
     let g := engGet s e
     g.xgo = false → boundaryNow s g = true → g.wrong = none → g.ra = none → g.m.sb = [] →
     ∃ t, exec (.engXinvGo e 1 inst) s = .next t ∧ (engGet t e).m.itlb = [] ∧ (engGet t e).m.dtlb = [] ∧
       (∀ k, tget [] (engGet t e).m.tlb2 k = []) ∧ (engGet t e).xgo = false ∧ (engGet t e).xop = 1 ∧ regGet t e = regGet s e)

/-- 09 R206, R209, 04 R96: faults that no instruction raises. At a boundary the oldest MACHINE_CHECK is taken before an event; a word in a
reserved encoding raises ILLEGAL with its reason code at its own address, and the PC does not pass it; an entry that needs the full
spill buffer is held (09 R216). 09 R208: a store's error response becomes a pending LATE_BUS_ERROR, a second one merges with it, or with
the one taken last while software has not written `FCAUSE`, and an error of a frame's write is a MACHINE_CHECK with detail 3. 09 R222,
12 R278: the last-resort entry writes its record to the engine's area of the scratchpad, each word in a slot that serves the engine, and
enters at `LRVEC`, at M with `MASK` 15 and LR set; while words wait for slots it has not happened, and those served stay served. No
other master has written a word of the record in the cycle. 10 R234-R236, 09 R205, R211, R212: an event presented above `MASK` enters
gate 512 + its source at the boundary: the handler's address, the greater privilege and mask, the interrupted context in the other bank,
and the claim reported CONSUMED with the new mask. Where the manual leaves a choice or is read by inference, the clauses follow the
model's log 22. -/
def Obligations.PendingFaultsAndEvents : Prop :=
  (∀ (s : State) (e : Eng) (d : BitVec 8) (l : List (BitVec 8)) (w : Word) (c : BitVec 8),
     let g := engGet s e
     g.wrong = none → g.ra = none → g.lr = false →
     (boundaryNow s g = true → g.mcheck = d :: l → g.other = none →
       exec (.faultEntry e .boundary) s =
         .next (takeFault (engPut s e (discard { g with mcheck := l })) e { num := 15, detail := d } g.r.pc g.r.syll)) ∧
     (canRun s g = true → atBoundary g.r = true → wordHeld s e = true → wordCode w (sb1Mode s e) (s.wvl.auxsel.getLsbD e.val) (g.r.sp.ctlEff.getLsbD 3) = some c →
       let i : FaultInfo := { num := 1, detail := c, faddr := some g.r.pc }
       exec (.faultEntry e (.illegal w)) s = .next (if faultHeld g i then s else takeFault s e i g.r.pc false))) ∧
  (∀ (s : State) (e : Eng) (l : LineAddr) (rest : List (LineAddr × Bool)), eclkOn s = true →
     let g := engGet s e
     (g.berrs = (l, false) :: rest → g.lbeOpen = false →
       exec (.lateBusError e) s = .next (engPut s e { g with berrs := rest, lbe := some (l, false), lbeOpen := true })) ∧
     (∀ l0 m, g.berrs = (l, false) :: rest → g.lbeOpen = true → g.lbe = some (l0, m) →
       exec (.lateBusError e) s = .next (engPut s e { g with berrs := rest, lbe := some (l0, true) })) ∧
     (g.berrs = (l, false) :: rest → g.lbeOpen = true → g.lbe = none →
       ∃ t, exec (.lateBusError e) s = .next t ∧ (engGet t e).berrs = rest ∧ (engGet t e).lbe = none ∧
         regGet t e = { g.r with sp := { g.r.sp with fcause := g.r.sp.fcause ||| 0x400000#32 } }) ∧
     (g.berrs = (l, true) :: rest →
       ∃ t, exec (.lateBusError e) s = .next t ∧ (engGet t e).mcheck = g.mcheck ++ [3] ∧ (engGet t e).berrs = rest)) ∧
  (∀ (s : State) (e : Eng) (q : LrReq), eclkOn s = true →
     let g := engGet s e
     let ws := wordsOf (s.wvl.lrbase.toNat + e.val * 4096) 384
     g.lrPend = some q → g.m.sb = [] → g.spill = none →
     (∀ x, wordsServe s e.val ws = (x, false) → exec (.lastResortEntry e) s = .next (slotsBack s x)) ∧
     ((wordsServe s e.val ws).2 = true → g.prods = [] → g.refill = none → s.spc.bad = [] →
      (∀ y ∈ s.cyc.wrote, y.word ∈ ws → y.mst = e.val) →
      ∃ t, exec (.lastResortEntry e) s = .next t ∧ (engGet t e).lr = true ∧ (engGet t e).lrPend = none ∧
       (regGet t e).pc = g.r.sp.lrvec ∧ (regGet t e).priv = 2 ∧ (regGet t e).mask = 15 ∧
       (regGet t e).sp.fcause = q.fcause ∧ (regGet t e).sp.faddr = q.faddr ∧ (engGet t e).other = g.other ∧
       (∃ c, (engGet t e).lrCtx = some c ∧ c.pc = q.resume ∧ c.syll = q.syll) ∧
       (let a := s.wvl.lrbase.toNat + e.val * 4096
        mread spadDefault t.spc.mem a 16 = bytesOfWords [q.fcause, q.faddr, q.longpc, q.lbeaddr] ∧
        mread spadDefault t.spc.mem (a + 28) 4 = bytesOfWords [q.resume] ∧
        ∀ x : Nat, x < a ∨ a + 384 ≤ x → tget spadDefault t.spc.mem x = tget spadDefault s.spc.mem x))) ∧
  (∀ (s : State) (e : Eng) (h : Held) (d : Gate),
     let g := engGet s e
     claimNow s g = true → g.held = some h → g.wrong = none → g.ra = none → g.lr = false → g.other = none → g.refill = none →
     g.prods = [] → tfind g.gates (512 + h.src.toNat) = some d →
     ∃ t, exec (.eventEntry e []) s = .next t ∧ (regGet t e).pc = d.handler ∧ (regGet t e).syll = false ∧
       (regGet t e).priv = (if g.r.priv.toNat < d.priv.toNat then d.priv else g.r.priv) ∧
       (regGet t e).mask = (if g.r.mask.toNat < d.masklvl.toNat then d.masklvl else g.r.mask) ∧
       (regGet t e).lnk = 0 ∧ (∀ k, tget 0 (regGet t e).l k = 0) ∧ (regGet t e).ds = g.r.ds ∧ (regGet t e).rs = g.r.rs ∧
       (regGet t e).dsp = g.r.dsp ∧ (engGet t e).held = none ∧
       (engGet t e).repq = g.repq ++ [.consumed h.src (regGet t e).mask] ∧ (engGet t e).bank = !g.bank ∧
       (∃ c, (engGet t e).other = some c ∧ c.pc = g.r.pc ∧ c.syll = g.r.syll ∧ c.priv = g.r.priv ∧ c.mask = g.r.mask ∧
         c.lnk = g.r.lnk ∧ c.l = g.r.l ∧ c.mv = d.savemul) ∧ t.spc = s.spc)

/-- 04 R84-R91, R94, R96, R97: what the issue of a word is. A reserved encoding raises ILLEGAL and nothing of the word performs; any other
word is one long operation (bit F 0) or two syllables (bit F 1), and `AUXSEL` chooses what the auxiliary page's opcodes are. Reason
codes are the lowest that apply: a long word in SB1 mode has code 1, and two syllables with bit 15 set or a transfer first are never
legal. A few words spelled out from the encoding tables: `LIT` 0x000100, `DUP` then `ADD`, `ADDI` -1 then `RET`, `GETC` STATUS, `VADD`
V3 := V1 + V2, `DCM` by set and way. -/
def Obligations.InstructionWords : Prop :=
  ∀ (e : Eng) (sb1 aux ven : Bool) (n : Nat) (w : Word),
    let cmds := decodeWord e sb1 aux ven n
    (∀ c, wordCode w sb1 aux ven = some c → cmds w = [.faultEntry e (.illegal w)]) ∧
    (wordCode w sb1 aux ven = none → (cmds w).length = if w.getLsbD 31 then 2 else 1) ∧
    (w.getLsbD 31 = false → wordCode w true aux ven = some 1) ∧
    (w.getLsbD 31 = true → w.getLsbD 15 = true ∨ shortXfer (fld w 24 7).toNat = true →
      ∃ c : BitVec 8, wordCode w sb1 aux ven = some c ∧ 3 ≤ c.toNat ∧ c.toNat ≤ 6) ∧
    (decodeWord e false aux ven n 0x00000100 = [.lit e (.long 0x100)] ∧
      decodeWord e false aux ven n 0x81001000 = [.dup e (.first 0 0x1000), .add e (.second 0)] ∧
      decodeWord e false aux ven n 0x9EFF6000 = [.addi e (.first 0xFF 0x6000), .ret e (.second 0)] ∧
      decodeWord e false aux ven n 0x41000000 = [.getc e 0] ∧
      decodeWord e false aux true n 0x60000823 = [.vadd e { hi := 0, m := false, vb := 2, va := 1, vd := 3 }] ∧
      decodeWord e false aux ven n 0x49000004 = [.dcmClean e true 0]) ∧
    (decodeWord e false false ven n 0x70000000 = [.crcb e 0] ∧ decodeWord e false true ven n 0x70000000 = [.extu e 0] ∧
      decodeWord e false false ven n 0x75000001 = [.ckd e 1] ∧
      decodeWord e false true ven n 0x75000001 = [.faultEntry e (.illegal 0x75000001)] ∧ wordCode 0x75000001 false true ven = some 7)

/-- 09 R216, R218, R219, 08 R192: the spill buffer's frame reaches its state stack, in the scratchpad window one 8-byte word at a time, each
in a slot that serves the engine, and leaves with its last word; a refill reads a well-formed frame back, each line's words in their
slots (`t` and `u` are the states that have taken them), as the context of the other bank. No other master has written in the cycle what
is read or written here, and the words read show no error. Where the manual leaves a choice or is read by inference, the clauses follow
the model's log 22. -/
def Obligations.FramesSpillAndRefill : Prop :=
  ∀ (s t u : State) (e : Eng) (c : Ctx) (pa : PAddr) (k : BitVec 2) (n : Nat), eclkOn s = true → s.spc.bad = [] →
    (∀ y ∈ s.cyc.wrote, y.mst = e.val) →
    let g := engGet s e
    let o := winOff s pa
    inWindow s pa = true → pa.toNat % 128 = 0 → s.wvl.spwin.toNat % 0x1000000 = 0 →
    (n < 16 → g.spill = some ⟨c, pa, 0, n⟩ → (wordServe s e.val ((o + 8 * n) / 8)).isSome = true →
      ∃ t, exec (.spillBufferDrain e) s = .next t ∧ (engGet t e).spill = (if n < 15 then some ⟨c, pa, 0, n + 1⟩ else none) ∧
        mread spadDefault t.spc.mem (o + 8 * n) 8 = ((frameBytes c).drop (8 * n)).take 8 ∧
        ∀ a : Nat, a < o + 8 * n ∨ o + 8 * n + 8 ≤ a → tget spadDefault t.spc.mem a = tget spadDefault s.spc.mem a) ∧
    (g.refill = some k → g.spill = none → g.st = .running → g.m.sb = [] → tget 0 g.ssp k.toNat = pa →
      s.spc.soft = [] → s.spc.paths = [] → s.cyc.ecc = [] →
      wordsServe s e.val (wordsOf o 64) = (t, true) → wordsServe t e.val (wordsOf (o + 64) 64) = (u, true) →
      frameCtx (wordsOfBytes (mread spadDefault s.spc.mem o 128)) (engineBits s e) = some c →
      exec (.stateStackRefill e) s = .next (engPut u e { g with refill := none, other := some c }))

/-- 09 R218, R219: a context's frame of 32 words reads back as that context; the bits of `STATUS` that describe the engine take the engine's
values, and what its `TRAP` declared (log 22) stays on chip. -/
def Obligations.FrameReadsBack : Prop :=
  ∀ (c : Ctx), c.priv ≠ 3 → c.dsp.toNat % 32 = 0 → c.rsp.toNat % 16 = 0 → c.prevsel.toNat < 4 ∨ c.prevsel = 7 →
    c.ccnt ≤ 32 → c.rcnt ≤ 16 → c.hw &&& ~~~ 0xF04#32 = 0 →
    wordsOfBytes (frameBytes c) = frameWords c ∧
    ∀ hw : Word, ∃ b, frameCtx (frameWords c) hw = some b ∧ { b with l := c.l, hw := c.hw, net := c.net } = c ∧ b.hw = hw ∧
      ∀ k < 16, tget 0 b.l k = tget 0 c.l k

/-- 10 R228, R229, R241: a qualifying edge of an external occurrence source, an internal producer's happening and a software raise are each
one occurrence: with EN at 1 and no batching COUNT goes up by one, with EN at 0 nothing does. 10 R229: a batch becomes one release when
its occurrences reach CCOUNT, or, at a check while the source is enabled, when its time has come; until then ACC counts. An occurrence
after its batch's release in the same cycle belongs to that batch, unless CCOUNT is 1. 10 R228: a producer's happening adds one to its
source's carry count, and sets OVF when that is full; no other source changes, and nothing else but what the cycle notes of the OVF bit
(00 R6). -/
def Obligations.EventOccurrences : Prop :=
  (∀ (s : State) (wire : BitVec 8) (rising : Bool) (id : BitVec 9), fclkOn s = true →
     let n := wire.toNat + 1
     let x := srcGet s n
     let up := fun (u : State) (k : Nat) => pmuAdd (srcPut u k { srcGet u k with count := (srcGet u k).count + 1 }) 584 1
     let u := { s with evg := { s.evg with input := setBit s.evg.input wire.toNat rising } }
     (s.evg.input.getLsbD wire.toNat ≠ rising → s.evg.latched = false →
       x.sense = 4 ∨ (x.sense = 2 ∧ rising = true) ∨ (x.sense = 3 ∧ rising = false) →
       (x.en = true → x.ccount = 0 → x.count ≠ 0xFFFF#16 → exec (.evInEdge wire rising) s = .next (up u n)) ∧
       (x.en = false → exec (.evInEdge wire rising) s = .next u)) ∧
     (257 ≤ id.toNat → id.toNat ≤ 384 → id.toNat ≠ 361 → (srcGet s id.toNat).carry ≠ 0 → (srcGet s id.toNat).en = true →
       (srcGet s id.toNat).ccount = 0 → (srcGet s id.toNat).count ≠ 0xFFFF#16 →
       exec (.internalOccurrence id) s =
         .next (up (srcPut s id.toNat { srcGet s id.toNat with carry := (srcGet s id.toNat).carry - 1 }) id.toNat)) ∧
     (257 ≤ id.toNat → id.toNat ≤ 384 → (srcGet s id.toNat).en = true → (srcGet s id.toNat).ccount = 0 →
       (srcGet s id.toNat).count ≠ 0xFFFF#16 → exec (.evgSwraise (id.setWidth 32)) s = .next (up s id.toNat))) ∧
  (∀ (s : State) (id : BitVec 9), fclkOn s = true → 257 ≤ id.toNat → id.toNat ≤ 384 →
     let n := id.toNat
     let x := srcGet s n
     let u := srcPut s n { x with count := x.count + 1, acc := 0, timer := 0 }
     let released := pmuAdd { u with cyc := { u.cyc with batches := n :: u.cyc.batches } } 584 1
     x.count ≠ 0xFFFF#16 →
     (x.en = true → x.ccount ≠ 0 → x.ccount.toNat = x.acc.toNat + 1 → (x.ccount = 1 ∨ n ∉ s.cyc.batches) →
       exec (.evgSwraise (id.setWidth 32)) s = .next released) ∧
     (x.en = true → x.ccount ≠ 0 → x.ccount ≠ 1 → n ∈ s.cyc.batches → exec (.evgSwraise (id.setWidth 32)) s = .next s) ∧
     (x.en = true → x.acc ≠ 0 → x.acc.toNat + 1 < x.ccount.toNat → n ∉ s.cyc.batches →
       exec (.evgSwraise (id.setWidth 32)) s = .next (srcPut s n { x with acc := x.acc + 1 })) ∧
     (x.en = true → x.acc ≠ 0 → x.ctime ≠ 0 → x.ctime.toNat ≤ x.timer.toNat → exec (.batchTimerExpiry id) s = .next released)) ∧
  (∀ (s : State) (n m : Nat),
     let x := srcGet s n
     (x.carry ≠ 0xFFFF#16 → srcGet (raiseSrc s n) n = { x with carry := x.carry + 1 }) ∧
     (x.carry = 0xFFFF#16 → srcGet (raiseSrc s n) n = { x with ovf := true }) ∧
     (m ≠ n → srcGet (raiseSrc s n) m = srcGet s m) ∧ raiseSrc s n = { s with evg := (raiseSrc s n).evg, cyc := (raiseSrc s n).cyc })

/-- 10 R230, R245: a level source in service leaves it when it deasserts or by EOI; CLR clears its counts; the start-up latches hold an
edge. 10 R229, R245, 21 R462: the manager's writes of a source's configuration: CFG and TARGET take their fields, CCOUNT and CTIME as
the cycle ends; a reserved SENSE and a target engine that does not exist leave their field and set CFGERR. 10 R244: the event output
register is written, set and cleared by bits. Of one FCLK cycle's writes, in whatever order they come, a write of the register itself
comes first, and a set prevails over a clear. Nothing else changes but what the cycle notes of them. Where the manual leaves a choice or
is read by inference, the clauses follow the model's log 9, 27 and 29. -/
def Obligations.EventConfiguration : Prop :=
  (∀ (s : State) (wire : BitVec 8), fclkOn s = true →
     let n := wire.toNat + 1
     let x := srcGet s n
     let id := BitVec.ofNat 9 n
     let u := fun (level : Bool) => { s with evg := { s.evg with input := setBit s.evg.input wire.toNat level } }
     (x.sense = 0 → exec (.evInLevelChange wire false) s =
       .next (if x.insvc then srcPut (u false) n { x with insvc := false } else u false)) ∧
     (x.sense = 0 → exec (.evInLevelChange wire true) s = .next (u true)) ∧
     (x.sense = 0 → exec (.evgPendEoi id) s = .next (srcPut s n { x with insvc := false })) ∧
     ((∀ e : Eng, (evgEng s e.val).pres = none) →
       exec (.evgPendClr id) s = .next (srcPut s n { x with count := 0, acc := 0, timer := 0 })) ∧
     (s.evg.latched = true →
       exec (.startUpLatchEdge wire true) s =
         .next { s with evg := { s.evg with latRise := setBit s.evg.latRise wire.toNat true } } ∧
       exec (.startUpLatchEdge wire false) s =
         .next { s with evg := { s.evg with latFall := setBit s.evg.latFall wire.toNat true } })) ∧
  (∀ (s : State) (id : BitVec 9) (v : Word), fclkOn s = true → 257 ≤ id.toNat → id.toNat ≤ 384 →
     (∀ e : Eng, (evgEng s e.val).pres = none) →
     let n := id.toNat
     let x := srcGet s n
     let err := fun (u : State) => fresh { u with evg := { u.evg with cfgerr := true } } 0x4000 0
     let count := fun (u : State) => { u with cyc := { u.cyc with ccounts := tput u.cyc.ccounts n (fld v 8 8) } }
     let time := { s with cyc := { s.cyc with ctimes := tput s.cyc.ctimes n (fld v 0 16) } }
     (v.getLsbD 0 = false → v.getLsbD 1 = false → v.getLsbD 2 = false →
       exec (.evgSourceConfigWrite .host id 0 v) s = .next (count (srcPut s n { x with
         sense := 0, en := v.getLsbD 3, prio := fld v 4 4, inst := fld v 16 6 }))) ∧
     (v.getLsbD 0 = true →
       exec (.evgSourceConfigWrite .host id 0 v) s = .next (err (count (srcPut s n { x with
         en := v.getLsbD 3, prio := fld v 4 4, inst := fld v 16 6 })))) ∧
     exec (.evgSourceConfigWrite .host id 1 v) s = .next time ∧
     ((srcGet (endCoalesce (count s)) n).ccount = fld v 8 8 ∧ (srcGet (endCoalesce time) n).ctime = fld v 0 16) ∧
     (v &&& ~~~(s.wvl.enable.setWidth 32) = 0 →
       exec (.evgSourceConfigWrite .host id 2 v) s =
         .next (srcPut s n { x with target := (x.target.extractLsb' 32 32 ++ v : BitVec 64) })) ∧
     (v &&& ~~~(s.wvl.enable.setWidth 32) ≠ 0 → exec (.evgSourceConfigWrite .host id 2 v) s = .next (err s))) ∧
  (∀ (s : State) (v a b : Word), fclkOn s = true → s.cyc.evBase = none → s.cyc.evSet = 0 → s.cyc.evClr = 0 →
     let old := s.evg.evout
     let gives := fun (l : List Instr) (x : Word) => ∃ c, runAll l s = .next { s with evg := { s.evg with evout := x }, cyc := c }
     gives [.evgEvoutWrite v] v ∧ gives [.evgEvoutset a] (old ||| a) ∧ gives [.evgEvoutclr b] (old &&& ~~~b) ∧
     (∀ l ∈ [[Instr.evgEvoutset a, .evgEvoutclr b], [.evgEvoutclr b, .evgEvoutset a]], gives l ((old &&& ~~~b) ||| a)) ∧
     (∀ l ∈ [[Instr.evgEvoutWrite v, .evgEvoutset a, .evgEvoutclr b], [.evgEvoutset a, .evgEvoutWrite v, .evgEvoutclr b],
         [.evgEvoutclr b, .evgEvoutset a, .evgEvoutWrite v]], gives l ((v &&& ~~~b) ||| a)))

/-- 10 R231, R232, 05 R121: the highest eligible release is presented to the engine it is offered to, reserves the release and wakes a
`WAITE` it is above; a presentation that may no longer stay is withdrawn and reported RELEASED. 10 R232, R233: the Gatherer settles an
engine's reports in order: a CONSUMED one takes its release from COUNT, counts a claim and renews the mask shadow; a RELEASED one
returns the reservation; a mask moves the shadow. Where the manual leaves a choice or is read by inference, the clauses follow the
model's log 9. -/
def Obligations.EventPresentation : Prop :=
  (∀ (s : State) (e : Eng) (n : Nat) (q : BitVec 4), fclkOn s = true → n < 512 →
     let id := BitVec.ofNat 9 n
     let x := evgEng s e.val
     let g := engGet s e
     (best s e = some (n, q) → x.pres = none → g.held = none → offered s n = some e →
       ∃ t, exec (.presentation e) s = .next t ∧ (evgEng t e.val).pres = some (id, q) ∧
         (evgEng t e.val).resv = x.resv ++ [id] ∧ (engGet t e).held = some ⟨id, q⟩ ∧ (srcGet t n).last = e.val ∧
         (engGet t e).st = (if g.st = .sleeping ∧ g.r.mask.toNat < q.toNat then .running else g.st) ∧ regGet t e = g.r) ∧
     (x.pres = some (id, q) → g.held = some ⟨id, q⟩ → staysPresented s e = false →
       ∃ t, exec (.withdrawal e) s = .next t ∧ (evgEng t e.val).pres = none ∧ (engGet t e).held = none ∧
         (engGet t e).repq = g.repq ++ [.released id] ∧ (evgEng t e.val).resv = x.resv)) ∧
  (∀ (s : State) (e : Eng) (id : BitVec 9) (m : BitVec 4) (l : List Report), fclkOn s = true →
     let x := evgEng s e.val
     let y := srcGet s id.toNat
     let g := engGet s e
     let popped := engPut s e { g with repq := l }
     x.pres = none →
     (g.repq = .consumed id m :: l → 257 ≤ id.toNat → y.count ≠ 0 →
       exec (.claimReport e) s = .next (pmuAdd (srcPut (evgEngPut popped e.val
         { x with resv := x.resv.erase id, claims := x.claims + 1, shadow := m }) id.toNat { y with count := y.count - 1 }) 585 1)) ∧
     (g.repq = .released id :: l →
       exec (.claimReport e) s = .next (pmuAdd (evgEngPut popped e.val { x with resv := x.resv.erase id }) 586 1)) ∧
     (g.repq = .mask m :: l → exec (.maskShadowUpdate e) s = .next (evgEngPut popped e.val { x with shadow := m })))

/-- 10 R242: interval timers and watchdogs. An expiry reloads its count and raises the engine's source, except that a watchdog's first
expiry makes WATCHDOG pending on a running engine; a kick and the period registers restart them, and are noted, so that as the cycle
ends they stand after what the hardware has counted in it (21 R466). 10 R243, R246: a read of the global time's low half captures its
high half; a comparator that the time has reached raises its source once; a mailbox write raises the mailbox's source. -/
def Obligations.TimersAndMailboxes : Prop :=
  (∀ (s : State) (e : Eng) (v : Word), fclkOn s = true →
     let t := tmrGet s e.val
     let g := engGet s e
     (t.period ≠ 0 → t.count = 0 →
       exec (.intervalTimerExpiry e) s =
         .next (raiseSrc (fresh (tmrPut s e.val { t with count := t.period, texp := true }) (tmrStat e.val) 0) (257 + e.val))) ∧
     (t.wdperiod ≠ 0 → t.wdcount = 0 → t.wdsecond = false → g.st = .running →
       exec (.watchdogFirstExpiry e) s =
         .next (engPut (fresh (tmrPut s e.val { t with wdcount := t.wdperiod, wd1 := true, wdsecond := true }) (tmrStat e.val) 1) e
           { g with wdog := true })) ∧
     (t.wdperiod ≠ 0 → t.wdcount = 0 → t.wdsecond = true →
       exec (.watchdogSecondExpiry e) s =
         .next (raiseSrc (fresh (tmrPut s e.val { t with wdcount := t.wdperiod, wd2 := true }) (tmrStat e.val) 2) (257 + e.val))) ∧
     exec (.tmrPeriodWrite e v) s = .next (noteSet (tmrPut s e.val { t with period := v, count := v }) (tmrAddr e 0) 0 v) ∧
     exec (.tmrWdkick e) s =
       .next (noteSet (tmrPut s e.val { t with wdcount := t.wdperiod, wdsecond := false }) (tmrAddr e 3) 0 0) ∧
     exec (.tmrWdperiodWrite e v) s =
       .next (noteSet (tmrPut s e.val { t with wdperiod := v, wdcount := v, wdsecond := false }) (tmrAddr e 2) 0 v)) ∧
  (∀ (s : State) (k : Fin 4) (v : Word), fclkOn s = true →
     exec .tmrGtimeloRead s = .next { s with
       tmr := { s.tmr with gtimehi := (s.tmr.gtime >>> 32).setWidth 32 }, lastRead := s.tmr.gtime.setWidth 32 } ∧
     (s.tmr.due.getLsbD k.val = true → exec (.comparatorMatch k) s =
       .next (raiseSrc { s with tmr := { s.tmr with due := s.tmr.due &&& ~~~(1#4 <<< k.val) } } (377 + k.val))) ∧
     exec (.tmrMboxWrite k v) s =
       .next (raiseSrc { s with tmr := { s.tmr with mbox := tset 0 s.tmr.mbox k.val v } } (381 + k.val)))

/-- 02 R34, R36, R37, R38, R53: step 4 with the safe strap applies the minimal Weave; with SRC naming a word source the loader waits for
words; with SRC naming an NVM slot and both slots blank, each fails on its header and the minimal Weave is applied. An image that
verified puts its Weave in force: tables at their start, engines awaiting release, which is step 7 (19 R420). The start-up latches stay
armed under the minimal Weave (the model's reading, log 29) and end with an image. 02 R34, R36, R37, R53: `WVL.CTL.LOAD` starts a load
in MINIMAL or WAIT and is refused elsewhere; `WVL.DATA` gives the loader one word; a gap longer than `WVL.TIMEOUT` ends the attempt in
WAIT with error 11. Where the manual leaves a choice or is read by inference, the clauses follow the model's log 24, 28 and 29. -/
def Obligations.WeaveLoader : Prop :=
  (∀ (s : State) (i : Verified) (src : BitVec 2),
     let s4 := { s with cpx := { s.cpx with step := 4 } }
     let u := applyImage s i src
     (clkOn s .mgclk = true → fclkOn s = true → s.wvl.state = 0 → s.cpx.step = 3 → s.cpx.testhold = false → s.cpx.bistfail = false →
       (s.cpx.straps.safe = true →
         ∃ t, exec .weaveLoad s = .next t ∧ t.wvl.state = 5 ∧ t.wvl.full = false ∧ t.wvl.enable = 0 ∧ t.wvl.slot = 0 ∧
           t.wvl.frame = 0 ∧ t.cpx.step = 6 ∧ t.cpx.commitq = [] ∧ t.evg.latched = true ∧ t.spc.mem = s.spc.mem) ∧
       (s.cpx.straps.safe = false → s.wvl.src.getLsbD 1 = true →
         exec .weaveLoad s = .next { s4 with wvl := { s.wvl with
           state := 1, srcused := s.wvl.src, unpinned := false, retried := false, words := [], wordAt := s.tmr.gtime } }) ∧
       (s.cpx.straps.safe = false → s.wvl.src.getLsbD 1 = false → s.nvc.nvm = [] → s.nvc.bad = [] →
         ∃ t, exec .weaveLoad s = .next t ∧ t.wvl.state = 5 ∧ t.wvl.full = false ∧ t.wvl.err = 1 ∧ t.wvl.section_ = 0 ∧
           t.wvl.erraddr = 0 ∧ t.wvl.retried = true ∧ t.wvl.srcused = s.wvl.src ^^^ 1 ∧ t.cpx.step = 6)) ∧
     (u.wvl.state = 3 ∧ u.wvl.full = true ∧ u.wvl.enable = i.r.enable i.secs ∧ u.wvl.slot = 0 ∧ u.wvl.frame = 0 ∧ u.cpx.step = 7 ∧
       u.cpx.releaseDue = true ∧ u.evg.latched = false ∧ u.spc.mem = s.spc.mem)) ∧
  (∀ (s : State) (v : Word), fclkOn s = true →
     let w := s.wvl
     (w.state = 4 ∨ w.state = 5 → s.cpx.bistfail = false →
       exec (.wvlCtlLoad v) s = .next { s with wvl := { w with
         src := v.setWidth 2, load := true, state := 1, srcused := v.setWidth 2, unpinned := false, retried := false, words := [],
         wordAt := s.tmr.gtime } }) ∧
     (w.state ≠ 4 → w.state ≠ 5 →
       exec (.wvlCtlLoad v) s = .next (fresh { s with wvl := { w with src := v.setWidth 2, cfgerr := true } } 0x1004 8)) ∧
     (w.state = 1 → w.srcused.getLsbD 1 = true →
       let u := { s with wvl := { w with words := v :: w.words, wordAt := s.tmr.gtime } }
       (wordReader u).structure_ = .more → exec (.wvlDataWrite v) s = .next u) ∧
     (w.state ≠ 1 → exec (.wvlDataWrite v) s = .next (fresh { s with wvl := { w with cfgerr := true } } 0x1004 8)) ∧
     (w.state = 1 → w.srcused.getLsbD 1 = true → w.timeout ≠ 0 →
       w.timeout.toNat * 1000 < s.tmr.gtime.toNat - w.wordAt.toNat →
       ∃ t, exec .weaveLoadTimeout s = .next t ∧ t.wvl.state = 4 ∧ t.wvl.err = 11 ∧ t.wvl.words = [] ∧ t.wvl.load = false))

/-- 02 R48-R52: a commit group named in `CPX.COMMIT` is queued for the next boundary, or for the one after it in the boundary's own cycle
and the last four slots; at the boundary a group whose staged fields are legal takes effect and another sets CERR and ERRGROUP. 02 R44,
17 R401: a plan whose words can all be read waits for the warp boundary and there becomes the plan in force: its slots over the base
tables, and its number in `WVL.PLAN`. A plan with an uncorrectable word in the NVM, or one that shows such a word as it is read, is not.
Where the manual leaves a choice or is read by inference, the clauses follow the model's log 24, 27 and 28. -/
def Obligations.WeaveCommits : Prop :=
  (∀ (s : State) (v : Word), fclkOn s = true → freshBits s 0x40 = 0 →
     let c := s.cpx
     (v = 0x700#32 → (∀ p ∈ c.commitq, p.1 ≠ 0x700#12) → c.commitq.length ≤ 7 →
       exec (.cpxCommitWrite v) s = .next { s with cpx := { c with
         commitq := c.commitq ++ [(0x700#12, decide (s.wvl.slot = 0 ∨ 252 ≤ s.wvl.slot.toNat))] } }) ∧
     (v = 0x0FF#32 → exec (.cpxCommitWrite v) s = .next (fresh { s with cpx := { c with cfgerr := true } } 0x04 0)) ∧
     (s.wvl.slot = 0 → c.commitq = [(0x701#12, false)] →
       (s.wvl.routesStg.all (fun p => !routeBad (p.2.setWidth 32)) = true →
         exec .commitGroupApply s = .next { s with cpx := { c with commitq := [] }, wvl := { s.wvl with routes := s.wvl.routesStg } }) ∧
       (s.wvl.routesStg.all (fun p => !routeBad (p.2.setWidth 32)) = false →
         exec .commitGroupApply s = .next (fresh { s with cpx := { c with commitq := [], cerr := true, errgroup := 0x701#12 } } 0x40 17))) ∧
     (∀ k : Fin 1024, s.wvl.slot = 0 → c.commitq = [(BitVec.ofNat 12 (0x200 + k.val), false)] →
       let q := tget 0 s.che.quotaStg k.val
       let others := ((s.che.quota.filter fun p => p.1 != k.val).map fun p => p.2.toNat % 65536).sum
       q.toNat % 65536 ≤ q.toNat / 65536 → q.toNat / 65536 ≤ s.wvl.poolsize.toNat / 256 →
       others + q.toNat % 65536 ≤ s.wvl.poolsize.toNat / 256 →
       exec .commitGroupApply s = .next { s with
         cpx := { c with commitq := [] }, che := { s.che with quota := tset 0 s.che.quota k.val q } })) ∧
  (∀ (s : State) (i : Nat) (x : Plan),
     (s.wvl.planRead = some i → s.wvl.plans[i]? = some x → clkOn s .mgclk = true →
       (s.hlt.noplans = false → (∀ w ∈ s.nvc.bad, 8 * w + 8 ≤ 0x60000 * s.wvl.srcused.toNat + x.off ∨
           0x60000 * s.wvl.srcused.toNat + x.off + x.len ≤ 8 * w) →
         exec (.fallbackPlanRead true) s = .next { s with wvl := { s.wvl with planRead := none, planReady := some i } }) ∧
       ((∃ w ∈ s.nvc.bad, 0x60000 * s.wvl.srcused.toNat + x.off < 8 * w + 8 ∧
           8 * w < 0x60000 * s.wvl.srcused.toNat + x.off + x.len) →
         ∃ t, exec (.fallbackPlanRead true) s = .next t ∧ t.wvl.planRead = none ∧ t.wvl.planReady = s.wvl.planReady) ∧
       ∃ t, exec (.fallbackPlanRead false) s = .next t ∧ t.wvl.planRead = none ∧ t.wvl.planReady = s.wvl.planReady) ∧
     (s.wvl.planReady = some i → s.wvl.plans[i]? = some x → fclkOn s = true → s.wvl.slot = 0 → s.cpx.commitq = [] →
       ∃ t, exec .fallbackPlanApply s = .next t ∧ t.wvl.planReady = none ∧ t.wvl.plan = BitVec.ofNat 8 i ∧
         t.wvl.warp = overlay s.wvl.warpBase x.slots ∧ t.wvl.warpStg = t.wvl.warp ∧ t.spc = s.spc))

/-- 12 R268-R270, R274: in a slot of a bank that has served nothing yet its owner's or lend-to master's access is served: a read of a good
word that its regions grant answers the word and changes no byte; an engine's write replaces exactly the masked bytes. 12 R274, R277,
R471: a master's access, the first of its request, is refused where no region grants a byte of the whole request: it answers an error,
changes no byte, and is counted, flagged and logged. 12 R271: the scrubber reads one word in an idle port slot; a correctable error
schedules a write-back of the same word in the port's next idle slot, which changes no byte. When the cycle ends, a write of the word at
the other port has suppressed it, and the port's scrubber is back at that word; else the word holds no error any more. Where the manual
leaves a choice or is read by inference, the clauses follow the model's log 10, 11 and 27. -/
def Obligations.Scratchpad : Prop :=
  (∀ (s : State) (bank : Fin 64) (q : SpReq), fclkOn s = true →
     let w := q.word.toNat
     let m := q.mst.toNat
     let slot := slotAt s.wvl.warp (2 * bank.val) s.wvl.slot.toNat
     w % 64 = bank.val → m ≤ 73 → slotOwner slot = m ∨ slotLend slot = m → w ∉ s.spc.bad →
     (m < 64 → engExists s m = true) → s.spc.reqs = [] → (∀ u ∈ s.cyc.used, u.tbl / 2 ≠ bank.val) → (∀ x ∈ s.cyc.wrote, x.word ≠ w) →
     (bank.val, m) ∉ s.spc.paths →
     (q.write = false → q.ecc = .good → (64 ≤ m → firstRefused s m (presOf s m q.chan.val) false (reqSpan q) = none) →
       ∃ t, exec (.scratchpadAccess bank [q]) s = .next t ∧ t.spc.served = [(q.mst, some (spWord s.spc w))] ∧
         t.spc.mem = s.spc.mem) ∧
     (q.write = true → q.ecc = .good → m < 64 → ∃ t, exec (.scratchpadAccess bank [q]) s = .next t ∧ t.spc.served = [(q.mst, some 0)] ∧
       (∀ k < 8, tget spadDefault t.spc.mem (8 * w + k) =
         if q.mask.getLsbD k then fld q.data (8 * k) 8 else tget spadDefault s.spc.mem (8 * w + k)) ∧
       (∀ a : Nat, a < 8 * w ∨ 8 * w + 8 ≤ a → tget spadDefault t.spc.mem a = tget spadDefault s.spc.mem a))) ∧
  (∀ (s : State) (bank : Fin 64) (q : SpReq) (o : Nat), fclkOn s = true →
     let w := q.word.toNat
     let m := q.mst.toNat
     w % 64 = bank.val → 64 ≤ m → m ≤ 73 → slotOwner (slotAt s.wvl.warp (2 * bank.val) s.wvl.slot.toNat) = m → s.spc.reqs = [] →
     (∀ u ∈ s.cyc.used, u.tbl / 2 ≠ bank.val) → s.cyc.viols = 0 → (q.write = true → captureFits s (s.wvl.spwin.toNat + 8 * w) (maskBytes q.data q.mask) = true) →
     firstRefused s m (presOf s m q.chan.val) q.write (reqSpan q) = some o → s.spc.vcnt.toNat < 2 ^ 32 - 1 →
     ∃ t, exec (.scratchpadAccess bank [q]) s = .next t ∧ t.spc.served = [(q.mst, none)] ∧ t.spc.mem = s.spc.mem ∧
       t.spc.viol = true ∧ t.spc.vcnt = s.spc.vcnt + 1 ∧
       ∃ ent, tget {} t.spc.vlog s.spc.vhead.toNat = ent ∧ ent.off = BitVec.ofNat 24 o ∧ ent.mst = q.mst ∧ ent.valid = true) ∧
  (∀ (s : State) (bank : Fin 64), fclkOn s = true → s.spc.scrub = true → (∀ u ∈ s.cyc.used, u.tbl ≠ 2 * bank.val) →
     let w := 64 * scrubRowAt s bank.val false + bank.val
     (tfind s.spc.scrubFix (2 * bank.val) = none → w ∉ s.spc.bad → scrubRowAt s bank.val false < 32767 →
       (w ∉ s.spc.soft → ∃ t, exec (.scrubAccess bank false .good) s = .next t ∧ scrubRowAt t bank.val false = scrubRowAt s bank.val false + 1 ∧
         t.spc.mem = s.spc.mem ∧ tfind t.spc.scrubFix (2 * bank.val) = none) ∧
       ∃ t, exec (.scrubAccess bank false .corrected) s = .next t ∧ tfind t.spc.scrubFix (2 * bank.val) = some w ∧
         t.spc.cecnt = satAdd s.spc.cecnt 1 ∧ t.spc.mem = s.spc.mem) ∧
     (∀ x : Nat, tfind s.spc.scrubFix (2 * bank.val) = some x →
       ∃ t, exec (.scrubWrite bank false) s = .next t ∧ tfind t.spc.scrubFix (2 * bank.val) = none ∧ t.spc.mem = s.spc.mem ∧
         t.cyc.scrubs = s.cyc.scrubs ++ [(2 * bank.val, x)]) ∧
     (∀ x : Nat,
       let t := scrubEnd s (2 * bank.val, x)
       t.spc.mem = s.spc.mem ∧
       ((∃ y ∈ s.cyc.wrote, y.word = x) → scrubRowAt t bank.val false = x / 64 ∧ t.spc.soft = s.spc.soft) ∧
       ((∀ y ∈ s.cyc.wrote, y.word ≠ x) → x ∉ t.spc.soft ∧ scrubRowAt t bank.val false = scrubRowAt s bank.val false)))

/-- 13 R292, R293: posting queues the message's chain with the time and its instance's dye lot and raises its channel's source; a read of
`CHE.RECV`k by a source that may make I/O accesses (21 R462) takes the oldest descriptor of the channels of source k, and a request's
chain is open from then on; with none queued it reads all ones. 12 R280, R281, 13 R302: an allocation that the conditions allow of the
pool as it stood before the cycle's releases takes the lowest-numbered free buffer as an owned chain of one; another returns 0xFFFF,
counts a refusal and takes nothing. 13 R303: a write of `CHE.FREE` that names an owned chain, or an open request that the ledger does
not hold, releases the chain's buffers once the link words have been read; while a link word waits for the channel engine's slot (02
R40), nothing is released. One that names no chain sets BADBUF and changes nothing else. Where the manual leaves a choice or is read by
inference, the clauses follow the model's log 14 and 27. -/
def Obligations.BuffersAndMessages : Prop :=
  (∀ (s : State) (buf : Half) (k : Fin 15) (src : IoSrc) (x : Chain) (l r : List Nat), fclkOn s = true →
     let b := buf.toNat
     let source := fun (y : Chain) => (fld (tget 0 s.che.chcfg y.chan.val) 1 4 : BitVec 4).toNat
     (chainOf s b = some x → x.st = .filling → x.dec = .post →
       exec (.messagePost buf) s = .next (raiseSrc (pmuAdd { s with che := { s.che with
         chains := tput s.che.chains b { x with st := .queued, posted := s.tmr.gtime, lot := chanLot s x.chan.val x.lot },
         descq := s.che.descq ++ [b] } } 567 1) (321 + source x))) ∧
     (srcActs s src = true → recvVisible s src k.val = true → s.che.descq = l ++ b :: r → b ∉ l → b ∉ r → chainOf s b = some x → source x = k.val →
       (∀ j ∈ l, ∀ y, chainOf s j = some y → source y ≠ k.val) →
       ∃ t, exec (.cheRecvRead src k) s = .next t ∧
         t.lastRead = BitVec.ofNat 32 (b + 2 ^ 16 * x.chan.val + 2 ^ 26 * hKind x.hdr) ∧ t.che.descq = l ++ r ∧
         chainOf t b = some { x with st := if hKind x.hdr = 0 then .opened else .owned } ∧
         (∀ e, src = .engine e → (regGet t e).stamp = some x.lot) ∧ t.spc = s.spc) ∧
     (srcActs s src = true → recvVisible s src k.val = true → (∀ j ∈ s.che.descq, ∀ y, chainOf s j = some y → source y ≠ k.val) →
       exec (.cheRecvRead src k) s = .next { s with lastRead := 0xFFFFFFFF#32 })) ∧
  (∀ (s : State) (src : IoSrc) (c : ChanNo), fclkOn s = true → srcActs s src = true → chanVisible s src c.val = true →
     let q := tget 0 s.che.quota c.val
     let most := q.toNat / 65536
     let least := q.toNat % 65536
     let p := poolBefore s
     let h := heldBy p c.val
     let free := fun (n : Nat) => n < poolBufs s ∧ tfind p.che.owner n = none
     let allowed := h < most ∧ 1 ≤ poolFree p ∧ (h < least ∨ poolRsv p + 1 ≤ poolFree p) ∧
       ∀ i, instOfChan s c.val = some i → instHeld p i < (insGet s i).share.toNat
     (∀ b : Nat, allowed → b < 65536 → free b → (∀ n < b, ¬ free n) →
       ∃ t, exec (.cheAllocRead src c) s = .next t ∧ t.lastRead = BitVec.ofNat 32 b ∧ tfind t.che.owner b = some c ∧
         (∀ n : Nat, n ≠ b → tfind t.che.owner n = tfind s.che.owner n) ∧
         ∃ x, chainOf t b = some x ∧ x.chan = c ∧ x.bufs = [b] ∧ x.st = .owned) ∧
     (¬ allowed →
       ∃ t, exec (.cheAllocRead src c) s = .next t ∧ t.lastRead = 0xFFFF#32 ∧ t.che.owner = s.che.owner ∧
         t.che.chains = s.che.chains ∧ t.che.poolref = satAdd s.che.poolref 1)) ∧
  (∀ (s : State) (src : IoSrc) (v : Word) (x : Chain), fclkOn s = true → srcActs s src = true → viewOf s src ≠ .empty →
     let b := v.toNat % 65536
     b ≠ 0xFFFF →
     (chainOf s b = some x → chanVisible s src x.chan.val = true → (x.st = .owned ∨ x.st = .opened) → x.led = none →
       (∀ n ∈ x.bufs, n < poolBufs s) → s.cyc.stalled = false →
       let walk := (linkWalk x.chan.val b (poolBufs s) b s [b] x.bufs).1
       (walk.cyc.stalled = false →
         ∃ t, exec (.cheFree src v) s = .next t ∧ chainOf t b = none ∧ ∀ n ∈ x.bufs, tfind t.che.owner n = none) ∧
       (walk.cyc.stalled = true → ∃ t, exec (.cheFree src v) s = .next t ∧ t.che = s.che ∧ t.spc.mem = s.spc.mem)) ∧
     (chainOf s b = none →
       exec (.cheFree src v) s = .next { s with che := { s.che with errcode := 1, errbuf := v.setWidth 16 } }))

/-- 13 R304: with the header read, an accepted `CHE.SEND` of a request or one-way message joins the send queue with this device's number as
SRCDEV; a reply carries the request's address, key and sequence and is tagged with the last journal sequence; with the queue full the
write waits, and a BUF that is no chain is BADBUF. 13 R305, R306, 14 R337: the oldest accepted message is read and, when its destination
is this device, waits whole in the loopback; a held reply of a device without a twin goes out. Where the manual leaves a choice or is
read by inference, the clauses follow the model's log 14. -/
def Obligations.MessagesLeave : Prop :=
  (∀ (s : State) (src : IoSrc) (v : Word) (y x : Chain) (bs : List Byte), fclkOn s = true → srcActs s src = true → viewOf s src ≠ .empty →
     let b := v.toNat % 65536
     let r := v.toNat / 65536
     let h : BitVec 256 := BitVec.ofNat 256 (leNat bs)
     let room := (s.che.sendq.filter fun q => !q.reply).length < 64
     let named := b ≠ 0xFFFF ∧ chainOf s b = some y ∧ chanVisible s src y.chan.val = true ∧ y.st = .owned ∧
       (cheRead s y.chan.val (bufOff s b) 32).2 = some bs ∧ hReserved h = false
     (room → named → r = 0xFFFF → hKind h % 2 = 0 → staleSender s src = none →
       ∃ t, exec (.cheSend src v) s = .next t ∧ t.che.sendq = s.che.sendq ++ [⟨b, false, 0, none⟩] ∧
         chainOf t b = some { y with st := .sending, hdr := hdrSet h 4 2 s.cpx.devid.toNat, led := none, timedOut := false } ∧
         t.spc.mem = s.spc.mem) ∧
     (∀ i, room → named → r ≠ 0xFFFF → r ≠ b → chainOf s r = some x → chanVisible s src x.chan.val = true → x.st = .opened →
       instOfChan s x.chan.val = some i → x.lot = (insGet s i).lot →
       ∃ t y', exec (.cheSend src v) s = .next t ∧ t.che.sendq = s.che.sendq ++ [⟨b, true, s.twn.txseq - 1, some i⟩] ∧
         chainOf t b = some y' ∧ y'.st = .sending ∧ hKind y'.hdr = 1 ∧ hKey y'.hdr = hKey x.hdr ∧ hSeq y'.hdr = hSeq x.hdr ∧
         hDst y'.hdr = hSrc x.hdr ∧ (hChan y'.hdr).val = (hRchan x.hdr).toNat ∧ hLen y'.hdr = hLen h ∧
         (∃ x', chainOf t r = some x' ∧ x'.st = .owned)) ∧
     (room → chainOf s b = none → ∃ t, exec (.cheSend src v) s = .next t ∧ t.che.errcode = 1 ∧ t.che.stat.getLsbD 1 = true ∧
       t.che.sendq = s.che.sendq ∧ t.che.chains = s.che.chains) ∧
     (64 ≤ (s.che.sendq.filter fun q => !q.reply).length → exec (.cheSend src v) s = .next s)) ∧
  (∀ (s u : State) (q : SendReq) (l : List SendReq) (x : Chain) (data : List Byte), fclkOn s = true →
     s.che.sendq = q :: l → (∀ p ∈ l, p.buf ≠ q.buf) → chainOf s q.buf = some x → x.led = none → s.che.out = [] →
     let flits := toFlits (toBytes 32 x.hdr.toNat ++ data) (hdrFlits x.hdr)
     let popped := { s with che := { s.che with sendq := l } }
     readOutChain popped q.buf x = (u, some data) →
     (q.reply = false → 1 ≤ hdrFlits x.hdr → isOwn s (flitDest (laneOf x.hdr).val (flits.headD 0)) = true →
       ∃ t, exec .messageTransmit s = .next t ∧ t.che.sendq = l ∧ t.che.loop = s.che.loop ++ [flits] ∧ t.che.out = [] ∧
         chainOf t q.buf = none ∧ t.spc = u.spc) ∧
     (q.reply = true → s.twn.role = 0 → fencedReply s q = false →
       ∃ t, exec .replyRelease s = .next t ∧ t.che.sendq = l ∧
         t.che.out = [⟨laneOf x.hdr, none, flits, false, some q.buf⟩] ∧ t.spc = u.spc))

/-- 13 R290, R291: a message from the loopback that fails a check is turned away: a request is answered by a NACK to its sender with the
check's code, another is discarded and counted. One of one flit that passes is written to the buffer allocated for it and its chain is
filling until it is posted. The first flit of a longer one from a port takes its buffer and is written while the rest is awaited. Where
the manual leaves a choice or is read by inference, the clauses follow the model's log 14. -/
def Obligations.MessagesArrive : Prop :=
  ∀ (s s3 s4 : State) (d : LineData) (rest : List LineData) (m : List (List LineData)) (code : BitVec 8) (b : Nat),
    fclkOn s = true →
    let h := hdrSet (hdrOf d) 0x1B 1 0
    let c := hChan h
    let lot := chanLot s c.val 0
    let bytes := toBytes 32 h.toNat ++ lineBytes d 32 32
    let taken := pmuAdd { s with che := { s.che with loop := m } } 566 1
    let looped := s.che.loop = (d :: rest) :: m ∧ s.che.loopPart = none ∧ ∀ p v : Nat, tget [] (ibfGet s p).rx v = []
    (looped → rest.length + 1 = hdrFlits h → arrivalCheck s h = some code → hKind h = 0 →
      ∃ t f, exec .messageArrival s = .next t ∧ t.che.loop = m ∧ t.che.nackcnt = satAdd s.che.nackcnt 1 ∧
        t.che.out = s.che.out ++ [⟨1, none, [f], false, none⟩] ∧ hKind (hdrOf f) = 3 ∧ hCode (hdrOf f) = code.toNat ∧
        hDst (hdrOf f) = hSrc h ∧ (hChan (hdrOf f)).val = (hRchan h).toNat ∧ hSeq (hdrOf f) = hSeq h ∧ hKey (hdrOf f) = hKey h) ∧
    (looped → rest.length + 1 = hdrFlits h → arrivalCheck s h = some code → hKind h ≠ 0 →
      exec .messageArrival s = .next { taken with che := { taken.che with disccnt := satAdd s.che.disccnt 1 } }) ∧
    (looped → rest = [] → hLen h ≤ 32 → arrivalCheck s h = none → filtered s h = false → allocBuf (pmuAdd s 566 1) c = (s3, some b) →
      writePart c.val lot [b] true 4 s3 0 (bytes.take (32 + hLen h)) = .done s4 →
      ∃ t x, exec .messageArrival s = .next t ∧ chainOf t b = some x ∧ x.chan = c ∧ x.bufs = [b] ∧ x.st = .filling ∧
        x.dec = .post ∧ x.hdr = h ∧ t.spc = s4.spc ∧ t.che.loop = s4.che.loop.drop 1) ∧
    (let y := ibfGet s 0
     tget [] y.rx 0 = [.flit d] → tget (.drop, 0) y.rxMsg 0 = (.drop, 0) → tfind y.rxPart 0 = none → isOwn s (flitDest 0 d) = true →
      32 < hLen h → hLen h ≤ 16384 → arrivalCheck s h = none → allocBuf (pmuAdd s 566 1) c = (s3, some b) →
      writePart c.val lot [b] false 4 s3 0 bytes = .done s4 →
      ∃ t, exec .messageArrival s = .next t ∧ t.spc = s4.spc ∧ tget [] (ibfGet t 0).rx 0 = [] ∧ t.che.chains = s4.che.chains ∧
        tget (.drop, 0) (ibfGet t 0).rxMsg 0 = (.own, hdrFlits h - 1) ∧
        tfind (ibfGet t 0).rxPart 0 = some ⟨h, hdrFlits h - 1, 64, lot, none, [b]⟩)

/-- 13 R297-R299: the ledger's decision. A key that it does not hold is recorded as open and will be posted; a repeat of a request that is
open or still awaits its own decision is recorded with it, its buffers released, and counted; a fourth repeat is answered BUSY. 13 R308,
R310: REQUEST_TIMEOUT notes that a request's time is up, and the timeout applies as the cycle ends: the request is answered with a NACK;
an open one's chain becomes owned, a queued one's is released. One that the cycle has seen answered or freed has none. Where the manual
leaves a choice or is read by inference, the clauses follow the model's log 14. -/
def Obligations.LedgerAndTimeouts : Prop :=
  (∀ (s : State) (buf : Half) (x : Chain) (l : List Nat) (e : Ledger) (bucket store : Ecc),
     fclkOn s = true →
     let b := buf.toNat
     let g := groupOfChan s x.chan.val
     chainOf s b = some x → x.st = .filling → x.dec = .waiting → x.led = none → s.che.probeq = b :: l → b ∉ l → grpWindow s g ≠ 0 →
     (∀ n ∈ x.bufs, n < poolBufs s) →
     (ledgerFind s g (hKey x.hdr) = none → s.che.ten = false → s.che.ledger.length < 8192 → x.refusal = none →
       (∀ y ∈ s.che.ledger, y.id ≠ s.che.ledNext ∧ (y.group = g → y.key = hKey x.hdr → y.old = true)) →
       ∃ t y, exec (.ledgerProbe buf bucket store) s = .next t ∧ t.che.ledger = y :: s.che.ledger ∧ y.group = g ∧
         y.key = hKey x.hdr ∧ y.st = .opened ∧ y.time = fld s.tmr.gtime 16 32 ∧ y.repeats = [] ∧
         chainOf t b = some { x with dec := .post, led := some y.id } ∧ t.che.probeq = l) ∧
     (ledgerFind s g (hKey x.hdr) = some e → isLive s g e.time = true → e.st ≠ .done → e.held = false →
       (∀ y ∈ s.che.ledger, y.id = e.id → y = e) →
       (e.repeats.length ≤ 2 →
         ∃ t, exec (.ledgerProbe buf bucket store) s = .next t ∧ chainOf t b = none ∧ (∀ n ∈ x.bufs, tfind t.che.owner n = none) ∧
           t.che.dupcnt = satAdd s.che.dupcnt 1 ∧ t.che.out = s.che.out ∧ t.che.probeq = l ∧
           t.che.ledger.head? = some { e with repeats := e.repeats ++ [⟨hSrc x.hdr, hRchan x.hdr, hSeq x.hdr⟩] }) ∧
       (3 ≤ e.repeats.length →
         ∃ t f, exec (.ledgerProbe buf bucket store) s = .next t ∧ chainOf t b = none ∧ t.che.ledger = s.che.ledger ∧
           t.che.dupcnt = satAdd s.che.dupcnt 1 ∧ t.che.out = s.che.out ++ [⟨1, none, [f], false, none⟩] ∧
           hCode (hdrOf f) = 5)) ∧
     (ledgerFind s g (hKey x.hdr) = some e → isLive s g e.time = true → e.st = .done → e.held = false →
       (e.nostore = true ∨ s.che.ten = false) →
       ∃ t f, exec (.ledgerProbe buf bucket store) s = .next t ∧ chainOf t b = none ∧ t.che.probeq = l ∧
         t.che.dupcnt = satAdd s.che.dupcnt 1 ∧ t.che.out = s.che.out ++ [⟨1, none, [f], false, none⟩] ∧ hCode (hdrOf f) = 8)) ∧
  (∀ (s : State) (buf : Half) (x : Chain), fclkOn s = true →
     let b := buf.toNat
     let tmo := (tget 0 s.che.grp (groupOfChan s x.chan.val).toNat).toNat / 65536
     chainOf s b = some x → hKind x.hdr = 0 → x.led = none → tmo ≠ 0 →
     x.posted.toNat + tmo * 1024 ≤ s.tmr.gtime.toNat / 1024 * 1024 → (∀ n ∈ x.bufs, n < poolBufs s) →
     let t := endTimeouts { s with cyc := { s.cyc with tmos := [b] } }
     ((x.st = .opened ∨ x.st = .queued) → b ∉ s.cyc.tmos →
       exec (.requestTimeout buf) s = .next { s with cyc := { s.cyc with tmos := s.cyc.tmos ++ [b] } }) ∧
     (x.st = .opened → ∃ f, t.che.out = s.che.out ++ [⟨1, none, [f], false, none⟩] ∧ hCode (hdrOf f) = 7 ∧ hDst (hdrOf f) = hSrc x.hdr ∧
       chainOf t b = some { x with st := .owned, timedOut := true, led := none }) ∧
     (x.st = .queued → ∃ f, t.che.out = s.che.out ++ [⟨1, none, [f], false, none⟩] ∧ hCode (hdrOf f) = 7 ∧ b ∉ t.che.descq ∧
       chainOf t b = none ∧ ∀ n ∈ x.bufs, tfind t.che.owner n = none) ∧
     (x.st ≠ .opened → x.st ≠ .queued → t.che.out = s.che.out ∧ t.che.chains = s.che.chains))

/-- 14 R314, R326: in ACTIVE with nothing waiting, the flit that the PCS hands over, when it is bad or fails its check, is counted once and
asks for a replay; a data flit in sequence joins its lane's receive buffer; one sent before is dropped and counted; a link control flit
waits for its own command. 14 R313, R315, R318: once every lane of the set has it, the next codeword is decoded: an uncorrectable one is
counted, makes bad every flit with a byte in it, and the fourth in a row retrains the port; corrected symbols are counted on the lanes
that carried them. A cycle at the receive pins in training takes the word of every lane with `RXVALID` 1 into that lane's stream. Where
the manual leaves a choice or is read by inference, the clauses follow the model's log 15 and 30. -/
def Obligations.FlitsAndCodewords : Prop :=
  (∀ (s : State) (p : PortNo) (f : RxFlit) (l : List RxFlit) (c : Nat),
     let x := ibfGet s p.val
     let y := fun (t : State) => ibfGet t p.val
     let now := Instr.flitReceive p f.bad f.fchk f.data
     let cls := classOfFlit x.rseq f.fchk f.data
     let base := { x with prx := { x.prx with flits := l } }
     portOn s p = true → x.st = .active → x.mark = none → x.ctl = none → x.naksent = false → x.prx.flits = f :: l →
     (f.bad = true ∨ cls = none →
       ∃ t, exec now s = .next t ∧ (y t).badflit = satAdd x.badflit 1 ∧ (y t).naksent = true ∧ (y t).err.getLsbD 1 = true ∧
         (y t).rx = x.rx ∧ (y t).e = x.e ∧ (y t).prx = base.prx) ∧
     (f.bad = false → cls = some c → c < 2 → x.e = x.rseq →
       ∃ t, exec now s = .next t ∧ (y t).e = x.e + 1 ∧ (y t).rseq = x.rseq + 1 ∧
         tget [] (y t).rx c = tget [] x.rx c ++ [.flit f.data] ∧ (∀ v : Nat, v ≠ c → tget [] (y t).rx v = tget [] x.rx v) ∧
         (y t).retry = x.retry ∧ (y t).prx = base.prx) ∧
     (f.bad = false → cls = some c → c < 5 → 1 ≤ (x.e - x.rseq).toNat → (x.e - x.rseq).toNat ≤ 511 →
       ∃ t, exec now s = .next t ∧ y t = { base with dupflit := satAdd x.dupflit 1, rseq := x.rseq + 1 }) ∧
     (f.bad = false → cls = some 5 → ctlBad f.data = false →
       ∃ t, exec now s = .next t ∧ y t = { base with ctl := some f.data })) ∧
  (∀ (s : State) (p : PortNo) (word good : List Nat) (places : List Nat) (valid sig : BitVec 8) (rxd : BitVec 512)
       (j : Fin 8),
     let x := ibfGet s p.val
     let y := fun (t : State) => ibfGet t p.val
     let phys := setPhys x
     let whole := x.st = .active ∧ phys.length = widthLanes x.width ∧ gather x.prx phys = some word
     portOn s p = true →
     (whole → fecDecode word = none → x.badrun ≠ 3 →
       ∃ t l, exec (.codewordDecode p [] []) s = .next t ∧ (y t).uncorr = satAdd x.uncorr 1 ∧ (y t).badrun = x.badrun + 1 ∧
         (y t).lanecnt = x.lanecnt ∧ (y t).st = .active ∧ (y t).prx.cw = x.prx.cw + 1 ∧ (y t).prx.flits = x.prx.flits ++ l ∧
         (x.prx.acc = {} → ∀ f ∈ l, f.bad = true)) ∧
     (whole → fecDecode word = none → x.badrun = 3 →
       ∃ t, exec (.codewordDecode p [] []) s = .next t ∧ (y t).st = .train ∧ (y t).uncorr = satAdd x.uncorr 1 ∧ (y t).phys = []) ∧
     (whole → fecDecode word = some (good, places) →
       ∃ t, exec (.codewordDecode p [] []) s = .next t ∧ (y t).badrun = 0 ∧ (y t).uncorr = x.uncorr ∧ (y t).prx.cw = x.prx.cw + 1 ∧
         ∀ k : Nat, tget 0 (y t).lanecnt k =
           satAdd (tget 0 x.lanecnt k) ((places.map fun i => (phys[i % phys.length]?).getD 0).count k)) ∧
     (x.st = .train →
       ∃ t, exec (.codewordDecode p [(valid, sig)] [rxd]) s = .next t ∧ (y t).prx.rxd = rxd ∧ (y t).prx.valid = valid ∧
         (y t).prx.sig = sig ∧ (y t).prx.flits = x.prx.flits ∧ (y t).bad = x.bad ∧
         (valid.getLsbD j.val = false → tget 0 (y t).prx.words j.val = tget 0 x.prx.words j.val ∧
           tget {} (y t).prx.inb j.val = tget {} x.prx.inb j.val) ∧
         (valid.getLsbD j.val = true → tget 0 (y t).prx.words j.val = tget 0 x.prx.words j.val + 1 ∧
           (x.prx.start = [] → (tget {} x.prx.inb j.val).n ≤ 64 * tget 0 x.prx.words j.val →
             (tget {} x.prx.inb j.val).v < 2 ^ (tget {} x.prx.inb j.val).n →
             streamAt (y t).prx j.val (64 * tget 0 x.prx.words j.val) 64 = some (fld rxd (64 * j.val) 64).toNat))))

/-- 14 R329-R333, R336: what the link control flits do. A STATUS frees the retry-buffer entries below its RXNEXT and brings the peer's
credit counts; a NAK sets a replay from its RXNEXT; a REPLAY moves the receive sequence and ends the request for it; the first INIT
gives the peer's number; an ABORT ends the message in progress on its lane. An unanswered retry buffer is replayed after RTMO. Where the
manual leaves a choice or is read by inference, the clauses follow the model's log 15. -/
def Obligations.LinkControlFlits : Prop :=
  ∀ (s : State) (p : PortNo) (d : LineData) (k : Nat),
    let x := ibfGet s p.val
    let n : BitVec 12 := BitVec.ofNat 12 (flitNat d 2 2)
    let y := fun (t : State) => ibfGet t p.val
    let credits := fun (t : State) => ∀ v < 4, tget 0 (y t).cred v = BitVec.ofNat 12 (flitNat d (8 + 2 * v) 2)
    let within := (n - oldest x).toNat = k ∧ k ≤ x.retry.length
    portOn s p = true →
    (x.ctl = some d → flitNat d 0 1 = 1 → within →
      ∃ t, exec (.controlStatus p) s = .next t ∧ (y t).retry = x.retry.drop k ∧ credits t ∧ (y t).ctl = none ∧
        (y t).txnext = x.txnext ∧ (y t).st = x.st) ∧
    (x.ctl = some d → flitNat d 0 1 = 2 → within → x.replay = none → x.replayFor = none → x.retrymax = 0 ∨ x.tries < x.retrymax.toNat →
      ∃ t, exec (.controlNak p) s = .next t ∧ (y t).retry = x.retry.drop k ∧ credits t ∧ (y t).replay = some n ∧
        (y t).replays = satAdd x.replays 1 ∧ (y t).err.getLsbD 2 = true ∧ (y t).ctl = none) ∧
    (x.ctl = some d → flitNat d 0 1 = 3 → within → (x.e - BitVec.ofNat 12 (flitNat d 4 2)).toNat ≤ 512 →
      ∃ t, exec (.controlReplay p) s = .next t ∧ (y t).rseq = BitVec.ofNat 12 (flitNat d 4 2) ∧ (y t).naksent = false ∧
        (y t).e = x.e ∧ (y t).retry = x.retry.drop k ∧ (y t).ctl = none) ∧
    (x.ctl = some d → flitNat d 0 1 = 4 → x.initSeen = false →
      ∃ t, exec (.controlInit p) s = .next t ∧ (y t).initSeen = true ∧ (y t).peer = BitVec.ofNat 12 (flitNat d 6 2) ∧
        (y t).peerv = true ∧ credits t ∧ (∀ v < 4, tget 0 (y t).initcred v = BitVec.ofNat 12 (flitNat d (16 + 2 * v) 2)) ∧
        (flitNat d 1 1 = 1 → (y t).retry = [] ∧ (y t).txnext = n) ∧ (y t).ctl = none) ∧
    (x.ctl = some d → flitNat d 0 1 = 1 → x.retry.length < (n - oldest x).toNat →
      ∃ t, exec (.controlStatus p) s = .next t ∧ (y t).st = .train ∧ (y t).err.getLsbD 7 = true) ∧
    (x.mark = some d →
      let v := flitNat d 1 1 % 4
      ∃ t, exec (.abortMark p) s = .next t ∧ (y t).aborts = satAdd x.aborts 1 ∧ (y t).mark = none ∧
        tget [] (y t).rx v = (if tget 0 x.rxLeft v = 0 then tget [] x.rx v else tget [] x.rx v ++ [.abort]) ∧
        tget 0 (y t).rxLeft v = 0) ∧
    (x.st = .active → x.retry ≠ [] → x.rtmo ≠ 0 → x.replay = none → x.rtmo.toNat ≤ (s.tmr.gtime - x.advAt).toNat →
      x.rtmo.toNat ≤ (s.tmr.gtime - x.replayAt).toNat → x.retrymax = 0 ∨ x.tries < x.retrymax.toNat →
      ∃ t, exec (.retryTimeout p) s = .next t ∧ (y t).replay = some (oldest x) ∧ (y t).replays = satAdd x.replays 1 ∧
        (y t).tries = x.tries + 1 ∧ (y t).retry = x.retry)

/-- 02 R43, 14 R317, R325, R332, R333: a slot of an ACTIVE port gives the PCS the first flit of the lane that owns it when that lane has one
and credit for it, and keeps it in the retry buffer; with nothing to send it carries STATUS or NAK, and before the peer's INIT, INIT.
With four flits held by the PCS it waits. 14 R337, R338, 02 R40: in a slot of the output's crossbar table that names the port's DMA, a
one-flit message for another device leaves the receive buffer for the transmit queue of its route's port with one hop fewer; without
such a slot it stays. With its last hop spent it is dropped and counted. Where the manual leaves a choice or is read by inference, the
clauses follow the model's log 11, 15 and 30. -/
def Obligations.SlotsAndForwarding : Prop :=
  (∀ (s : State) (p : PortNo) (v : Nat) (d : LineData) (r : List LaneFlit),
     let x := ibfGet s p.val
     let y := fun (t : State) => ibfGet t p.val
     portOn s p = true → x.st = .active → x.frameSlot ≠ 0 → x.txSkip = [] → s.hlt.twinMsgs = [] →
     let lanes := slotLanes (tget 7#8 s.wvl.txfUse (512 * p.val + x.frameSlot.toNat))
     let room := x.ptx.fifo.length < 4
     (room → x.initSeen = true → x.replay = none → x.resend = none → x.retry.length < 512 → lanes.head? = some v →
       tget [] x.tx v = .flit d :: r → creditsOf x v ≠ 0 →
       ∃ t, exec (.transmitSlot p) s = .next t ∧ (y t).ptx.fifo = x.ptx.fifo ++ [⟨fchkOf x.txnext v d, d, false⟩] ∧
         (y t).txnext = x.txnext + 1 ∧ (y t).retry = x.retry ++ [⟨x.txnext, BitVec.ofNat 3 v, d⟩] ∧ tget [] (y t).tx v = r ∧
         tget 0 (y t).sent v = tget 0 x.sent v + 1 ∧ (y t).frameSlot = x.frameSlot + 1) ∧
     (room → x.initSeen = true → x.replay = none → x.resend = none → (∀ v ∈ lanes, tget [] x.tx v = []) →
       ∃ t w, exec (.transmitSlot p) s = .next t ∧ (y t).ptx.fifo = x.ptx.fifo ++ [⟨fchkOf 0 5 w, w, false⟩] ∧
         flitNat w 0 1 = (if x.naksent then 2 else 1) ∧ flitNat w 2 2 = x.e.toNat ∧
         (∀ v < 4, flitNat w (8 + 2 * v) 2 = (tget 0 x.freed v).toNat) ∧ (y t).txnext = x.txnext ∧ (y t).retry = x.retry) ∧
     (room → x.initSeen = false →
       ∃ t w, exec (.transmitSlot p) s = .next t ∧ (y t).ptx.fifo = x.ptx.fifo ++ [⟨fchkOf 0 5 w, w, false⟩] ∧ flitNat w 0 1 = 4 ∧
         flitNat w 1 1 = (if x.first then 1 else 0) ∧ flitNat w 6 2 = s.cpx.devid.toNat ∧ (y t).first = false) ∧
     (4 ≤ x.ptx.fifo.length → exec (.transmitSlot p) s = .next s)) ∧
  (∀ (s : State) (p : PortNo) (lane : Fin 4) (d : LineData) (m : Nat),
     let x := ibfGet s p.val
     let v := lane.val
     let hop := flitNat d (hopAt v) 1
     portOn s p = true → v ≠ 2 → tget [] x.rx v = [.flit d] → (tget (RxDest.drop, 0) x.rxMsg v).2 = 0 → flitsOf v d = 1 →
     isOwn s (flitDest v d) = false →
     (2 ≤ hop → routePort s (flitDest v d) = some m →
       let z := slotAt s.wvl.warp (133 + m) s.wvl.slot.toNat
       let serves := (slotOwner z = 67 + p.val ∨ slotLend z = 67 + p.val) ∧ ∀ u ∈ s.cyc.used, u.tbl ≠ 133 + m
       (serves → (tget [] (ibfGet s m).tx v).length < 32 → tget 0 (ibfGet s m).txHold v = 0 →
         (∀ a ∈ (tget [] (ibfGet s m).txWait v).head?, a = 67 + p.val) →
       ∃ t, exec (.messageForward p lane) s = .next t ∧ tget [] (ibfGet t p.val).rx v = [] ∧
         tget [] (ibfGet t m).tx v = tget [] (ibfGet s m).tx v ++ [.flit (flitByte d (hopAt v) (BitVec.ofNat 8 (hop - 1)))] ∧
         tget 0 (ibfGet t p.val).freed v = tget 0 x.freed v + 1 ∧ t.che = s.che) ∧
       (¬ serves → exec (.messageForward p lane) s = .next s)) ∧
     (hop ≤ 1 →
       ∃ t, exec (.messageForward p lane) s = .next t ∧ tget [] (ibfGet t p.val).rx v = [] ∧
         (ibfGet t p.val).hopdrop = satAdd x.hopdrop 1 ∧ (ibfGet t p.val).err.getLsbD 8 = true ∧ (ibfGet t p.val).tx = x.tx))

/-- 14 R316, R321-R324: training. Two consecutive valid markers in the stream of a lane, 680 bits apart, lock it; the marker at the next
position renews it, and after two positions without one its loss ends that. In ACTIVE a marker with TRAIN set retrains the port, and a
second position without a valid marker fails the lane; with both ends READY on one choice and TRAIN = 0 sent and received the port
enters ACTIVE at the chosen width; a plan applied for that width lets a port in PLAN go on; a training that takes too long is reported
once. What a port puts into a marker is what is read from it. 14 R320, R323, R344: a failing lane of an ACTIVE port is retired and the
port retrains; the window of corrected symbols starts again, and a lane above its threshold is reported; `IBF.CTL` switches a port off
and on, retrains it, and raises it from DOWN; the port whose retry buffer failed BIST stays off (19 R422). Where the manual leaves a
choice or is read by inference, the clauses follow the model's log 15 and 30. -/
def Obligations.TrainingAndLanes : Prop :=
  (∀ (s : State) (p : PortNo) (k : Fin 8) (m1 m2 : BitVec 120) (r : LaneRx) (at_ : BitVec 64) (at0 now : Nat),
     let x := ibfGet s p.val
     let y := fun (t : State) => ibfGet t p.val
     portOn s p = true →
     (x.st = .train → tfind x.phys k.val = none → markerOk m1 (fld m1 84 8 - 1) = true → markerOk m2 (fld m1 84 8) = true →
       fld m1 48 3 = (fld m2 48 3 : BitVec 3) → markerAt x.prx k.val at0 = some m1 → markerAt x.prx k.val (at0 + 680) = some m2 →
       ∃ t q a, exec (.laneLock p k m1 m2) s = .next t ∧ tfind (y t).phys k.val = some q ∧
         q.lane.val = (fld m2 48 3 : BitVec 3).toNat ∧ q.amcnt = fld m2 84 8 ∧ q.fields = fld m2 56 28 ∧ q.next = a + 1360 ∧
         markerAt x.prx k.val a = some m1 ∧ markerAt x.prx k.val (a + 680) = some m2) ∧
     (x.st = .train → tfind x.phys k.val = some r → 2 ≤ r.miss →
       ∃ t, exec (.laneLossOfLock p k) s = .next t ∧ tfind (y t).phys k.val = none) ∧
     (tfind x.phys k.val = some r → markerAt x.prx k.val r.next = some m1 → timeAt x.prx k.val r.next = some now →
       (x.st = .train → x.endAm ≠ some r.amcnt → markerOk m1 r.amcnt = true → (fld m1 48 3 : BitVec 3).toNat = r.lane.val →
         ∃ t, exec (.alignmentMarker p k m1 now) s = .next t ∧ tfind (y t).phys k.val = some { r with
           next := r.next + 680, amcnt := fld m1 84 8, zero := markerZero (fld m1 84 8) now, miss := 0, fields := fld m1 56 28,
           agree := decide (r.fields = fld m1 56 28) }) ∧
       (x.st = .active → markerOk m1 r.amcnt = true → (fld m1 48 3 : BitVec 3).toNat = r.lane.val → m1.getLsbD 69 = true →
         ∃ t, exec (.alignmentMarker p k m1 now) s = .next t ∧ (y t).st = .train) ∧
       (x.st = .active → markerOk m1 r.amcnt = false → 1 ≤ r.miss → x.lanes.getLsbD r.lane.val = true →
         ∃ t, exec (.alignmentMarker p k m1 now) s = .next t ∧ (y t).bad = setBit x.bad r.lane.val true)) ∧
     (x.st = .train → x.ready = true → peerAgrees x x.choice = true → peerReady x = true → x.ptx.live = true → x.endAm.isSome = true →
       ∃ t, exec (.trainingComplete p) s = .next t ∧ (y t).st = .active ∧ (y t).width = fld x.choice 0 2 ∧
         (y t).lanes = laneSet (fld x.choice 0 2) (fld x.choice 2 3) ∧ (y t).rseq = x.e ∧ (y t).initSeen = false ∧
         (y t).retry = x.retry) ∧
     (x.st = .plan → x.planFor = some (fld x.choice 0 2) →
       exec (.planDecision p) s = .next (ibfPut s p.val { x with ready := true })) ∧
     (x.st = .train → x.traintmo ≠ 0 → x.trainAt = some at_ → x.traintmo.toNat * 1000 ≤ (s.tmr.gtime - at_).toNat →
       ∃ t, exec (.trainTimeout p) s = .next t ∧ (y t).err.getLsbD 6 = true ∧ (y t).trainAt = none ∧ (y t).st = .train) ∧
     (∀ (l : BitVec 3) (ok am : BitVec 8) (c : BitVec 5) (tr rd : Bool) (dev : BitVec 12),
       let m := markerOf l ok c tr rd dev am
       markerOk m (am - 1) = true ∧ fld m 48 3 = l ∧ fld m 84 8 = am ∧ fld m 56 28 = dev ++ 0#1 ++ BitVec.ofBool rd ++ BitVec.ofBool tr ++ c ++ ok)) ∧
  (∀ (s : State) (p : PortNo) (k : Fin 8),
     let x := ibfGet s p.val
     let y := fun (t : State) => ibfGet t p.val
     portOn s p = true →
     (x.st = .active → x.bad.getLsbD k.val = true → x.retired.getLsbD k.val = false →
       ∃ t, exec (.laneFailure p k) s = .next t ∧ (y t).retired = setBit x.retired k.val true ∧ (y t).err.getLsbD 4 = true ∧
         (y t).st = .train ∧ (t.hlt.state = 2 ∨ s.hlt.state = 3)) ∧
     (x.lanewin ≠ 0 →
       ∃ t, exec (.laneThresholdWindow p) s = .next t ∧ (y t).lanewn = [] ∧
         (x.lanethr ≠ 0 → x.lanethr.toNat < (tget 0 x.lanewn k.val).toNat → (y t).err.getLsbD 5 = true) ∧
         ((∀ j < 8, (tget 0 x.lanewn j).toNat ≤ x.lanethr.toNat) → t = ibfPut s p.val { x with lanewn := [] })) ∧
     (x.st ≠ .off → ∃ t, exec (.ibfCtlEn p false) s = .next t ∧ (y t).st = .off ∧ (y t).en = false ∧ (y t).retry = [] ∧
       (y t).retrain = x.retrain) ∧
     (x.st = .off → x.dead = false → ∃ t, exec (.ibfCtlEn p true) s = .next t ∧ (y t).st = .train ∧ (y t).en = true) ∧
     (x.st = .off → x.dead = true → ∃ t, exec (.ibfCtlEn p true) s = .next t ∧ (y t).st = .off ∧ (y t).en = false) ∧
     (x.st = .active → ∃ t, exec (.ibfCtlRetrain p) s = .next t ∧ (y t).st = .train ∧ (y t).retrain = true) ∧
     (x.st = .down → ∃ t, exec (.ibfCtlUp p) s = .next t ∧ (y t).st = .train) ∧
     (x.st = .active → exec (.ibfCtlUp p) s = .next s))

/-- 14 R341: a request that is malformed is answered with status 5, one of no bytes with 0, one with a byte outside the scratchpad with 1
and one of a closed channel or one without an instance with 2, in this order. A management write request that passes these writes its
bytes for the port's master and is answered with status 0, or with 3 when a region refuses it and 4 when a word is uncorrectable; a read
request is answered with the bytes, or with 3 or 4. While the write waits for its slots or for the journal, or the read for its slots,
the request stays. The message here is one that the device has sent to itself. 14 R341, R342: responses and health messages join the
received queue, or set MGOVF when it is full; in a slot of the I/O register bus that serves the port's DMA (02 R38, R40) WEAVE gives its
words to the Weave loader, and LOADCTL from the direct peer starts a load. GO sends the message in `IBF.MGTX`, and POP removes the
oldest received one. Where the manual leaves a choice or is read by inference, the clauses follow the model's log 15. -/
def Obligations.ManagementLane : Prop :=
  (∀ (s s2 : State) (p : PortNo) (d : LineData) (r : List LineData) (bs : List Byte) (code : Byte), fclkOn s = true →
     let x := ibfGet s p.val
     let taken := ibfPut s p.val { x with mgLoop := r }
     let m := 67 + p.val
     let n := flitNat d 16 1
     let chan := flitNat d 6 2
     let a := flitNat d 8 7 % 2 ^ 44
     let o := a - s.wvl.spwin.toNat
     let pres := presOf taken m chan
     let same := s2.cpx.devid = s.cpx.devid ∧ s2.twn.alias_ = s.twn.alias_ ∧ s2.twn.peer = s.twn.peer
     let answered := fun (u : State) (mop st : Byte) (data : List Byte) =>
       ∃ t, mgSend u p.val 2 (mgResponse u mop d st data) = .done t ∧
         exec (if mop = 2 then .wreq p else .rreq p) s = .next t
     let stays := fun (i : Instr) => ∃ t, exec i s = .next t ∧ (ibfGet t p.val).mgLoop = x.mgLoop ∧ t.spc.mem = s.spc.mem
     x.mgLoop = d :: r → tget [] x.rx 3 = [] → isOwn s (mgSrc d) = true → s.cyc.stalled = false →
     (mgCheck taken d =
       if 4096 ≤ flitNat d 2 2 ∨ 1024 ≤ chan ∨ flitNat d 15 1 ≠ 0 ∨ flitNat d 18 14 ≠ 0 ∨ 32 < n then some 5
       else if n = 0 then some 0
       else if ¬ (s.wvl.spwin.toNat ≤ a ∧ a + n ≤ s.wvl.spwin.toNat + 0x1000000) then some 1
       else if (tget 0 s.che.chcfg chan).getLsbD 0 = false ∨ instOfChan s chan = none then some 2
       else none) ∧
     (flitNat d 0 1 = 1 →
       (mgCheck taken d = some code → answered taken 2 code []) ∧
       (mgCheck taken d = none →
         let w := mstWrite taken m pres o ((lineBytes d 32 n).map some) none
         (same → (w = .done s2 → answered s2 2 0 []) ∧ (w = .refused s2 → answered s2 2 3 []) ∧ (w = .bad s2 → answered s2 2 4 [])) ∧
         (w = .held s2 → s2.cyc.stalled = true → stays (.wreq p)))) ∧
     (flitNat d 0 1 = 3 →
       (mgCheck taken d = some code → answered taken 4 code []) ∧
       (mgCheck taken d = none →
         let u := (wordsServe taken m (wordsOf o n)).1
         ((wordsServe taken m (wordsOf o n)).2 = false → stays (.rreq p)) ∧
         ((wordsServe taken m (wordsOf o n)).2 = true → same →
           (firstRefused u m pres false ((List.range n).map (· + o)) = none →
             (spRead u m o n = (s2, some bs) → answered s2 4 0 bs) ∧ (spRead u m o n = (s2, none) → answered s2 4 4 [])) ∧
           (∀ b, firstRefused u m pres false ((List.range n).map (· + o)) = some b → s2 = violation u m b false (presInst pres) →
             answered s2 4 3 []))))) ∧
  (∀ (s : State) (p : PortNo) (d : LineData) (r : List LineData), fclkOn s = true →
     let x := ibfGet s p.val
     let y := fun (t : State) => ibfGet t p.val
     let mop := flitNat d 0 1
     let taken := ibfPut s p.val { x with mgLoop := r }
     let serves := fun (k : Nat) =>
       let z := slotAt s.wvl.warp k s.wvl.slot.toNat
       (slotOwner z = 67 + p.val ∨ slotLend z = 67 + p.val) ∧ ∀ u ∈ s.cyc.used, u.tbl ≠ k
     (x.mgLoop = d :: r → tget [] x.rx 3 = [] →
       ((mop = 2 ∨ mop = 4 ∨ mop = 6) →
         let i := if mop = 2 then Instr.wrsp p else if mop = 4 then .rrsp p else .health p
         (x.mgrx.length ≤ 7 → ∃ t, exec i s = .next t ∧ (y t).mgrx = x.mgrx ++ [d] ∧ (y t).err.getLsbD 12 = true ∧
           (y t).mgLoop = r) ∧
         (8 ≤ x.mgrx.length → ∃ t, exec i s = .next t ∧ (y t).mgrx = x.mgrx ∧ (y t).err.getLsbD 11 = true)) ∧
       (∀ u, outServe taken 137 (67 + p.val) true = some u →
         serves 137 ∧
         (mop = 5 → flitNat d 16 1 = 4 → exec (.weave p) s = .next (wvlData u (BitVec.ofNat 32 (flitNat d 32 4)))) ∧
         (mop = 7 → x.peerv = true → mgSrc d = x.peer → flitNat d 16 1 = 4 → (s.wvl.state = 4 ∨ s.wvl.state = 5) →
           exec (.loadctl p) s = .next (wvlCtl u (BitVec.ofNat 32 (flitNat d 32 4))))) ∧
       (serves 137 → ∃ u, outServe taken 137 (67 + p.val) true = some u) ∧
       (¬ serves 137 → s.cyc.stalled = false → mop = 5 → flitNat d 16 1 = 4 →
         ∃ t, exec (.weave p) s = .next t ∧ (y t).mgLoop = x.mgLoop ∧ t.wvl = s.wvl) ∧
       (mop = 5 → flitNat d 16 1 % 4 ≠ 0 → exec (.weave p) s = .next taken) ∧
       (mop = 7 → mgSrc d ≠ x.peer → ∃ t, exec (.loadctl p) s = .next t ∧ (y t).err.getLsbD 7 = true ∧ t.wvl = s.wvl)) ∧
     (exec (.ibfMgrxctlPop p) s = .next (ibfPut s p.val { x with mgrx := x.mgrx.drop 1 })) ∧
     (∀ q : Nat, let f := mgtxFlit s p.val
       isOwn s (flitDest 3 f) = false → routePort s (flitDest 3 f) = some q → serves (133 + q) →
       (tget [] (ibfGet s q).tx 3).length < 32 → tget 0 (ibfGet s q).txHold 3 = 0 →
       (∀ a ∈ (tget [] (ibfGet s q).txWait 3).head?, a = 67 + p.val + 128) →
       ∃ t, exec (.ibfMgtxctlGo p) s = .next t ∧ (y t).mggo = false ∧ ∃ g, tget [] (ibfGet t q).tx 3 =
         tget [] (ibfGet s q).tx 3 ++ [.flit g] ∧ flitDest 3 g = flitDest 3 f ∧ flitNat g 32 32 = flitNat f 32 32))

/-- 15 R353, R354: in a slot of the twin port's output that serves the twin engine, the oldest unsent entry becomes a flit of the twin
port's journal lane, with its type, sequence and body; a heartbeat carries the role and the directions in sync; an ACK carries RXNEXT.
15 R355, R357, R358: a RECORD, COPY or LOT flit in sequence is recorded for applying and moves RXNEXT past its entries; an ACK moves
ACKNEXT and frees the entries below it; a heartbeat tells the partner's role. A sequence gap clears RXSYNC and is counted. Where the
manual leaves a choice or is read by inference, the clauses follow the model's log 15. -/
def Obligations.JournalLinks : Prop :=
  (∀ (s : State) (x : JEntry) (old : List JEntry), fclkOn s = true →
     let t := s.twn
     let p := t.port.val
     let q := tget [] (ibfGet s p).tx 2
     let z := slotAt s.wvl.warp (133 + p) s.wvl.slot.toNat
     (slotOwner z = 65 ∨ slotLend z = 65) → (∀ u ∈ s.cyc.used, u.tbl ≠ 133 + p) → q.length < 32 → tget 0 (ibfGet s p).txHold 2 = 0 →
     (∀ a ∈ (tget [] (ibfGet s p).txWait 2).head?, a = 65) →
     let sent := fun (c : Instr) (g : State → LineData → Prop) =>
       ∃ u d, exec c s = .next u ∧ tget [] (ibfGet u p).tx 2 = q ++ [.flit d] ∧ flitNat d 10 2 = s.cpx.devid.toNat ∧ g u d
     (t.st = .sync ∨ t.st = .paired → t.jbuf = old ++ [x] → t.unsent = 1 →
       sent .journalFlitForm fun u d =>
         flitNat d 0 1 = (match x.kind with | .record => 1 | .copy => 4 | .lot => 5) ∧ flitNat d 1 1 = 1 ∧
         flitNat d 2 1 = (if t.begin_ then 1 else 0) ∧ flitNat d 4 6 = x.seq.toNat ∧
         (x.kind ≠ .lot → flitNat d 16 1 = x.mask.toNat ∧ flitNat d 17 7 = x.addr.toNat ∧ flitNat d 24 8 = x.data.toNat) ∧
         (x.kind = .lot → flitNat d 16 2 = x.addr.toNat % 2 ^ 16 ∧ flitNat d 18 2 = x.data.toNat % 2 ^ 16) ∧
         u.twn.unsent = 0 ∧ u.twn.jbuf = t.jbuf ∧ u.twn.begin_ = false) ∧
     (t.st = .sync ∨ t.st = .paired ∨ t.st = .wait ∨ t.st = .fenced → s.tmr.gtime.toNat % 1000 = 0 →
       sent .heartbeatSend fun u d => flitNat d 0 1 = 3 ∧ flitNat d 1 1 = 0 ∧ flitNat d 4 6 = 0 ∧
         flitNat d 2 1 = 2 * t.role.toNat + (if t.txsync then 8 else 0) + (if t.rxsync then 16 else 0) ∧
         flitNat d 16 8 = (ownMask s).toNat ∧ u.twn = t) ∧
     (t.st = .sync ∨ t.st = .paired → t.ackDue = true → t.lastAck = none →
       sent .ackSend fun u d => flitNat d 0 1 = 2 ∧ flitNat d 4 6 = t.rxnext.toNat ∧ flitNat d 16 4 = t.applyerrcnt.toNat ∧
         u.twn = { t with ackDue := false, lastAck := some t.rxnext })) ∧
  (∀ (s : State) (d : LineData) (l : List LaneFlit) (k : Fin 3), fclkOn s = true →
     let t := s.twn
     let p := t.port.val
     let kind := if k.val = 0 then JKind.record else if k.val = 1 then .copy else .lot
     let c := if k.val = 0 then Instr.record else if k.val = 1 then .copy else .lot
     let n := flitNat d 1 1
     let seq := BitVec.ofNat 48 (flitNat d 4 6)
     tget [] (ibfGet s p).rx 2 = .flit d :: l →
     let left := fun (u : State) => tget [] (ibfGet u p).rx 2 = l ∧ tget 0 (ibfGet u p).freed 2 = tget 0 (ibfGet s p).freed 2 + 1
     (t.st = .sync → flitNat d 0 1 = (if k.val = 0 then 1 else if k.val = 1 then 4 else 5) → flitNat d 2 1 = 0 →
       t.applyq.length + n ≤ 128 →
       (seq = t.rxnext → ∃ u, exec c s = .next u ∧ left u ∧ u.twn.applyq = t.applyq ++ (List.range n).map (jEntry kind d) ∧
         u.twn.rxnext = seq + BitVec.ofNat 48 n ∧ u.twn.ackDue = true ∧ u.twn.rxsync = t.rxsync) ∧
       (seq ≠ t.rxnext → ∃ u, exec c s = .next u ∧ left u ∧ u.twn.rxnext = seq + BitVec.ofNat 48 n ∧ u.twn.rxsync = false ∧
         u.twn.seqgapcnt = satAdd t.seqgapcnt 1 ∧ u.twn.err.getLsbD 4 = true)) ∧
     (t.st = .sync ∨ t.st = .paired → flitNat d 0 1 = 2 → seqBefore t.acknext seq = true → seq = t.txseq ∨ seqBefore seq t.txseq = true →
       ∃ u, exec .ack s = .next u ∧ left u ∧ u.twn.acknext = seq ∧
         u.twn.jbuf = t.jbuf.filter (fun x => !seqBefore x.seq seq) ∧ u.twn.txseq = t.txseq) ∧
     (t.st = .sync ∨ t.st = .paired → flitNat d 0 1 = 2 → seqBefore t.acknext seq = false →
       ∃ u, exec .ack s = .next u ∧ left u ∧ u.twn.acknext = t.acknext ∧ u.twn.jbuf = t.jbuf ∧ u.twn.err.getLsbD 8 = true) ∧
     (flitNat d 0 1 = 3 →
       ∃ u, exec .heartbeat s = .next u ∧ left u ∧ u.twn.hbRole = BitVec.ofNat 2 (flitNat d 2 1 / 2) ∧
         u.twn.hbOwn = BitVec.ofNat 64 (flitNat d 16 8) ∧ u.twn.hbAge = 0 ∧ u.twn.applyq = t.applyq))

/-- 15 R356: the apply engine writes an entry's masked bytes at their address when they lie in an incoming region, and no other; those of a
COPY entry that the map marks as written since are left as they are. A LOT entry sets the dye lot of a shadowed instance; one that names
an owned instance is an apply error, and one of an instance that is not enabled changes nothing (the model's reading, log 15). 15
R358-R362: the end of a period takes effect as its cycle ends. A period without a flit from the partner is a miss, and one with a flit
clears them; the eighth miss fences a primary's instances, in FENCED too, and makes an in-sync mirror promote itself; once everything
recorded is applied the mirror owns its instances alone. 15 R361, R363, R364: `TWN.CTL`. START on a primary whose partner is a mirror
enters SYNC with capture on; a ROLE takes the device to WAIT or NONE, and is refused in SYNC and PAIRED; SOLO ends fencing. A copied
word is numbered in the journal once it has been read. Where the manual leaves a choice or is read by inference, the clauses follow the
model's log 15. -/
def Obligations.TwinStates : Prop :=
  (∀ (s : State) (x : JEntry) (r : List JEntry) (map : Ecc) (k : Nat) (q : PortRead) (line : LineData), fclkOn s = true →
     s.twn.applyq = x :: r →
     let a := x.addr.toNat % 2 ^ 44
     let pa : PAddr := BitVec.ofNat 44 a
     let o := winOff s pa
     let w := o / 8
     let z := slotAt s.wvl.warp (2 * (w % 64)) s.wvl.slot.toNat
     let mapPA := s.twn.rsmap + BitVec.ofNat 44 (k / 8)
     let marked : Byte := fld line (8 * (mapPA.toNat % 64)) 8
     let i := x.addr.toNat
     let written := fun (m : Byte) =>
       firstRefused s 65 .every true (((List.range 8).filter fun k => m.getLsbD k).map (· + o)) = none →
       ∃ t, exec (.journalApply x.seq map) s = .next t ∧ t.twn.applyq = r ∧ t.twn.applyerrcnt = s.twn.applyerrcnt ∧
         (∀ k < 8, tget spadDefault t.spc.mem (o + k) =
           if m.getLsbD k then fld x.data (8 * k) 8 else tget spadDefault s.spc.mem (o + k)) ∧
         ∀ b : Nat, b < o ∨ o + 8 ≤ b → tget spadDefault t.spc.mem b = tget spadDefault s.spc.mem b
     (x.kind ≠ .lot → x.addr.toNat / 2 ^ 44 = s.twn.peer.toNat → inWindow s pa = true → o % 8 = 0 →
       (∀ k < 8, x.mask.getLsbD k = true → (mapBit (mirrorRegs s false) (a + k) 0).isSome = true) → s.spc.bad = [] →
       (slotOwner z = 65 ∨ slotLend z = 65) → (∀ u ∈ s.cyc.used, u.tbl / 2 ≠ w % 64) → (∀ y ∈ s.cyc.wrote, y.word ≠ w) →
       (x.kind = .record → s.twn.mapUse = false → (∀ y ∈ r, y.kind ≠ .copy) → written x.mask) ∧
       (x.kind = .copy → mapBit (mirrorRegs s false) a 0 = some k → inWindow s mapPA = false → readOf s .map 0 = some q →
         q.ans = some (some line) → written (x.mask &&& ~~~marked))) ∧
     (x.kind = .lot →
       ((insGet s i).en = true → ownsInst s i = false →
         ∃ t, exec (.journalApply x.seq map) s = .next t ∧ t.twn.applyq = r ∧ (insGet t i).lot = x.data.setWidth 16 ∧ t.spc = s.spc) ∧
       ((insGet s i).en = false →
         ∃ t, exec (.journalApply x.seq map) s = .next t ∧ t.twn = { s.twn with applyq := r } ∧ t.ins = s.ins ∧ t.spc = s.spc) ∧
       ((insGet s i).en = true → ownsInst s i = true →
         ∃ t, exec (.journalApply x.seq map) s = .next t ∧ t.twn.applyq = r ∧ t.ins = s.ins ∧
           t.twn.applyerrcnt = satAdd s.twn.applyerrcnt 1 ∧ t.twn.err.getLsbD 5 = true))) ∧
  (∀ (s : State), fclkOn s = true →
     let t := s.twn
     let noted := { s with cyc := { s.cyc with period := true } }
     let u := endPeriod noted
     (s.tmr.gtime.toNat % 1000 = 0 → exec .heartbeatPeriodEnd s = .next noted) ∧
     ((t.st = .paired ∨ t.st = .sync ∨ t.st = .wait) →
       (t.accepted = true → u.twn.miss = 0 ∧ u.twn.accepted = false ∧ u.twn.st = t.st) ∧
       (t.accepted = false → t.miss.toNat ≤ 6 → u.twn.miss = t.miss + 1 ∧ u.twn.st = t.st) ∧
       (t.accepted = false → t.miss = 7 → t.role = 2 → t.rxsync = true → u.twn.st = .promoting ∧ u.twn.role = 2) ∧
       (t.accepted = false → t.miss = 7 → t.role = 2 → t.rxsync = false → u.twn.st = .wait ∧ u.twn.err.getLsbD 1 = true)) ∧
     ((t.st = .paired ∨ t.st = .sync ∨ t.st = .wait ∨ t.st = .fenced) → t.accepted = false → t.miss = 7 → t.role = 1 →
       u.twn.st = .fenced ∧ u.twn.fence = t.fence ||| ownMask s ∧ u.twn.capture = false ∧ u.twn.jbuf = [] ∧ u.twn.err.getLsbD 3 = true) ∧
     (t.st = .promoting → t.applyq = [] → t.fenceNext = none →
       ∃ u, exec .promotion s = .next u ∧ u.twn.role = 0 ∧ u.twn.alias_ = true ∧ u.twn.st = .none_ ∧ u.twn.err.getLsbD 2 = true ∧
         ∀ i, ownsInst u i = true)) ∧
  (∀ (s : State) (role : BitVec 2) (a : Nat) (q : PortRead) (line : LineData) (ecc : Ecc) (copy : Bool), fclkOn s = true →
     let t := s.twn
     (t.start = false → t.st = .wait → t.role = 1 → t.hbRole = 2 → t.hbAge.toNat ≤ 1 →
       ∃ u, exec (.twnCtlStart false) s = .next u ∧ u.twn.st = .sync ∧ u.twn.capture = true ∧ u.twn.begin_ = true ∧
         u.twn.txsync = false ∧ u.twn.start = false) ∧
     (t.start = false → t.st = .none_ → ∃ u, exec (.twnCtlStart copy) s = .next u ∧ u.twn.st = .none_ ∧ u.twn.err.getLsbD 9 = true) ∧
     (t.st = .none_ ∨ t.st = .wait →
       ∃ u, exec (.twnCtlRoleWrite role) s = .next u ∧ u.twn.role = role ∧ u.twn.alias_ = false ∧
         u.twn.st = (if role = 0 then .none_ else .wait)) ∧
     (t.st = .sync ∨ t.st = .paired ∨ t.st = .promoting →
       ∃ u, exec (.twnCtlRoleWrite role) s = .next u ∧ u.twn.role = t.role ∧ u.twn.st = t.st ∧ u.twn.err.getLsbD 0 = true) ∧
     (t.st = .fenced ∨ t.st = .wait → ∃ u, exec .twnCtlSolo s = .next u ∧ u.twn.role = 0 ∧ u.twn.fence = 0 ∧ u.twn.st = .none_) ∧
     (t.st = .sync ∧ t.capture = true → t.copyAt = some a → t.jbuf.length < 4096 → outgoing s a = true →
       inWindow s (BitVec.ofNat 44 a) = false → readOf s .copy 0 = some q → q.ans = some (some line) → s.cyc.jrn = [] →
       ∃ u, exec (.copyEntryRead ecc) s = .next u ∧
         u.twn.jbuf = t.jbuf ++ [⟨.copy, t.txseq, s.cpx.devid ++ BitVec.ofNat 44 a, 0xFF, BitVec.ofNat 64 (flitNat line (a % 64) 8)⟩] ∧ u.twn.txseq = t.txseq + 1 ∧
         u.twn.copyLast = some t.txseq ∧ u.twn.copyAt = nextCopy s (a + 8)))

/-- 16 R375, R379, R383: a RESET, SWEEP or SWITCH of an enabled instance waits for the warp boundary. There a reset moves the dye lot on, is
numbered in the journal of a device in sync that owns the instance, and clears the sources the instance owns; a sweep releases its owned
and open chains of an earlier lot once their link words have been read, and else waits; a switch turns to the other bitmap. A command
given again while it waits changes nothing. 16 R381, R382, 02 R40: the oldest mark sets its frame's bit in its bitmap, here in the
scratchpad, with the ring off: one owned slot of the bank reads the bitmap's word, and another writes it. A frame whose bit is set
already changes no byte. Where the manual leaves a choice or is read by inference, the clauses follow the model's log 13. -/
def Obligations.InstancesAndMarks : Prop :=
  (∀ (s : State) (i : InstNo), fclkOn s = true →
     let x := insGet s i.val
     x.en = true →
     let boundary := s.wvl.slot = 0 ∧ s.cpx.commitq = []
     (x.reset = false → ownsInst s i.val = true → ∃ t, exec (.insCmdReset i) s = .next t ∧ (insGet t i.val).reset = true ∧
       (insGet t i.val).lot = x.lot ∧ t.che = s.che) ∧
     (x.reset = false → ownsInst s i.val = false →
       exec (.insCmdReset i) s = .next (fresh { s with ins := { s.ins with cfgerr := true } } 0x40000 0)) ∧
     (x.reset = true → exec (.insCmdReset i) s = .next s) ∧
     (x.sweep = false → ∃ t, exec (.insCmdSweep i) s = .next t ∧ (insGet t i.val).sweep = true ∧ t.che = s.che) ∧
     (x.switch_ = false → ∃ t, exec (.insCmdSwitch i) s = .next t ∧ (insGet t i.val).switch_ = true ∧ (insGet t i.val).sel = x.sel) ∧
     (boundary → x.reset = true → x.late = 0 → s.twn.jbuf.length < 4096 →
       ∃ t, exec (.instanceResetApply i) s = .next t ∧ (insGet t i.val).reset = false ∧ (insGet t i.val).lot = x.lot + 1 ∧
         (s.che.ten = false → s.cyc.jrn = [] → t.twn.jbuf = (if inSync s = true ∧ ownsInst s i.val = true then
           s.twn.jbuf ++ [⟨.lot, s.twn.txseq, BitVec.ofNat 56 i.val, 0, (x.lot + 1).setWidth 64⟩] else s.twn.jbuf)) ∧
         ∀ n : Nat, 1 ≤ n → n ≤ 384 → (srcGet s n).inst.toNat = i.val →
           (srcGet t n).count = 0 ∧ (srcGet t n).acc = 0 ∧ (srcGet t n).timer = 0) ∧
     (boundary → x.sweep = true → x.late = 0 → s.cyc.stalled = false → (sweepNow s i.val).cyc.stalled = true →
       ∃ t, exec (.sweepApply i) s = .next t ∧ (insGet t i.val).sweep = true ∧ t.che = s.che) ∧
     (boundary → x.sweep = true → x.late = 0 → (sweepNow s i.val).cyc.stalled = false →
       ∃ t, exec (.sweepApply i) s = .next t ∧ (insGet t i.val).sweep = false ∧ t.che.descq = s.che.descq ∧
         ∀ b y, chainOf s b = some y → y.st = .owned → y.lot ≠ x.lot →
           x.first.toNat ≤ y.chan.val ∧ y.chan.val < x.first.toNat + x.chans.toNat →
           (∀ p ∈ s.ins.i, p.1 ≠ i.val → p.2.en = true →
             ¬ (p.2.first.toNat ≤ y.chan.val ∧ y.chan.val < p.2.first.toNat + p.2.chans.toNat)) →
           chainOf t b = none ∧ ∀ n ∈ y.bufs, n < poolBufs s → tfind t.che.owner n = none) ∧
     (boundary → x.switch_ = true → x.late = 0 → x.drain = none → (∀ m ∈ s.ins.marks, m.inst ≠ i) →
       ∃ t, exec (.bitmapSwitchApply i) s = .next t ∧ (insGet t i.val).sel = !x.sel ∧ (insGet t i.val).switch_ = false ∧
         ∀ q ∈ t.ins.filter, q.1 ≠ i)) ∧
  (∀ (s : State) (m : Mark) (r : List Mark) (rd : Ecc), fclkOn s = true → s.ins.marks = m :: r →
     let x := insGet s m.inst.val
     let pa := x.dmap + BitVec.ofNat 44 ((if m.sel then x.trklen.toNat * 64 else 0) + m.n / 64 * 8)
     let o := winOff s pa
     let w := o / 8
     let word := leNat (mread spadDefault s.spc.mem o 8)
     let mine := (List.range 8).map (· + o)
     let serves := slotOwner (slotAt s.wvl.warp (2 * (w % 64)) s.wvl.slot.toNat) = 73 ∧ ∀ u ∈ s.cyc.used, u.tbl / 2 ≠ w % 64
     inWindow s pa = true → pa.toNat % 8 = 0 → s.wvl.spwin.toNat % 8 = 0 → s.spc.bad = [] → rd ≠ .uncorrectable →
     (w % 64, 73) ∉ s.spc.paths → (∀ y ∈ s.cyc.wrote, y.word ≠ w) → firstRefused s 73 .every false mine = none →
     (word.testBit (m.n % 64) = true → (serves ∨ (73, w) ∈ s.spc.prog) →
       ∃ t, exec (.dirtyMark rd) s = .next t ∧ t.ins.marks = r ∧ t.spc.mem = s.spc.mem ∧ (insGet t m.inst.val).head = x.head) ∧
     (word.testBit (m.n % 64) = false → serves → (73, w) ∉ s.spc.prog → s.cyc.stalled = false → s.cyc.base = none →
       ∃ t, exec (.dirtyMark rd) s = .next t ∧ t.ins = s.ins ∧ t.spc.mem = s.spc.mem ∧ (73, w) ∈ t.spc.prog) ∧
     (word.testBit (m.n % 64) = false → serves → (73, w) ∈ s.spc.prog → firstRefused s 73 .every true mine = none → x.rlog = 0 →
       ∃ t l, exec (.dirtyMark rd) s = .next t ∧ t.ins.marks = r ++ l ∧
         leNat (mread spadDefault t.spc.mem o 8) = word + 2 ^ (m.n % 64) ∧
         ∀ b : Nat, b < o ∨ o + 8 ≤ b → tget spadDefault t.spc.mem b = tget spadDefault s.spc.mem b))

/-- 17 R389, R392, R395: a write of `NVC.CMD` begins a command with its operands as they stand, and is refused while one runs; the settings
shadow takes words from the fifth on; the poll begins the command that a granted slot asks for, once its word has been read. 17 R387,
R389, R390, R393, R396: when a command completes it has done its work and BUSY clears. ERASE leaves its sector reading 0xFF; PROGRAM
writes the scratchpad's bytes; STORE writes a settings record with the next SEQ to the copy that is not current; LOCK closes the key
area; a command whose operands were wrong changes no byte and reports its error, and an ERASE, PROGRAM or READ of no bytes changes none.
17 R402: the oldest health-log record is written to its place in the ring, numbered, its sector erased before the sector's first record;
every other cell stands. Where the manual leaves a choice or is read by inference, the clauses follow the model's log 6 and 12. -/
def Obligations.NvmAndHealthLog : Prop :=
  (∀ (s : State) (w : Fin 1024) (v : Word) (i : InstNo) (bs : List Byte), clkOn s .mgclk = true →
     let n := s.nvc
     (∀ x ∈ [(Instr.store, NvmOp.store), (.erase, .erase), (.program, .program), (.read, .read), (.tagw, .tagw), (.lock, .lock)],
       (n.busy = false → ∃ t c, exec x.1 s = .next t ∧ t = { s with nvc := { n with busy := true, cmd := some c } } ∧ c.op = x.2 ∧
         c.addr = n.addr.toNat ∧ c.len = n.len.toNat ∧ c.spoff = n.spoff.toNat ∧ c.tagsel = n.tagsel.toNat ∧ c.slot = none ∧
         (x.2 = .store → c.image = n.shadow)) ∧
       (n.busy = true → exec x.1 s = .next (fresh { s with nvc := { n with cfgerr := true } } 0x2004 2))) ∧
     (4 ≤ w.val → exec (.nvcSetWrite w v) s = .next { s with nvc := { n with shadow := tset 0 n.shadow w.val v } }) ∧
     (w.val < 4 → exec (.nvcSetWrite w v) s = .next (fresh { s with nvc := { n with cfgerr := true } } 0x2004 2)) ∧
     (fclkOn s = true → n.busy = false → n.treqen = true → n.taggrant = BitVec.ofNat 64 (2 ^ i.val) →
       (mstRead s 72 .every (n.treqbase.toNat + 320 * i.val) 4).2 = some bs → (leNat bs).testBit 31 = true → leNat bs % 256 = 0x78 →
       ∃ t c, exec .tagRequestPoll s = .next t ∧ t.nvc.busy = true ∧ t.nvc.cmd = some c ∧ c.op = .tagw ∧ c.slot = some i ∧
         c.tagsel = leNat bs / 256 % 128 ∧ c.spoff = n.treqbase.toNat + 320 * i.val + 64 ∧ t.nvc.nvm = n.nvm)) ∧
  (∀ (s s1 u : State) (c : NvmCmd) (bs b : List Byte) (o k : Nat), clkOn s .mgclk = true → fclkOn s = true → s.nvc.cmd = some c →
     c.slot = none → Memory.wf nvmDefault s.nvc.nvm = true →
     let ended := fun (t : State) (err : BitVec 4) => t.nvc.busy = false ∧ t.nvc.done = true ∧ t.nvc.err = err ∧ t.nvc.cmd = none
     let cell := fun (t : State) (a : Nat) => tget nvmDefault t.nvc.nvm a
     let body := (List.range 1020).flatMap fun w => toBytes 4 (tget 0 c.image (w + 4)).toNat
     (c.err ≠ 0 → ∃ t, exec (.nvmCommandComplete true) s = .next t ∧ ended t c.err ∧ t.nvc.nvm = s.nvc.nvm) ∧
     (c.err = 0 → c.len = 0 → c.op = .erase ∨ c.op = .program ∨ c.op = .read →
       ∃ t, exec (.nvmCommandComplete true) s = .next t ∧ ended t 0 ∧ t.nvc.nvm = s.nvc.nvm ∧ t.spc = s.spc) ∧
     (c.err = 0 → c.op = .erase → c.len ≠ 0 → ∃ t, exec (.nvmCommandComplete true) s = .next t ∧ ended t 0 ∧
       ∀ a : Nat, cell t a = if a / 4096 = c.addr / 4096 then 0xFF#8 else cell s a) ∧
     (c.err = 0 → c.op = .program → c.len ≠ 0 → nvcGet s c.spoff c.len = (u, bs, true) → bs.length = c.len → u.nvc = s.nvc →
       ∃ t, exec (.nvmCommandComplete true) s = .next t ∧ ended t 0 ∧ (∀ j < c.len, cell t (c.addr + j) = bs.getD j 0) ∧
         ∀ a : Nat, a < c.addr ∨ c.addr + c.len ≤ a → cell t a = cell s a) ∧
     (c.err = 0 → c.op = .read → s.nvc.bad = [] → nvcSet s c.spoff (mslice nvmDefault s.nvc.nvm c.addr c.len) = (s1, true) → c.len ≠ 0 →
       s1.nvc = s.nvc →
       ∃ t, exec (.nvmCommandComplete true) s = .next t ∧ ended t 0 ∧ t.spc = s1.spc ∧ t.nvc.nvm = s.nvc.nvm) ∧
     (c.err = 0 → c.op = .store → s.nvc.setcur = true → s.nvc.rot0 < 8 →
       ∃ t, exec (.nvmCommandComplete true) s = .next t ∧ ended t 0 ∧ t.nvc.setseq = s.nvc.setseq + 1 ∧ t.nvc.setcur = false ∧
         (∀ j < 4096, cell t (0xC0000 + 4096 * s.nvc.rot0 + j) = (record setMagic (s.nvc.setseq + 1).toNat body).getD j 0) ∧
         ∀ a : Nat, a / 4096 ≠ 0xC0 + s.nvc.rot0 → cell t a = cell s a) ∧
     (c.err = 0 → c.op = .tagw → tagBody s = some b → tagEntry c.tagsel = some (o, k) → nvcGet s c.spoff k = (u, bs, true) → u.nvc = s.nvc →
       s.nvc.tagvalid = true → s.nvc.tagcur = false →
       ∃ t, exec (.nvmCommandComplete true) s = .next t ∧ ended t 0 ∧ t.nvc.tagcur = true ∧
         (∀ j < k, cell t (0xD2000 + o + j) = bs.getD j 0) ∧ ∀ a : Nat, a < 0xD2000 ∨ 0xD4000 ≤ a → cell t a = cell s a) ∧
     (c.err = 0 → c.op = .lock → nvmRead s 0xF4080 4 = some [0xFF, 0xFF, 0xFF, 0xFF] →
       ∃ t, exec (.nvmCommandComplete true) s = .next t ∧ ended t 0 ∧ t.nvc.keylock = true ∧
         ∀ a : Nat, cell t a = if 0xF4080 ≤ a ∧ a < 0xF4084 then 0 else cell s a)) ∧
  (∀ (s : State) (x : LogRec) (r : List LogRec), clkOn s .mgclk = true → s.nvc.busy = false → s.hlt.logq = x :: r →
     let k := s.hlt.lognum.toNat % 4096
     let a := 0xD4000 + 32 * k
     ∃ t, exec (.healthLogAppend true) s = .next t ∧ t.hlt.logq = r ∧ t.hlt.lognum = s.hlt.lognum + 1 ∧
       (∀ j < 32, tget nvmDefault t.nvc.nvm (a + j) = (logBytes s.hlt.lognum x).getD j 0) ∧
       (∀ b : Nat, b < a ∨ a + 32 ≤ b → tget nvmDefault t.nvc.nvm b =
         if k % 128 = 0 ∧ b / 4096 = a / 4096 then 0xFF#8 else tget nvmDefault s.nvc.nvm b))

/-- 17 R399, R406: a corrected error is counted against its engine or bank; the count that passes the threshold raises source 364 and makes
a FAST device FADING; a window's end clears the counts; CLEAR makes a FADING device FAST at the end of its cycle, unless a threshold was
crossed in that cycle, and is refused elsewhere. 17 R397: what an uncorrectable or parity error comes to in each structure; in the path
of a bank it spoils what was returned to the master, or else the master's next read there. 17 R400, R401: an engine whose errors pass
the retirement threshold, or that `HLT.RETIRE` names with GO, is retired: it issues no more and its bit is set; as the cycle ends the
retirements in it form one key, and the plan with that key is read; a bank word found bad twice moves to a spare while its bank has one.
Where the manual leaves a choice or is read by inference, the clauses follow the model's log 17 and 27. -/
def Obligations.ErrorsAndRetirement : Prop :=
  (∀ (s : State) (e : Eng) (b : Fin 64), clkOn s .mgclk = true →
     let h := s.hlt
     (h.cewin ≠ 0 → h.cethr = 0 ∨ (tget 0 h.cecnt e.val).toNat < h.cethr.toNat →
       h.retthr = 0 ∨ (tget 0 h.cecnt e.val).toNat < h.retthr.toNat →
       exec (.correctedError (.engine e)) s =
         .next { s with hlt := { h with cecnt := tset 0 h.cecnt e.val (satAdd (tget 0 h.cecnt e.val) 1) } }) ∧
     (h.cewin ≠ 0 → h.cethr = 0 ∨ (tget 0 h.bank b.val).toNat < h.cethr.toNat →
       exec (.correctedError (.bank b)) s =
         .next { s with hlt := { h with bank := tset 0 h.bank b.val (satAdd (tget 0 h.bank b.val) 1) } }) ∧
     (h.cewin ≠ 0 → h.cethr ≠ 0 → h.cethr ≠ 0xFFFF#16 → tget 0 h.bank b.val = h.cethr → h.state = 0 → (srcGet s 364).carry ≠ 0xFFFF#16 →
       ∃ t, exec (.correctedError (.bank b)) s = .next t ∧ t.hlt.state = 1 ∧
         (srcGet t 364).carry = (srcGet s 364).carry + 1 ∧ tget 0 t.hlt.bank b.val = h.cethr + 1) ∧
     (h.cewin ≠ 0 → ∃ t, exec .healthWindowEnd s = .next t ∧ t.hlt = { h with cecnt := [], bank := [] }) ∧
     (h.state = 1 → exec .hltCtlClear s = .next { s with cyc := { s.cyc with clear := true } }) ∧
     (h.state = 1 → s.cyc.clear = true → s.cyc.crossed = false → (clearNow s).hlt.state = 0) ∧
     (s.cyc.clear = true → s.cyc.crossed = true → (clearNow s).hlt = { h with cfgerr := true }) ∧
     (h.state ≠ 1 → exec .hltCtlClear s = .next (fresh { s with hlt := { h with cfgerr := true } } 0x70000 4))) ∧
  (∀ (s : State) (e : Eng) (w : BitVec 21) (f : Fin 512) (c : CLine) (p : PortNo) (x : Ledger) (b : Fin 64) (m : BitVec 8), eclkOn s = true → s.hlt.cewin = 0 →
     let g := engGet s e
     (∃ t, exec (.uncorrectableError (.scratchpad w)) s = .next t ∧ w.toNat ∈ t.spc.bad ∧ t.spc.mem = s.spc.mem) ∧
     (tfind g.m.ic f.val = some c → exec (.uncorrectableError (.icache e f)) s =
       .next (engPut s e { g with m := { g.m with ic := tdel g.m.ic f.val } })) ∧
     (tfind g.m.dc f.val = some c → c.dirty = 0 → exec (.uncorrectableError (.dcache e f)) s =
       .next (engPut s e { g with m := { g.m with dc := tdel g.m.dc f.val } })) ∧
     (tfind g.m.dc f.val = some c → c.dirty ≠ 0 → ∃ t, exec (.uncorrectableError (.dcache e f)) s = .next t ∧
       tfind (engGet t e).m.dc f.val = none ∧ (engGet t e).mcheck = g.mcheck ++ [1] ∧ regGet t e = regGet s e) ∧
     (engExists s e.val = true →
       (∃ t, exec (.uncorrectableError (.engineSram e)) s = .next t ∧ (engGet t e).mcheck = g.mcheck ++ [1]) ∧
       ∃ t, exec (.uncorrectableError (.enginePath e)) s = .next t ∧ (engGet t e).mcheck = g.mcheck ++ [2]) ∧
     (fclkOn s = true →
       (m ∈ s.spc.served.map (·.1) → exec (.uncorrectableError (.bankPath b m)) s = .next { s with spc := { s.spc with
         served := s.spc.served.map fun q => if q.1 = m then (m, none) else q } }) ∧
       (m ∉ s.spc.served.map (·.1) → exec (.uncorrectableError (.bankPath b m)) s =
         .next { s with spc := { s.spc with paths := s.spc.paths ++ [(b.val, m.toNat)] } })) ∧
     (∀ v : Nat, (v % 64, m.toNat) ∈ s.spc.paths → (bankRead s m.toNat v .good).2 = false) ∧
     (portOn s p = true → (ibfGet s p.val).st = .active →
       ∃ t, exec (.uncorrectableError (.retry p)) s = .next t ∧ (ibfGet t p.val).st = .train) ∧
     (fclkOn s = true → ledgerFind s x.group x.key = some x →
       exec (.uncorrectableError (.ledger x.group x.key)) s =
         .next { s with che := { s.che with ledger := s.che.ledger.filter fun y => y.id ≠ x.id } })) ∧
  (∀ (s : State) (e : Eng) (w : BitVec 21), clkOn s .mgclk = true →
     let retired := fun (c : Instr) => ∃ t, exec c s = .next t ∧ t.hlt.retired = setBit s.hlt.retired e.val true ∧
       (engGet t e).retired = true ∧ ((engGet s e).st ≠ .unreleased → (engGet t e).st = .stopped) ∧ t.spc = s.spc
     (engExists s e.val = true → s.hlt.retired.getLsbD e.val = false →
       (fclkOn s = true → s.hlt.retthr ≠ 0 → s.hlt.retthr.toNat < (tget 0 s.hlt.cecnt e.val).toNat → retired (.engineRetirement e)) ∧
       retired (.hltRetire (BitVec.ofNat 32 (2 ^ 31 + e.val)))) ∧
     (∀ i, s.cyc.key = true → (bitsOf s.hlt.retired).length ≤ 4 → s.hlt.noplans = false → findPlan s (keyOf s) = some i →
       (endKey s).wvl.planRead = some i ∧ (endKey s).wvl.planReady = none ∧ (endKey s).hlt = s.hlt) ∧
     (engExists s e.val = false → exec (.hltRetire (BitVec.ofNat 32 (2 ^ 31 + e.val))) s =
       .next (fresh { s with hlt := { s.hlt with cfgerr := true } } 0x70000 4)) ∧
     (fclkOn s = true → w.toNat ∈ s.spc.scrubTwo → (tget 0 s.hlt.spares (w.toNat % 64)).toNat < 16 →
       ∃ t, exec (.bankWordRetirement w .twoScrubs) s = .next t ∧
         tget 0 t.hlt.spares (w.toNat % 64) = tget 0 s.hlt.spares (w.toNat % 64) + 1 ∧ w.toNat ∉ t.spc.scrubTwo ∧
         t.spc.mem = s.spc.mem ∧ (t.hlt.state = 2 ∨ s.hlt.state = 3)) ∧
     (fclkOn s = true → w.toNat ∈ s.spc.scrubTwo → 16 ≤ (tget 0 s.hlt.spares (w.toNat % 64)).toNat →
       ∃ t, exec (.bankWordRetirement w .twoScrubs) s = .next t ∧ t.hlt.nospare = true ∧ t.hlt.spares = s.hlt.spares ∧
         t.spc.mem = s.spc.mem))

/-- 18 R409, R412, R413: a read of a counter's low word returns it as it stood when the cycle began and captures the high bits for the
reader; a write of the high bits waits for the write of the low word, which sets both, over what a lower master wrote in the cycle, and
what the cycle counts after it is lost; counters 600 to 639 ignore writes. 18 R411, R414-R416: at a window's boundary each meter's count
becomes its bandwidth and the meters restart. At a freeze the counters are copied with the time and number, as they stand when the cycle
ends; while a swatch is written, or with the ring full, the freeze is dropped. The next line of a swatch for memory, with number, drops,
time, device and K or with eight counters and their overflow bits, becomes a line write of master 71 in a slot of its port's output; a
swatch whose lines are all written advances HEAD; one that ends with an error counts as dropped, with the drops it was to report. Where
the manual leaves a choice or is read by inference, the clauses follow the model's log 18. -/
def Obligations.PerformanceMonitor : Prop :=
  (∀ (s : State) (src : IoSrc) (c : Fin 640) (v : Word), fclkOn s = true → srcActs s src = true → viewOf s src = .manager →
     let m := masterOf src
     let x := (tfind s.cyc.pmuOld c.val).getD (tget 0 s.pmu.cnt c.val)
     let y := pmuMst s m
     exec (.pmuCntloRead src c) s = .next { pmuMstPut s m { y with cap := fld x 32 16, capOf := some c.val } with
       lastRead := fld x 0 32 } ∧
     (c.val < 600 → exec (.pmuCnthiWrite src c v) s = .next (pmuMstPut s m { y with stage := v.setWidth 16 })) ∧
     (c.val < 600 → (∀ q, tfind s.cyc.pmuSet c.val = some q → q.1 ≤ m) →
       ∃ t, exec (.pmuCntloWrite src c v) s = .next t ∧ tget 0 t.pmu.cnt c.val = y.stage ++ v ∧
         (∀ k : Nat, k ≠ c.val → tget 0 t.pmu.cnt k = tget 0 s.pmu.cnt k) ∧ (pmuMst t m).stage = 0 ∧
         ∀ n : Nat, tget 0 (pmuAdd t c.val n).pmu.cnt c.val = y.stage ++ v) ∧
     (∀ q, c.val < 600 → tfind s.cyc.pmuSet c.val = some q → m < q.1 →
       ∃ t, exec (.pmuCntloWrite src c v) s = .next t ∧ t.pmu.cnt = s.pmu.cnt ∧ (pmuMst t m).stage = 0) ∧
     (600 ≤ c.val → exec (.pmuCntloWrite src c v) s = .next s ∧ exec (.pmuCnthiWrite src c v) s = .next s)) ∧
  (∀ (s : State) (x : Swatch) (port : Nat) (id : Nat), fclkOn s = true →
     let p := s.pmu
     let due := p.k ≠ 0 ∧ p.rlog ≠ 0 ∧ s.tmr.gtime.toNat % 2 ^ p.k.toNat = 0
     let size := 2 ^ p.rlog.toNat
     let full := (p.head.toNat + 4096 - p.tail.toNat) % size = size - 1
     let n := x.line
     let pa := p.ring + BitVec.ofNat 44 (5184 * p.head.toNat + 64 * n)
     let next := p.ring + BitVec.ofNat 44 (5184 * p.head.toNat + 64 * (n + 1))
     let y := mptGet s port
     let z := slotAt s.wvl.warp (128 + port) s.wvl.slot.toNat
     (p.winNext = none → p.win ≠ 0 → s.tmr.gtime.toNat % (p.win.toNat * 1024) = 0 →
       ∃ t, exec .bandwidthWindowEnd s = .next t ∧ t.pmu.meter = [] ∧ t.pmu.win = p.win ∧
         ∀ k < 13, tget 0 t.pmu.bw k = tget 0 p.meter k ∧
           (tget 0 t.pmu.bwpeak k).toNat = max (tget 0 p.bwpeak k).toNat (tget 0 p.meter k).toNat) ∧
     (due → p.shadow = none → ¬ full →
       ∃ t y, exec .freeze s = .next t ∧ t.pmu.shadow = some y ∧ y.cnt = p.cnt ∧ y.time = s.tmr.gtime ∧ y.num = p.swnum ∧
         y.drops = p.sinceDrops ∧ y.line = 0 ∧ t.pmu.swnum = p.swnum + 1 ∧ t.pmu.cnt = p.cnt ∧ t.cyc.frozen = true) ∧
     (s.cyc.frozen = true → p.shadow = some x → (endFreeze s).pmu.shadow = some { x with cnt := p.cnt, ovf := p.ovf }) ∧
     (due → (p.shadow.isSome = true ∨ full) →
       ∃ t, exec .freeze s = .next t ∧ t.pmu.shadow = p.shadow ∧ t.pmu.drops = satAdd p.drops 1 ∧
         t.pmu.sinceDrops = satAdd p.sinceDrops 1 ∧ t.pmu.swnum = p.swnum + 1 ∧ t.pmu.drop = true) ∧
     (p.shadow = some x → s.cyc.frozen = false → x.bad = false → n ≤ 80 → inWindow s pa = false → inWindow s next = false →
       decodePort s pa = some port → decodePort s next = some port → y.en = true → freeId y = some id → y.reqq.length < 16 →
       (slotOwner z = 71 ∨ slotLend z = 71) → (∀ u ∈ s.cyc.used, u.tbl ≠ 128 + port) →
       ∃ t q, exec (.swatchWrite false) s = .next t ∧ t.pmu.shadow = some { x with line := n + 1, wait := x.wait + 1 } ∧
         (mptGet t port).reqq = y.reqq ++ [q] ∧ q.write = true ∧ q.line = lineOf pa ∧ q.mst = 71 ∧ q.mask = BitVec.allOnes 64 ∧
         (n = 0 → flitNat q.data 0 4 = x.num.toNat ∧ flitNat q.data 4 2 = x.drops.toNat ∧ flitNat q.data 6 2 = 0 ∧
           flitNat q.data 8 8 = x.time.toNat ∧ flitNat q.data 16 2 = s.cpx.devid.toNat ∧ flitNat q.data 18 1 = x.k.toNat ∧
           flitNat q.data 19 45 = 0) ∧
         ∀ j < 8, n ≠ 0 → flitNat q.data (8 * j) 8 =
           (tget 0 x.cnt (8 * (n - 1) + j)).toNat + if x.ovf.getLsbD (8 * (n - 1) + j) then 2 ^ 48 else 0) ∧
     (p.shadow = some x → s.cyc.frozen = false → x.bad = false → x.wait = 0 → n = 81 →
       ∃ t, exec (.swatchWrite false) s = .next t ∧ t.pmu.shadow = none ∧
         t.pmu.head = BitVec.ofNat 12 ((p.head.toNat + 1) % size)) ∧
     (p.shadow = some x → s.cyc.frozen = false → x.wait = 0 →
       ∃ t, exec (.swatchWrite true) s = .next t ∧ t.pmu.shadow = none ∧ t.pmu.dumperr = true ∧ t.pmu.head = p.head ∧
         t.pmu.drops = satAdd p.drops 1 ∧ t.pmu.sinceDrops = satAdd (satAdd p.sinceDrops x.drops.toNat) 1))

/-- 19 R418-R420, R432: a power-on reset puts the block at its reset values with the straps sampled, and keeps what the NVM holds; a warm
reset also keeps the scratchpad and the time; after a loss of supply only a power-on reset acts. 17 R393, R396, 19 R420-R423: step 2
reads the NVM: without a valid settings record the settings stay at their reset values; step 3 clears the scratchpad at a power-on
reset, retires what fails, and lets the Ibfel ports train; the test strap halts the order until CONT. Where the manual leaves a choice
or is read by inference, the clauses follow the model's log 6, 12 and 19. -/
def Obligations.ResetAndStartUp : Prop :=
  (∀ (s : State) (straps : Straps),
     (∃ t, exec (.poresetN straps) s = .next t ∧ t.power = true ∧ t.cpx.straps = straps ∧ t.cpx.devid = straps.devid ∧
       t.wvl.src = straps.boot ∧ t.wvl.state = 0 ∧ t.eng = [] ∧ t.spc = State.reset.spc ∧ t.che = State.reset.che ∧
       t.ibf = State.reset.ibf ∧ t.tmr = State.reset.tmr ∧ t.hlt = State.reset.hlt ∧ t.pmu = State.reset.pmu ∧
       t.twn.role = straps.twin ∧ t.cpx.step = (if s.stopped.contains .aonclk then 0 else 1) ∧
       (s.nvc.cmd = none → t.nvc.nvm = s.nvc.nvm)) ∧
     (s.power = true → s.nvc.cmd = none →
       ∃ t, exec (.wresetN straps) s = .next t ∧ t.spc.mem = s.spc.mem ∧ t.tmr.gtime = s.tmr.gtime ∧ t.wvl.src = s.wvl.src ∧
         t.cpx.warm = true ∧ t.nvc.nvm = s.nvc.nvm ∧ t.eng = [] ∧ t.evg.src = State.reset.evg.src ∧ t.hlt = State.reset.hlt) ∧
     (s.power = true → s.nvc.cmd = none → exec .powerLoss s = .next { s with power := false }) ∧
     (s.power = false → exec (.wresetN straps) s = .next s ∧ exec .powerLoss s = .next s)) ∧
  (∀ (s : State) (w : BitVec 21),
     (clkOn s .mgclk = true → s.cpx.step = 1 → bestRecord s (List.range 16) = none →
       ∃ t, exec .startUpNvmRead s = .next t ∧ t.cpx.step = 2 ∧ t.nvc.nvm = s.nvc.nvm ∧ t.hlt.cethr = s.hlt.cethr ∧
         t.cpx.devid = s.cpx.devid ∧ t.nvc.keylock = keyLocked s ∧ t.hlt.lognum = nextLogNum s ∧ t.twn = s.twn) ∧
     (∀ k q bs, clkOn s .mgclk = true → s.cpx.step = 1 → bestRecord s (List.range 16) = some (k, q, bs) →
       ∃ t, exec .startUpNvmRead s = .next t ∧ t.cpx.step = 2 ∧ t.nvc.setvalid = true ∧ t.nvc.setcur = decide (8 ≤ k) ∧
         t.nvc.setseq = BitVec.ofNat 32 q ∧
         t.cpx.devid = (if (wordAt bs 0x10).testBit 12 then BitVec.ofNat 12 (wordAt bs 0x10) else s.cpx.devid)) ∧
     (fclkOn s = true → s.cpx.step = 2 → s.cpx.warm = false →
       (∃ t, exec (.bist []) s = .next t ∧ t.cpx.step = 3 ∧ t.spc.mem = [] ∧ t.spc.bad = [] ∧ t.cpx.bistrun = true ∧
         t.cpx.bistfail = s.cpx.bistfail ∧ t.cpx.testhold = s.cpx.straps.test ∧
         ∀ p < 4, (ibfGet s p).en = true → (ibfGet s p).dead = false → (ibfGet t p).st = .train) ∧
       ((tget 0 s.hlt.spares (w.toNat % 64)).toNat < 16 →
         ∃ t, exec (.bist [.word w]) s = .next t ∧
           tget 0 t.hlt.spares (w.toNat % 64) = tget 0 s.hlt.spares (w.toNat % 64) + 1) ∧
       ∃ t, exec (.bist [.other]) s = .next t ∧ t.cpx.bistfail = true) ∧
     (fclkOn s = true → s.cpx.step = 2 → s.cpx.warm = true → s.cpx.bistDone = true → s.cpx.wbist = false →
       ∃ t, exec (.bist []) s = .next t ∧ t.cpx.step = 3 ∧ t.spc = s.spc ∧ t.cpx.bistrun = s.cpx.bistrun) ∧
     (fclkOn s = true → exec .cpxBootctlCont s = .next { s with cpx := { s.cpx with testhold := false } }))

/-- 19 R426, R430, R431: at the release every existing engine that is not retired begins at its BOOT address in the boot state; a stopped
engine keeps its registers and restarts at `ENG.RESTARTPC`. 19 R427-R429, 10 R240, R243: with REQ set and every condition met the
complex enters deep idle; an AONCLK cycle there moves the time by 1,000, an asserted level source with EN requests the wake, an edge is
kept once in its AONCLK period, and the wake leaves deep idle. Where the manual leaves a choice or is read by inference, the clauses
follow the model's log 9, 19 and 27. -/
def Obligations.EngineControlAndIdle : Prop :=
  (∀ (s : State) (e : Eng), eclkOn s = true →
     let g := engGet s e
     let boot := tget 0 s.wvl.boot e.val
     (fclkOn s = true → s.cpx.releaseDue = true → s.wvl.slot = 0 → s.wvl.frame ≠ 0 →
       ∃ t, exec .engineRelease s = .next t ∧ t.cpx.step = s.cpx.step ∧ t.cpx.releaseDue = false ∧
         (engExists s e.val = true → g.retired = false → g.st = .unreleased →
           (engGet t e).st = .running ∧ (regGet t e).pc = boot ∧ (regGet t e).priv = 2 ∧ (regGet t e).mask = 15 ∧
           (regGet t e).ds = [] ∧ (regGet t e).rs = [] ∧ (regGet t e).sp.lrvec = boot) ∧
         (engExists s e.val = false → engGet t e = g)) ∧
     (g.st = .running ∨ g.st = .sleeping → g.retired = false → g.wrong = none → g.ra = none →
       ∃ t, exec (.engRunctlStop e) s = .next t ∧ (engGet t e).st = .stopped ∧ (engGet t e).lrstop = false ∧
         (regGet t e).ds = g.r.ds ∧ (engGet t e).stoppc = g.stoppc ∧ t.evg.stops.getLsbD e.val = true ∧ t.spc = s.spc) ∧
     (g.st = .stopped → g.retired = false →
       ∃ t, exec (.engRunctlRestart e) s = .next t ∧ (engGet t e).st = .running ∧ (regGet t e).pc = g.restartpc ∧
         (engGet t e).restartpc = boot ∧ (regGet t e).priv = 2 ∧ (regGet t e).mask = 15 ∧ (regGet t e).ds = [] ∧
         (engGet t e).m.dc = g.m.dc ∧ (engGet t e).v = g.v ∧ (engGet t e).m.dtlb = [] ∧ t.spc = s.spc) ∧
     (g.st = .stopped → exec (.engRunctlStop e) s = .next (fresh { s with cpx := { s.cpx with cfgerr := true } } 0x04 0)) ∧
     (g.st = .running → exec (.engRunctlRestart e) s = .next (fresh { s with cpx := { s.cpx with cfgerr := true } } 0x04 0))) ∧
  (∀ (s : State) (req : Bool) (w : BitVec 8),
     (fclkOn s = true → exec (.cpxIdleReq req) s = .next { s with cpx := { s.cpx with idleReq := req } }) ∧
     (fclkOn s = true → s.cpx.idleReq = true → idleReady s = true →
       exec .deepIdleEntry s = .next { s with cpx := { s.cpx with deepIdle := true, wakeReq := false } }) ∧
     (clkOn s .aonclk = true → s.cpx.deepIdle = true →
       (∃ t, exec (.aonWakeRequest .tick) s = .next t ∧ t.tmr.gtime = s.tmr.gtime + 1000 ∧ t.cpx.deepIdle = true) ∧
       ((srcGet s (w.toNat + 1)).en = true → (srcGet s (w.toNat + 1)).sense = 0 →
         ∃ t, exec (.aonWakeRequest (.level w true)) s = .next t ∧ t.cpx.wakeReq = true ∧ t.evg.input.getLsbD w.toNat = true) ∧
       ((srcGet s (w.toNat + 1)).en = true → (srcGet s (w.toNat + 1)).sense = 2 → s.evg.input.getLsbD w.toNat = false →
         s.evg.retNow.getLsbD w.toNat = false →
         ∃ t, exec (.aonWakeRequest (.edge w true)) s = .next t ∧ t.cpx.wakeReq = true ∧
           t.evg.ret = s.evg.ret ++ [w] ∧ t.evg.retNow.getLsbD w.toNat = true) ∧
       (clkOn s .fclk = true → s.cpx.wakeReq = true → ∃ t, exec .wake s = .next t ∧ t.cpx.deepIdle = false ∧
         t.cpx.idleReq = false ∧ t.wvl.slot = 0 ∧ t.evg.ret = [] ∧ t.evg.retained = true ∧ t.spc = s.spc)))

/-- 20 R439, R441, R448: a read's response ends its transaction and lands in the fill it was for; an error response is reported, counted,
and the fill fails; a response that answers nothing sets PROTO; while FCLK stands a response waits at its crossing; a request that is
never answered times out. 20 R445, R446: the host initiator's write completes with its response, a read with its two beats, bytes 0 to
31 first; an initiator request times out like a memory port's; the doorbell raises source 360. Where the manual leaves a choice or is
read by inference, the clauses follow the model's log 20. -/
def Obligations.PortTransactions : Prop :=
  (∀ (s : State) (p : PortNo) (q : MpReq) (e : Eng) (side : CacheSide) (f : Fill) (err : BitVec 2) (data : LineData),
     clkOn s (.mpclk p) = true →
     let x := mptGet s p.val
     let others := x.out.filter fun r => r.id != q.id
     (∀ w late, fclkOn s = false → exec (.memoryPortResponse p q.id w err late data) s =
       .next (mptPut s p.val { x with rspq := x.rspq ++ [⟨q.id, w, err, late, data⟩] })) ∧
     (fclkOn s = true → x.rspq = [] → outstanding x q.id = some q → q.write = false → q.timedOut = false → q.owner = .fill e side → fillOf (engGet s e) side q.line = some f →
       (∃ t g, exec (.memoryPortResponse p q.id false 0 false data) s = .next t ∧ (mptGet t p.val).out = others ∧
         fillOf (engGet t e) side q.line = some g ∧ g.st = .landed data ∧ regGet t e = regGet s e ∧ t.spc = s.spc) ∧
       (err ≠ 0 → ∃ t g, exec (.memoryPortResponse p q.id false err false data) s = .next t ∧ (mptGet t p.val).out = others ∧
         fillOf (engGet t e) side q.line = some g ∧ g.st = .failed ∧ (mptGet t p.val).err = true ∧
         (mptGet t p.val).errcnt = satAdd x.errcnt 1 ∧ (mptGet t p.val).erraddr = q.line ∧ (mptGet t p.val).errcode = err)) ∧
     (∀ w, fclkOn s = true → x.rspq = [] → outstanding x q.id = none → ∃ t, exec (.memoryPortResponse p q.id w err false data) s = .next t ∧
       (mptGet t p.val).proto = true ∧ (mptGet t p.val).out = x.out ∧ t.eng = s.eng) ∧
     (fclkOn s = true → x.reqq = [] → x.tmoLim ≠ 0 → x.out = [q] → q.timedOut = false → q.owner = .fill e side →
       fillOf (engGet s e) side q.line = some f →
       ∃ t g, exec (.memoryPortTimeout p q.id) s = .next t ∧ (mptGet t p.val).tmo = true ∧
         (mptGet t p.val).tmocnt = satAdd x.tmocnt 1 ∧ fillOf (engGet t e) side q.line = some g ∧ g.st = .failed)) ∧
  (∀ (s : State) (q : MpReq) (e : Eng) (f : Fill) (lo hi : BitVec 256) (v : Word), clkOn s .hpclk = true → fclkOn s = true →
     let x := mptGet s 4
     (x.rspq = [] → outstanding x q.id = some q → q.write = false → q.timedOut = false → q.owner = .fill e .data →
       fillOf (engGet s e) .data q.line = some f →
       (s.hpt.beat = none → exec (.hostInitiatorResponse q.id false 0 false lo) s =
         .next { s with hpt := { s.hpt with beat := some (q.id, lo, 0) } }) ∧
       (s.hpt.beat = some (q.id, lo, 0) →
         ∃ t g, exec (.hostInitiatorResponse q.id false 0 false hi) s = .next t ∧ t.hpt.beat = none ∧
           fillOf (engGet t e) .data q.line = some g ∧ g.st = .landed (hi ++ lo))) ∧
     (x.rspq = [] → s.hpt.beat = none → outstanding x q.id = some q → q.write = true → q.timedOut = false → q.owner = .other →
       exec (.hostInitiatorResponse q.id true 0 false lo) s =
         .next (mptPut s 4 { x with out := x.out.filter fun r => r.id != q.id })) ∧
     (x.reqq = [] → x.tmoLim ≠ 0 → x.out = [q] → q.timedOut = false → q.owner = .other →
       ∃ t, exec (.hostInitiatorTimeout q.id) s = .next t ∧ (mptGet t 4).tmo = true ∧
         (mptGet t 4).tmocnt = satAdd x.tmocnt 1 ∧ (mptGet t 4).erraddr = q.line) ∧
     exec (.hptDoorbell v) s = .next (raiseSrc s 360))

/-- 20 R444, 19 R428, 02 R40: with the slots it needs, a host-port request for the scratchpad is answered with the bytes its MASK names, or
writes exactly those; one that a region refuses is answered with ERR 1; one for I/O space reads or writes the register of its one group
of four bytes, and any other MASK is a decode error that accesses nothing. A request that is held stays in the queue; in deep idle it
requests the wake; of a seventeenth nothing is taken. Where the manual leaves a choice or is read by inference, the clauses follow the
model's log 5 and 20. -/
def Obligations.HostTargetServed : Prop :=
  ∀ (s s1 u : State) (addr : BitVec 20) (mask v : Word) (id : BitVec 4) (data : BitVec 256) (g : Fin 8), clkOn s .hpclk = true →
    let o := (addr.toNat % 2 ^ 19) * 32
    let os := ((List.range 32).filter fun k => mask.getLsbD k).map (· + o)
    let ws := (maskWords mask).map (o / 8 + ·)
    let named := fun (r : HostRsp) (l : List Byte) => ∀ k < 32, mask.getLsbD k = true → fld r.data (8 * k) 8 = l.getD k 0
    let reg : BitVec 24 := BitVec.ofNat 24 (addr.toNat * 32 + 4 * g.val)
    let s0 := fun (w : Bool) => busJoin s (.host w addr mask id data .good)
    (fclkOn s = true → 3 ≤ s.cpx.step.toNat → s.hpt.reqs = [] → s.hpt.rsp.length ≤ 15 →
      (addr.getLsbD 19 = true → s.hpt.ten = true → mask ≠ 0 → s.spc.bad = [] → (∀ x ∈ s.cyc.wrote, x.word ∉ ws) →
        (∀ w ∈ ws, (w % 64, 66) ∉ s.spc.paths) →
        (wordsServe (s0 false) 66 ws = (u, true) → firstRefused u 66 .every false os = none →
          ∃ t r, exec (.hostTargetRequest false addr mask id data .good) s = .next t ∧ t.hpt.rsp = s.hpt.rsp ++ [r] ∧ r.id = id ∧
            r.err = 0 ∧ named r (mread spadDefault s.spc.mem o 32) ∧ t.spc.mem = s.spc.mem ∧ t.hpt.reqs = []) ∧
        (wordsServe (s0 true) 66 (os.map (· / 8)).eraseDups = (u, true) → firstRefused u 66 .every true os = none →
          capturing s = false →
          ∃ t r, exec (.hostTargetRequest true addr mask id data .good) s = .next t ∧ t.hpt.rsp = s.hpt.rsp ++ [r] ∧ r.err = 0 ∧
            ∀ a : Nat, tget spadDefault t.spc.mem a =
              if o ≤ a ∧ a < o + 32 ∧ mask.getLsbD (a - o) = true then fld data (8 * (a - o)) 8 else tget spadDefault s.spc.mem a) ∧
        (∀ r0, wordsServe (s0 false) 66 ws = (u, true) → firstRefused u 66 .every false os = some r0 →
          ∃ t r, exec (.hostTargetRequest false addr mask id data .good) s = .next t ∧ t.hpt.rsp = s.hpt.rsp ++ [r] ∧ r.err = 1 ∧
            t.spc.mem = s.spc.mem ∧ t.spc.viol = true)) ∧
      (addr.getLsbD 19 = false → mask = BitVec.ofNat 32 (15 * 16 ^ g.val) →
        (ioGet (s0 false) .host reg = some (s1, v) → s1.hpt.rsp = s.hpt.rsp →
          ∃ t r, exec (.hostTargetRequest false addr mask id data .good) s = .next t ∧ t.hpt.rsp = s.hpt.rsp ++ [r] ∧ r.err = 0 ∧
            fld r.data (32 * g.val) 32 = v ∧ t.spc = s1.spc) ∧
        (ioGet (s0 false) .host reg = none →
          ∃ t, exec (.hostTargetRequest false addr mask id data .good) s = .next t ∧ t.hpt = (s0 false).hpt ∧ t.eng = s.eng) ∧
        (ioSet (s0 true) .host reg (fld data (32 * g.val) 32) = some s1 → s1.hpt.rsp = s.hpt.rsp →
          ∃ t r, exec (.hostTargetRequest true addr mask id data .good) s = .next t ∧ t.hpt.rsp = s.hpt.rsp ++ [r] ∧ r.err = 0 ∧
            t.spc = s1.spc)) ∧
      (addr.getLsbD 19 = false → (∀ k < 8, mask ≠ BitVec.ofNat 32 (15 * 16 ^ k)) →
        ∃ t r, exec (.hostTargetRequest true addr mask id data .good) s = .next t ∧ t.hpt.rsp = s.hpt.rsp ++ [r] ∧ r.err = 2 ∧
          t.spc = s.spc ∧ t.eng = s.eng)) ∧
    (∀ w, s.cpx.deepIdle = true → hostOut s < 16 →
      exec (.hostTargetRequest w addr mask id data .good) s = .next (wakeUp (s0 w))) ∧
    (∀ w, 16 ≤ hostOut s → exec (.hostTargetRequest w addr mask id data .good) s = .next s)

/-- 20 R455, R456, R459, 21 R463, R465: a debug access reads or writes the register at its address once the accesses before it are done and
MGCLK runs, unless the test access port is locked or the address is no multiple of 4; a register write from any source reaches its
register; in a slot of the bus an access where no register lies is recorded once, and a second one sets UNMULTI. 21 R463, R464, R466, 00
R6: what a write of the host does to a field of each type, in a slot of the bus: an RW field takes the bits written; an RO register
keeps its value, and a write-only one reads as 0; a W1C bit is cleared by a 1, but not when hardware has set it in the cycle; a reserved
encoding leaves its field and sets CFGERR; and what is written to a register that hardware counts in stands at the end of the cycle,
whatever hardware has counted meanwhile. 20 R439, R448, R454: a channel's oldest beat transfers while its clock runs; a clock stops and
resumes; Test-Logic-Reset selects the IDCODE instruction, whose data register holds the identification word; DBGSTAT shows the state of
a debug access. Where the manual leaves a choice or is read by inference, the clauses follow the model's log 11 and 20. -/
def Obligations.RegistersAndClocks : Prop :=
  (∀ (s s0 t : State) (src : IoSrc) (addr : BitVec 24) (v x : Word),
     let tap := fun (w : Bool) => { s.tap with ir := 3, addr := addr, write := w, din := v }
     let u := fun (w : Bool) => busJoin { s with tap := { tap w with busy := true, done := false, err := false } } .tap
     (clkOn s .tck = true → s.tap.busy = false → tapLocked s = true → ∀ w,
       exec (.tapDebugAccess addr w v) s = .next { s with tap := { tap w with err := true } }) ∧
     (clkOn s .tck = true → s.tap.busy = false → tapLocked s = false → addr.toNat % 4 ≠ 0 → ∀ w,
       exec (.tapDebugAccess addr w v) s = .next { s with tap := { tap w with done := false, err := true } }) ∧
     (clkOn s .tck = true → s.tap.busy = false → tapLocked s = false → addr.toNat % 4 = 0 → busOn s = true → s.hpt.reqs = [] →
       (clkOn s .mgclk = true →
         (ioSet (u true) .tap addr v = some t →
           exec (.tapDebugAccess addr true v) s =
             .next { t with tap := { t.tap with busy := false, done := true }, hpt := { t.hpt with reqs := [] } }) ∧
         (ioGet (u false) .tap addr = some (t, x) →
           exec (.tapDebugAccess addr false v) s =
             .next { t with tap := { t.tap with busy := false, done := true, data := x }, hpt := { t.hpt with reqs := [] } })) ∧
       (clkOn s .mgclk = false → ∀ w, exec (.tapDebugAccess addr w v) s = .next (u w))) ∧
     (fclkOn s = true → exec .cpxTapctlLock s = .next { s with cpx := { s.cpx with taplock := true } }) ∧
     (ioMade s src addr = true → ioSet s src addr v = some t → exec (.registerWrite src addr v) s = .next t) ∧
     (ioMade s src addr = true → ioRead s src addr = .unmapped → ioTry s src = some s0 →
       (s.cpx.unmapped = true → ∀ w, ∃ u, exec (.unmappedAccess src addr w) s = .next u ∧
         u.cpx = { s.cpx with unmulti := true } ∧ (w = false → u.lastRead = 0)) ∧
       (s.cpx.unmapped = false → ∀ w, ∃ u, exec (.unmappedAccess src addr w) s = .next u ∧ u.cpx.unmapped = true ∧
         u.cpx.unmmst = BitVec.ofNat 8 (match src with | .engine e => e.val | _ => 66) ∧
         u.cpx.unmaddr.setWidth 24 = addr ∧ u.cpx.unmaddr.getLsbD 24 = w ∧ u.spc = s.spc))) ∧
  (∀ (s s0 : State) (v : Word), ioTry s .host = some s0 →
     let keep := fun (b : Bool) (a k : Nat) => b && !(v.getLsbD k && !(freshBits s0 a).getLsbD k)
     (freshBits s0 0x1024 = 0 → ioSet s .host 0x1024 v = some { s0 with wvl := { s0.wvl with timeout := fld v 0 16 } }) ∧
     (freshBits s0 0x70008 = 0 → clkOn s0 .mgclk = true →
       ioSet s .host 0x70008 v = some { s0 with hlt := { s0.hlt with cethr := fld v 0 16 } }) ∧
     ioSet s .host 0x10 v = some s0 ∧ ioGet s .host 0x1040 = some (s0, 0) ∧
     ioSet s .host 4 v = some { s0 with cpx := { s0.cpx with
       cfgerr := keep s0.cpx.cfgerr 4 0, unmapped := keep s0.cpx.unmapped 4 1, unmulti := keep s0.cpx.unmulti 4 2 } } ∧
     (∃ t, ioSet s .host 0x50000 v = some t ∧ (mptGet t 0).err = keep (mptGet s0 0).err 0x50000 1 ∧
       (mptGet t 0).tmo = keep (mptGet s0 0).tmo 0x50000 2 ∧ (mptGet t 0).proto = keep (mptGet s0 0).proto 0x50000 4) ∧
     (freshBits s0 0x60010 = 0 →
       ((1 ≤ (fld v 0 5).toNat ∧ (fld v 0 5).toNat ≤ 9 ∨ fld v 0 5 = 31#5) →
         ∃ t, ioSet s .host 0x60010 v = some t ∧ t.pmu.k = s.pmu.k ∧ t.pmu.cfgerr = true) ∧
       ((fld v 0 5 = 0#5 ∨ 10 ≤ (fld v 0 5).toNat ∧ (fld v 0 5).toNat ≤ 30) →
         ∃ t, ioSet s .host 0x60010 v = some t ∧ t.pmu.k = fld v 0 5)) ∧
     (freshBits s0 0x2018 = 0 → clkOn s0 .mgclk = true → 74 ≤ (fld v 0 7).toNat →
       ∃ t, ioSet s .host 0x2018 v = some t ∧ t.nvc.tagsel = s.nvc.tagsel ∧ t.nvc.cfgerr = true) ∧
     (freshBits s0 0x1034 = 0 → 74 ≤ (fld v 0 8).toNat → (fld v 0 8).toNat ≤ 0xFE → fld v 8 8 = 0xFF#8 →
       ∃ t, ioSet s .host 0x1034 v = some t ∧ t.wvl.cfgerr = true ∧
         slotOwner (slotAt t.wvl.warpStg s.wvl.tabidx.toNat s.wvl.slotidx.toNat) =
           slotOwner (slotAt s.wvl.warpStg s.wvl.tabidx.toNat s.wvl.slotidx.toNat) ∧
         slotLend (slotAt t.wvl.warpStg s.wvl.tabidx.toNat s.wvl.slotidx.toNat) = 0xFF) ∧
     (freshBits s0 0x50024 = 0 → s0.cyc.sets = [] →
       ∃ t, ioSet s .host 0x50024 v = some t ∧ (mptGet t 0).errcnt = v ∧
         ∀ n : Word, (mptGet (endSets (mptPut t 0 { mptGet t 0 with errcnt := n })) 0).errcnt = v)) ∧
  (∀ (s : State) (c : ClockName) (p : PortNo),
     (clkOn s (.mpclk p) = true →
       exec (.channelTransfer (.mpReq p)) s = .next (mptPut s p.val { mptGet s p.val with reqq := (mptGet s p.val).reqq.drop 1 }) ∧
       exec (.channelTransfer (.mpData p)) s = .next (mptPut s p.val { mptGet s p.val with wdq := (mptGet s p.val).wdq.drop 1 })) ∧
     (clkOn s (.mpclk p) = false → exec (.channelTransfer (.mpReq p)) s = .next s) ∧
     (clkOn s .hpclk = true →
       exec (.channelTransfer .hpTrsp) s = .next { s with hpt := { s.hpt with rsp := s.hpt.rsp.drop 1 } }) ∧
     (c ∉ s.stopped → exec (.clockStop c) s = .next { s with stopped := c :: s.stopped }) ∧
     (c ∈ s.stopped → s.cpx.step ≠ 0 → exec (.clockResume c) s = .next { s with stopped := s.stopped.filter (· ≠ c) }) ∧
     (∃ t, exec .testLogicReset s = .next t ∧ t = { s with tap := { s.tap with ir := 1 } } ∧
       tapCapture t = (32, (0x3#4 ++ 0x5B64#16 ++ Config.tapMfr ++ 1#1 : Word))) ∧
     (s.tap.ir = 3 → tapCapture s = (32, s.tap.data)) ∧
     (s.tap.ir = 4 → (tapCapture s).1 = 8 ∧ (tapCapture s).2.getLsbD 0 = s.tap.busy ∧ (tapCapture s).2.getLsbD 1 = s.tap.done ∧
       (tapCapture s).2.getLsbD 2 = tapLocked s ∧ (tapCapture s).2.getLsbD 3 = (s.tap.err || tapLocked s)))
end

