-- ==== Sys2Proof/Laws/Fec.lean ====
section
/-! SUPPORT. The RS(544,514) code: symbols of value 0 before the rest of a word change no syndrome, and when a word is uncorrectable. -/

namespace Sys2Proof.Laws

open Sys2Proof.Machine

theorem gfMul_zero_left (b : Nat) : gfMul 0 b = 0 := by
  have h : ∀ l : List Nat, l.foldr (fun k r => gfNext r ^^^ (if b.testBit k then 0 else 0)) 0 = 0 := by
    intro l
    induction l with
    | nil => rfl
    | cons k l ih => rw [List.foldr_cons, ih]; simp [gfNext]
  exact h _

theorem foldl_zeros (a : Nat) : ∀ n : Nat, (List.replicate n 0).foldl (fun r c => gfMul r a ^^^ c) 0 = 0
  | 0 => rfl
  | n + 1 => by simp [List.replicate_succ, gfMul_zero_left, foldl_zeros a n]

theorem syndromes_zeros (n : Nat) (w : List Nat) : syndromes (List.replicate n 0 ++ w) = syndromes w := by
  simp [syndromes, List.foldl_append, foldl_zeros]

theorem fecDecode_clean (w : List Nat) (h : (syndromes w).all (· == 0) = true) : fecDecode w = some (w, []) := by
  simp only [fecDecode, h, if_true]

theorem fecDecode_too_many (w : List Nat) (h : (syndromes w).all (· == 0) = false)
    (hl : 15 < ((List.range fecParity).foldl (Recurrence.next (syndromes w)) {}).len) : fecDecode w = none := by
  have hn : ¬ ((List.range fecParity).foldl (Recurrence.next (syndromes w)) {}).len ≤ 15 := by omega
  simp only [fecDecode, h, if_neg Bool.false_ne_true, if_neg (fun x : _ ∧ _ => hn x.1)]

end Sys2Proof.Laws
end

