-- ==== Sys2Proof/Laws/State.lean ====
section
/-! SUPPORT. One lemma for each field of the state and each replacement of one of its parts: the part changes, no other field does. -/

namespace Sys2Proof.Machine

open Sys2Proof

/-! ### engPut -/

@[simp] theorem engPut_pending (s : State) (e : Eng) (g : Engine) : (engPut s e g).pending = s.pending := rfl
@[simp] theorem engPut_evg (s : State) (e : Eng) (g : Engine) : (engPut s e g).evg = s.evg := rfl
@[simp] theorem engPut_tmr (s : State) (e : Eng) (g : Engine) : (engPut s e g).tmr = s.tmr := rfl
@[simp] theorem engPut_wvl (s : State) (e : Eng) (g : Engine) : (engPut s e g).wvl = s.wvl := rfl
@[simp] theorem engPut_cpx (s : State) (e : Eng) (g : Engine) : (engPut s e g).cpx = s.cpx := rfl
@[simp] theorem engPut_spc (s : State) (e : Eng) (g : Engine) : (engPut s e g).spc = s.spc := rfl
@[simp] theorem engPut_che (s : State) (e : Eng) (g : Engine) : (engPut s e g).che = s.che := rfl
@[simp] theorem engPut_ibf (s : State) (e : Eng) (g : Engine) : (engPut s e g).ibf = s.ibf := rfl
@[simp] theorem engPut_twn (s : State) (e : Eng) (g : Engine) : (engPut s e g).twn = s.twn := rfl
@[simp] theorem engPut_ins (s : State) (e : Eng) (g : Engine) : (engPut s e g).ins = s.ins := rfl
@[simp] theorem engPut_nvc (s : State) (e : Eng) (g : Engine) : (engPut s e g).nvc = s.nvc := rfl
@[simp] theorem engPut_hlt (s : State) (e : Eng) (g : Engine) : (engPut s e g).hlt = s.hlt := rfl
@[simp] theorem engPut_pmu (s : State) (e : Eng) (g : Engine) : (engPut s e g).pmu = s.pmu := rfl
@[simp] theorem engPut_mpt (s : State) (e : Eng) (g : Engine) : (engPut s e g).mpt = s.mpt := rfl
@[simp] theorem engPut_hpt (s : State) (e : Eng) (g : Engine) : (engPut s e g).hpt = s.hpt := rfl
@[simp] theorem engPut_reads (s : State) (e : Eng) (g : Engine) : (engPut s e g).reads = s.reads := rfl
@[simp] theorem engPut_tap (s : State) (e : Eng) (g : Engine) : (engPut s e g).tap = s.tap := rfl
@[simp] theorem engPut_stopped (s : State) (e : Eng) (g : Engine) : (engPut s e g).stopped = s.stopped := rfl
@[simp] theorem engPut_cyc (s : State) (e : Eng) (g : Engine) : (engPut s e g).cyc = s.cyc := rfl
@[simp] theorem engPut_power (s : State) (e : Eng) (g : Engine) : (engPut s e g).power = s.power := rfl
@[simp] theorem engPut_lastRead (s : State) (e : Eng) (g : Engine) : (engPut s e g).lastRead = s.lastRead := rfl
@[simp] theorem engPut_freeCtr (s : State) (e : Eng) (g : Engine) : (engPut s e g).freeCtr = s.freeCtr := rfl

/-! ### regPut -/

@[simp] theorem regPut_pending (s : State) (e : Eng) (r : Regs) : (regPut s e r).pending = s.pending := rfl
@[simp] theorem regPut_evg (s : State) (e : Eng) (r : Regs) : (regPut s e r).evg = s.evg := rfl
@[simp] theorem regPut_tmr (s : State) (e : Eng) (r : Regs) : (regPut s e r).tmr = s.tmr := rfl
@[simp] theorem regPut_wvl (s : State) (e : Eng) (r : Regs) : (regPut s e r).wvl = s.wvl := rfl
@[simp] theorem regPut_cpx (s : State) (e : Eng) (r : Regs) : (regPut s e r).cpx = s.cpx := rfl
@[simp] theorem regPut_spc (s : State) (e : Eng) (r : Regs) : (regPut s e r).spc = s.spc := rfl
@[simp] theorem regPut_che (s : State) (e : Eng) (r : Regs) : (regPut s e r).che = s.che := rfl
@[simp] theorem regPut_ibf (s : State) (e : Eng) (r : Regs) : (regPut s e r).ibf = s.ibf := rfl
@[simp] theorem regPut_twn (s : State) (e : Eng) (r : Regs) : (regPut s e r).twn = s.twn := rfl
@[simp] theorem regPut_ins (s : State) (e : Eng) (r : Regs) : (regPut s e r).ins = s.ins := rfl
@[simp] theorem regPut_nvc (s : State) (e : Eng) (r : Regs) : (regPut s e r).nvc = s.nvc := rfl
@[simp] theorem regPut_hlt (s : State) (e : Eng) (r : Regs) : (regPut s e r).hlt = s.hlt := rfl
@[simp] theorem regPut_pmu (s : State) (e : Eng) (r : Regs) : (regPut s e r).pmu = s.pmu := rfl
@[simp] theorem regPut_mpt (s : State) (e : Eng) (r : Regs) : (regPut s e r).mpt = s.mpt := rfl
@[simp] theorem regPut_hpt (s : State) (e : Eng) (r : Regs) : (regPut s e r).hpt = s.hpt := rfl
@[simp] theorem regPut_reads (s : State) (e : Eng) (r : Regs) : (regPut s e r).reads = s.reads := rfl
@[simp] theorem regPut_tap (s : State) (e : Eng) (r : Regs) : (regPut s e r).tap = s.tap := rfl
@[simp] theorem regPut_stopped (s : State) (e : Eng) (r : Regs) : (regPut s e r).stopped = s.stopped := rfl
@[simp] theorem regPut_cyc (s : State) (e : Eng) (r : Regs) : (regPut s e r).cyc = s.cyc := rfl
@[simp] theorem regPut_power (s : State) (e : Eng) (r : Regs) : (regPut s e r).power = s.power := rfl
@[simp] theorem regPut_lastRead (s : State) (e : Eng) (r : Regs) : (regPut s e r).lastRead = s.lastRead := rfl
@[simp] theorem regPut_freeCtr (s : State) (e : Eng) (r : Regs) : (regPut s e r).freeCtr = s.freeCtr := rfl

/-! ### srcPut -/

@[simp] theorem srcPut_pending (s : State) (n : Nat) (x : Source) : (srcPut s n x).pending = s.pending := rfl
@[simp] theorem srcPut_eng (s : State) (n : Nat) (x : Source) : (srcPut s n x).eng = s.eng := rfl
@[simp] theorem srcPut_tmr (s : State) (n : Nat) (x : Source) : (srcPut s n x).tmr = s.tmr := rfl
@[simp] theorem srcPut_wvl (s : State) (n : Nat) (x : Source) : (srcPut s n x).wvl = s.wvl := rfl
@[simp] theorem srcPut_cpx (s : State) (n : Nat) (x : Source) : (srcPut s n x).cpx = s.cpx := rfl
@[simp] theorem srcPut_spc (s : State) (n : Nat) (x : Source) : (srcPut s n x).spc = s.spc := rfl
@[simp] theorem srcPut_che (s : State) (n : Nat) (x : Source) : (srcPut s n x).che = s.che := rfl
@[simp] theorem srcPut_ibf (s : State) (n : Nat) (x : Source) : (srcPut s n x).ibf = s.ibf := rfl
@[simp] theorem srcPut_twn (s : State) (n : Nat) (x : Source) : (srcPut s n x).twn = s.twn := rfl
@[simp] theorem srcPut_ins (s : State) (n : Nat) (x : Source) : (srcPut s n x).ins = s.ins := rfl
@[simp] theorem srcPut_nvc (s : State) (n : Nat) (x : Source) : (srcPut s n x).nvc = s.nvc := rfl
@[simp] theorem srcPut_hlt (s : State) (n : Nat) (x : Source) : (srcPut s n x).hlt = s.hlt := rfl
@[simp] theorem srcPut_pmu (s : State) (n : Nat) (x : Source) : (srcPut s n x).pmu = s.pmu := rfl
@[simp] theorem srcPut_mpt (s : State) (n : Nat) (x : Source) : (srcPut s n x).mpt = s.mpt := rfl
@[simp] theorem srcPut_hpt (s : State) (n : Nat) (x : Source) : (srcPut s n x).hpt = s.hpt := rfl
@[simp] theorem srcPut_reads (s : State) (n : Nat) (x : Source) : (srcPut s n x).reads = s.reads := rfl
@[simp] theorem srcPut_tap (s : State) (n : Nat) (x : Source) : (srcPut s n x).tap = s.tap := rfl
@[simp] theorem srcPut_stopped (s : State) (n : Nat) (x : Source) : (srcPut s n x).stopped = s.stopped := rfl
@[simp] theorem srcPut_cyc (s : State) (n : Nat) (x : Source) : (srcPut s n x).cyc = s.cyc := rfl
@[simp] theorem srcPut_power (s : State) (n : Nat) (x : Source) : (srcPut s n x).power = s.power := rfl
@[simp] theorem srcPut_lastRead (s : State) (n : Nat) (x : Source) : (srcPut s n x).lastRead = s.lastRead := rfl
@[simp] theorem srcPut_freeCtr (s : State) (n : Nat) (x : Source) : (srcPut s n x).freeCtr = s.freeCtr := rfl

/-! ### evgEngPut -/

@[simp] theorem evgEngPut_pending (s : State) (n : Nat) (x : EvgEng) : (evgEngPut s n x).pending = s.pending := rfl
@[simp] theorem evgEngPut_eng (s : State) (n : Nat) (x : EvgEng) : (evgEngPut s n x).eng = s.eng := rfl
@[simp] theorem evgEngPut_tmr (s : State) (n : Nat) (x : EvgEng) : (evgEngPut s n x).tmr = s.tmr := rfl
@[simp] theorem evgEngPut_wvl (s : State) (n : Nat) (x : EvgEng) : (evgEngPut s n x).wvl = s.wvl := rfl
@[simp] theorem evgEngPut_cpx (s : State) (n : Nat) (x : EvgEng) : (evgEngPut s n x).cpx = s.cpx := rfl
@[simp] theorem evgEngPut_spc (s : State) (n : Nat) (x : EvgEng) : (evgEngPut s n x).spc = s.spc := rfl
@[simp] theorem evgEngPut_che (s : State) (n : Nat) (x : EvgEng) : (evgEngPut s n x).che = s.che := rfl
@[simp] theorem evgEngPut_ibf (s : State) (n : Nat) (x : EvgEng) : (evgEngPut s n x).ibf = s.ibf := rfl
@[simp] theorem evgEngPut_twn (s : State) (n : Nat) (x : EvgEng) : (evgEngPut s n x).twn = s.twn := rfl
@[simp] theorem evgEngPut_ins (s : State) (n : Nat) (x : EvgEng) : (evgEngPut s n x).ins = s.ins := rfl
@[simp] theorem evgEngPut_nvc (s : State) (n : Nat) (x : EvgEng) : (evgEngPut s n x).nvc = s.nvc := rfl
@[simp] theorem evgEngPut_hlt (s : State) (n : Nat) (x : EvgEng) : (evgEngPut s n x).hlt = s.hlt := rfl
@[simp] theorem evgEngPut_pmu (s : State) (n : Nat) (x : EvgEng) : (evgEngPut s n x).pmu = s.pmu := rfl
@[simp] theorem evgEngPut_mpt (s : State) (n : Nat) (x : EvgEng) : (evgEngPut s n x).mpt = s.mpt := rfl
@[simp] theorem evgEngPut_hpt (s : State) (n : Nat) (x : EvgEng) : (evgEngPut s n x).hpt = s.hpt := rfl
@[simp] theorem evgEngPut_reads (s : State) (n : Nat) (x : EvgEng) : (evgEngPut s n x).reads = s.reads := rfl
@[simp] theorem evgEngPut_tap (s : State) (n : Nat) (x : EvgEng) : (evgEngPut s n x).tap = s.tap := rfl
@[simp] theorem evgEngPut_stopped (s : State) (n : Nat) (x : EvgEng) : (evgEngPut s n x).stopped = s.stopped := rfl
@[simp] theorem evgEngPut_cyc (s : State) (n : Nat) (x : EvgEng) : (evgEngPut s n x).cyc = s.cyc := rfl
@[simp] theorem evgEngPut_power (s : State) (n : Nat) (x : EvgEng) : (evgEngPut s n x).power = s.power := rfl
@[simp] theorem evgEngPut_lastRead (s : State) (n : Nat) (x : EvgEng) : (evgEngPut s n x).lastRead = s.lastRead := rfl
@[simp] theorem evgEngPut_freeCtr (s : State) (n : Nat) (x : EvgEng) : (evgEngPut s n x).freeCtr = s.freeCtr := rfl

/-! ### tmrPut -/

@[simp] theorem tmrPut_pending (s : State) (n : Nat) (x : Timer) : (tmrPut s n x).pending = s.pending := rfl
@[simp] theorem tmrPut_eng (s : State) (n : Nat) (x : Timer) : (tmrPut s n x).eng = s.eng := rfl
@[simp] theorem tmrPut_evg (s : State) (n : Nat) (x : Timer) : (tmrPut s n x).evg = s.evg := rfl
@[simp] theorem tmrPut_wvl (s : State) (n : Nat) (x : Timer) : (tmrPut s n x).wvl = s.wvl := rfl
@[simp] theorem tmrPut_cpx (s : State) (n : Nat) (x : Timer) : (tmrPut s n x).cpx = s.cpx := rfl
@[simp] theorem tmrPut_spc (s : State) (n : Nat) (x : Timer) : (tmrPut s n x).spc = s.spc := rfl
@[simp] theorem tmrPut_che (s : State) (n : Nat) (x : Timer) : (tmrPut s n x).che = s.che := rfl
@[simp] theorem tmrPut_ibf (s : State) (n : Nat) (x : Timer) : (tmrPut s n x).ibf = s.ibf := rfl
@[simp] theorem tmrPut_twn (s : State) (n : Nat) (x : Timer) : (tmrPut s n x).twn = s.twn := rfl
@[simp] theorem tmrPut_ins (s : State) (n : Nat) (x : Timer) : (tmrPut s n x).ins = s.ins := rfl
@[simp] theorem tmrPut_nvc (s : State) (n : Nat) (x : Timer) : (tmrPut s n x).nvc = s.nvc := rfl
@[simp] theorem tmrPut_hlt (s : State) (n : Nat) (x : Timer) : (tmrPut s n x).hlt = s.hlt := rfl
@[simp] theorem tmrPut_pmu (s : State) (n : Nat) (x : Timer) : (tmrPut s n x).pmu = s.pmu := rfl
@[simp] theorem tmrPut_mpt (s : State) (n : Nat) (x : Timer) : (tmrPut s n x).mpt = s.mpt := rfl
@[simp] theorem tmrPut_hpt (s : State) (n : Nat) (x : Timer) : (tmrPut s n x).hpt = s.hpt := rfl
@[simp] theorem tmrPut_reads (s : State) (n : Nat) (x : Timer) : (tmrPut s n x).reads = s.reads := rfl
@[simp] theorem tmrPut_tap (s : State) (n : Nat) (x : Timer) : (tmrPut s n x).tap = s.tap := rfl
@[simp] theorem tmrPut_stopped (s : State) (n : Nat) (x : Timer) : (tmrPut s n x).stopped = s.stopped := rfl
@[simp] theorem tmrPut_cyc (s : State) (n : Nat) (x : Timer) : (tmrPut s n x).cyc = s.cyc := rfl
@[simp] theorem tmrPut_power (s : State) (n : Nat) (x : Timer) : (tmrPut s n x).power = s.power := rfl
@[simp] theorem tmrPut_lastRead (s : State) (n : Nat) (x : Timer) : (tmrPut s n x).lastRead = s.lastRead := rfl
@[simp] theorem tmrPut_freeCtr (s : State) (n : Nat) (x : Timer) : (tmrPut s n x).freeCtr = s.freeCtr := rfl

/-! ### ibfPut -/

@[simp] theorem ibfPut_pending (s : State) (n : Nat) (x : Ibf) : (ibfPut s n x).pending = s.pending := rfl
@[simp] theorem ibfPut_eng (s : State) (n : Nat) (x : Ibf) : (ibfPut s n x).eng = s.eng := rfl
@[simp] theorem ibfPut_evg (s : State) (n : Nat) (x : Ibf) : (ibfPut s n x).evg = s.evg := rfl
@[simp] theorem ibfPut_tmr (s : State) (n : Nat) (x : Ibf) : (ibfPut s n x).tmr = s.tmr := rfl
@[simp] theorem ibfPut_wvl (s : State) (n : Nat) (x : Ibf) : (ibfPut s n x).wvl = s.wvl := rfl
@[simp] theorem ibfPut_cpx (s : State) (n : Nat) (x : Ibf) : (ibfPut s n x).cpx = s.cpx := rfl
@[simp] theorem ibfPut_spc (s : State) (n : Nat) (x : Ibf) : (ibfPut s n x).spc = s.spc := rfl
@[simp] theorem ibfPut_che (s : State) (n : Nat) (x : Ibf) : (ibfPut s n x).che = s.che := rfl
@[simp] theorem ibfPut_twn (s : State) (n : Nat) (x : Ibf) : (ibfPut s n x).twn = s.twn := rfl
@[simp] theorem ibfPut_ins (s : State) (n : Nat) (x : Ibf) : (ibfPut s n x).ins = s.ins := rfl
@[simp] theorem ibfPut_nvc (s : State) (n : Nat) (x : Ibf) : (ibfPut s n x).nvc = s.nvc := rfl
@[simp] theorem ibfPut_hlt (s : State) (n : Nat) (x : Ibf) : (ibfPut s n x).hlt = s.hlt := rfl
@[simp] theorem ibfPut_pmu (s : State) (n : Nat) (x : Ibf) : (ibfPut s n x).pmu = s.pmu := rfl
@[simp] theorem ibfPut_mpt (s : State) (n : Nat) (x : Ibf) : (ibfPut s n x).mpt = s.mpt := rfl
@[simp] theorem ibfPut_hpt (s : State) (n : Nat) (x : Ibf) : (ibfPut s n x).hpt = s.hpt := rfl
@[simp] theorem ibfPut_reads (s : State) (n : Nat) (x : Ibf) : (ibfPut s n x).reads = s.reads := rfl
@[simp] theorem ibfPut_tap (s : State) (n : Nat) (x : Ibf) : (ibfPut s n x).tap = s.tap := rfl
@[simp] theorem ibfPut_stopped (s : State) (n : Nat) (x : Ibf) : (ibfPut s n x).stopped = s.stopped := rfl
@[simp] theorem ibfPut_cyc (s : State) (n : Nat) (x : Ibf) : (ibfPut s n x).cyc = s.cyc := rfl
@[simp] theorem ibfPut_power (s : State) (n : Nat) (x : Ibf) : (ibfPut s n x).power = s.power := rfl
@[simp] theorem ibfPut_lastRead (s : State) (n : Nat) (x : Ibf) : (ibfPut s n x).lastRead = s.lastRead := rfl
@[simp] theorem ibfPut_freeCtr (s : State) (n : Nat) (x : Ibf) : (ibfPut s n x).freeCtr = s.freeCtr := rfl

/-! ### insPut -/

@[simp] theorem insPut_pending (s : State) (n : Nat) (x : Inst) : (insPut s n x).pending = s.pending := rfl
@[simp] theorem insPut_eng (s : State) (n : Nat) (x : Inst) : (insPut s n x).eng = s.eng := rfl
@[simp] theorem insPut_evg (s : State) (n : Nat) (x : Inst) : (insPut s n x).evg = s.evg := rfl
@[simp] theorem insPut_tmr (s : State) (n : Nat) (x : Inst) : (insPut s n x).tmr = s.tmr := rfl
@[simp] theorem insPut_wvl (s : State) (n : Nat) (x : Inst) : (insPut s n x).wvl = s.wvl := rfl
@[simp] theorem insPut_cpx (s : State) (n : Nat) (x : Inst) : (insPut s n x).cpx = s.cpx := rfl
@[simp] theorem insPut_spc (s : State) (n : Nat) (x : Inst) : (insPut s n x).spc = s.spc := rfl
@[simp] theorem insPut_che (s : State) (n : Nat) (x : Inst) : (insPut s n x).che = s.che := rfl
@[simp] theorem insPut_ibf (s : State) (n : Nat) (x : Inst) : (insPut s n x).ibf = s.ibf := rfl
@[simp] theorem insPut_twn (s : State) (n : Nat) (x : Inst) : (insPut s n x).twn = s.twn := rfl
@[simp] theorem insPut_nvc (s : State) (n : Nat) (x : Inst) : (insPut s n x).nvc = s.nvc := rfl
@[simp] theorem insPut_hlt (s : State) (n : Nat) (x : Inst) : (insPut s n x).hlt = s.hlt := rfl
@[simp] theorem insPut_pmu (s : State) (n : Nat) (x : Inst) : (insPut s n x).pmu = s.pmu := rfl
@[simp] theorem insPut_mpt (s : State) (n : Nat) (x : Inst) : (insPut s n x).mpt = s.mpt := rfl
@[simp] theorem insPut_hpt (s : State) (n : Nat) (x : Inst) : (insPut s n x).hpt = s.hpt := rfl
@[simp] theorem insPut_reads (s : State) (n : Nat) (x : Inst) : (insPut s n x).reads = s.reads := rfl
@[simp] theorem insPut_tap (s : State) (n : Nat) (x : Inst) : (insPut s n x).tap = s.tap := rfl
@[simp] theorem insPut_stopped (s : State) (n : Nat) (x : Inst) : (insPut s n x).stopped = s.stopped := rfl
@[simp] theorem insPut_cyc (s : State) (n : Nat) (x : Inst) : (insPut s n x).cyc = s.cyc := rfl
@[simp] theorem insPut_power (s : State) (n : Nat) (x : Inst) : (insPut s n x).power = s.power := rfl
@[simp] theorem insPut_lastRead (s : State) (n : Nat) (x : Inst) : (insPut s n x).lastRead = s.lastRead := rfl
@[simp] theorem insPut_freeCtr (s : State) (n : Nat) (x : Inst) : (insPut s n x).freeCtr = s.freeCtr := rfl

end Sys2Proof.Machine
end

