-- ==== Sys2Proof/Laws/Tables.lean ====
section
/-! SUPPORT. Tables and memories: what is read after a change, and that every memory operation keeps the canonical form. -/

namespace Sys2Proof.Machine

open Sys2Proof

/-! ### Reading after a change -/

theorem tget_tdel_same {α : Type} (d : α) (t : Tab α) (n : Nat) : tget d (tdel t n) n = d := by
  induction t with
  | nil => rfl
  | cons p r ih =>
    obtain ⟨k, v⟩ := p
    by_cases h : k = n
    · simp [tdel, h, ih]
    · simp [tdel, h, tget, ih]

theorem tget_tdel_ne {α : Type} (d : α) (t : Tab α) {n m : Nat} (h : m ≠ n) : tget d (tdel t n) m = tget d t m := by
  induction t with
  | nil => rfl
  | cons p r ih =>
    obtain ⟨k, v⟩ := p
    by_cases hk : k = n
    · have : k ≠ m := fun e => h (e ▸ hk)
      simp [tdel, hk, tget, ih]; intro e; exact absurd (e.symm) h
    · simp [tdel, hk, tget, ih]

theorem tget_tins_ne {α : Type} (d : α) (t : Tab α) {n m : Nat} (v : α) (h : m ≠ n) :
    tget d (tins t n v) m = tget d t m := by
  induction t with
  | nil => simp [tins, tget, Ne.symm h]
  | cons p r ih =>
    obtain ⟨k, w⟩ := p
    simp only [tins]
    split
    · simp [tget, Ne.symm h]
    · simp [tget, ih]

theorem tget_tins_tdel {α : Type} (d : α) (t : Tab α) (n : Nat) (v : α) : tget d (tins (tdel t n) n v) n = v := by
  induction t with
  | nil => simp [tdel, tins, tget]
  | cons p r ih =>
    obtain ⟨k, w⟩ := p
    by_cases hk : k = n
    · simp [tdel, hk, ih]
    · simp only [tdel, hk, if_false, tins]
      split
      · simp [tget]
      · simp [tget, hk, ih]

@[simp] theorem tget_tset_same {α : Type} [DecidableEq α] (d : α) (t : Tab α) (n : Nat) (v : α) :
    tget d (tset d t n v) n = v := by
  unfold tset
  split
  · rename_i h; rw [tget_tdel_same]; exact h.symm
  · exact tget_tins_tdel d t n v

theorem tget_tset_ne {α : Type} [DecidableEq α] (d : α) (t : Tab α) {n m : Nat} (v : α) (h : m ≠ n) :
    tget d (tset d t n v) m = tget d t m := by
  unfold tset
  split
  · exact tget_tdel_ne d t h
  · rw [tget_tins_ne d _ v h, tget_tdel_ne d t h]

theorem tdel_tins {α : Type} (t : Tab α) (n : Nat) (v : α) : tdel (tins t n v) n = tdel t n := by
  induction t with
  | nil => simp [tins, tdel]
  | cons p r ih =>
    obtain ⟨k, w⟩ := p
    simp only [tins]
    split
    · simp [tdel]
    · simp [tdel, ih]

theorem tdel_tdel {α : Type} (t : Tab α) (n : Nat) : tdel (tdel t n) n = tdel t n := by
  induction t with
  | nil => rfl
  | cons p r ih =>
    obtain ⟨k, w⟩ := p
    by_cases h : k = n <;> simp [tdel, h, ih]

/-- Of two writes at one index the later stands. -/
theorem tset_tset {α : Type} [DecidableEq α] (d : α) (t : Tab α) (n : Nat) (u v : α) :
    tset d (tset d t n u) n v = tset d t n v := by
  have h : tdel (tset d t n u) n = tdel t n := by
    unfold tset
    split
    · exact tdel_tdel t n
    · rw [tdel_tins, tdel_tdel]
  show (if v = d then tdel (tset d t n u) n else tins (tdel (tset d t n u) n) n v) = _
  rw [h]
  rfl

/-! ### Parts of the state -/

@[simp] theorem engPut_engPut (s : State) (e : Eng) (g h : Engine) : engPut (engPut s e g) e h = engPut s e h := by
  simp [engPut, tset_tset]

@[simp] theorem srcPut_srcPut (s : State) (n : Nat) (x y : Source) : srcPut (srcPut s n x) n y = srcPut s n y := by
  simp [srcPut, tset_tset]

@[simp] theorem evgEngPut_evgEngPut (s : State) (n : Nat) (x y : EvgEng) :
    evgEngPut (evgEngPut s n x) n y = evgEngPut s n y := by
  simp [evgEngPut, tset_tset]

@[simp] theorem tmrPut_tmrPut (s : State) (n : Nat) (x y : Timer) : tmrPut (tmrPut s n x) n y = tmrPut s n y := by
  simp [tmrPut, tset_tset]

@[simp] theorem ibfPut_ibfPut (s : State) (n : Nat) (x y : Ibf) : ibfPut (ibfPut s n x) n y = ibfPut s n y := by
  simp [ibfPut, tset_tset]

@[simp] theorem insPut_insPut (s : State) (n : Nat) (x y : Inst) : insPut (insPut s n x) n y = insPut s n y := by
  simp [insPut, tset_tset]

@[simp] theorem engGet_engPut (s : State) (e : Eng) (g : Engine) : engGet (engPut s e g) e = g := by
  simp [engGet, engPut]

theorem engGet_engPut_ne (s : State) {e f : Eng} (g : Engine) (h : f ≠ e) : engGet (engPut s e g) f = engGet s f := by
  simp only [engGet, engPut]
  exact tget_tset_ne _ _ _ fun hv => h (Fin.ext hv)

@[simp] theorem engGet_regPut (s : State) (e : Eng) (r : Regs) : engGet (regPut s e r) e = { engGet s e with r := r } := by
  simp [regPut]

@[simp] theorem regGet_regPut (s : State) (e : Eng) (r : Regs) : regGet (regPut s e r) e = r := by
  simp [regGet]

@[simp] theorem regPut_regPut (s : State) (e : Eng) (q r : Regs) : regPut (regPut s e q) e r = regPut s e r := by
  simp [regPut, engGet, engPut, tset_tset]

@[simp] theorem regGet_engPut (s : State) (e : Eng) (g : Engine) : regGet (engPut s e g) e = g.r := by
  simp [regGet]

theorem regGet_engPut_ne (s : State) {e f : Eng} (g : Engine) (h : f ≠ e) : regGet (engPut s e g) f = regGet s f := by
  simp [regGet, engGet_engPut_ne s g h]

@[simp] theorem srcGet_srcPut (s : State) (n : Nat) (x : Source) : srcGet (srcPut s n x) n = x := by
  simp [srcGet, srcPut]

@[simp] theorem evgEng_evgEngPut (s : State) (n : Nat) (x : EvgEng) : evgEng (evgEngPut s n x) n = x := by
  simp [evgEng, evgEngPut]

@[simp] theorem tmrGet_tmrPut (s : State) (n : Nat) (x : Timer) : tmrGet (tmrPut s n x) n = x := by
  simp [tmrGet, tmrPut]

@[simp] theorem ibfGet_ibfPut (s : State) (n : Nat) (x : Ibf) : ibfGet (ibfPut s n x) n = x := by
  simp [ibfGet, ibfPut]

@[simp] theorem insGet_insPut (s : State) (n : Nat) (x : Inst) : insGet (insPut s n x) n = x := by
  simp [insGet, insPut]

@[simp] theorem mptGet_mptPut (s : State) (n : Nat) (x : Mpt) : mptGet (mptPut s n x) n = x := by
  unfold mptGet mptPut
  split <;> simp

/-! ### The canonical form of a memory -/

/-- Every address of a memory is above a bound. -/
def Memory.above (a : Nat) : Mem → Prop
  | [] => True
  | (k, _) :: _ => a < k

theorem Memory.wf_cons {d : Byte} {a : Nat} {v : Byte} {m : Mem} :
    Memory.wf d ((a, v) :: m) = true ↔ v ≠ d ∧ Memory.above a m ∧ Memory.wf d m = true := by
  cases m with
  | nil => simp [Memory.wf, Memory.above]
  | cons p r => obtain ⟨b, w⟩ := p; simp [Memory.wf, Memory.above]; constructor <;> rintro ⟨h1, h2⟩ <;> simp_all

theorem Memory.above_trans {a b : Nat} {m : Mem} (h : a < b) (hm : Memory.above b m) : Memory.above a m := by
  cases m with
  | nil => trivial
  | cons p r => exact Nat.lt_trans h hm

theorem Memory.above_tdel {d : Byte} {a n : Nat} {m : Mem} (hw : Memory.wf d m = true) (h : Memory.above a m) :
    Memory.above a (tdel m n) := by
  induction m generalizing a with
  | nil => trivial
  | cons p r ih =>
    obtain ⟨k, v⟩ := p
    obtain ⟨_, h2, h3⟩ := Memory.wf_cons.1 hw
    by_cases hk : k = n
    · simp only [tdel, hk, if_true]
      exact ih h3 (Memory.above_trans h h2)
    · simp only [tdel, hk, if_false]; exact h

theorem Memory.wf_tdel {d : Byte} {m : Mem} (n : Nat) (hw : Memory.wf d m = true) : Memory.wf d (tdel m n) = true := by
  induction m with
  | nil => rfl
  | cons p r ih =>
    obtain ⟨k, v⟩ := p
    obtain ⟨h1, h2, h3⟩ := Memory.wf_cons.1 hw
    by_cases hk : k = n
    · simp only [tdel, hk, if_true]; exact ih h3
    · simp only [tdel, hk, if_false]
      exact Memory.wf_cons.2 ⟨h1, Memory.above_tdel h3 h2, ih h3⟩

theorem Memory.above_tins {a n : Nat} {v : Byte} {m : Mem} (h : Memory.above a m) (hn : a < n) :
    Memory.above a (tins m n v) := by
  cases m with
  | nil => exact hn
  | cons p r =>
    obtain ⟨k, w⟩ := p
    simp only [tins]
    split
    · exact hn
    · exact h

/-- No entry at an address. -/
def Memory.free (n : Nat) (m : Mem) : Prop := ∀ p ∈ m, p.1 ≠ n

theorem Memory.free_tdel (n : Nat) (m : Mem) : Memory.free n (tdel m n) := by
  induction m with
  | nil => intro p hp; cases hp
  | cons p r ih =>
    obtain ⟨k, v⟩ := p
    by_cases hk : k = n
    · simpa [tdel, hk] using ih
    · simp only [tdel, hk, if_false]
      intro q hq
      cases hq with
      | head => exact hk
      | tail _ h => exact ih q h

theorem Memory.wf_tins {d v : Byte} {m : Mem} {n : Nat} (hv : v ≠ d) (hf : Memory.free n m) (hw : Memory.wf d m = true) :
    Memory.wf d (tins m n v) = true := by
  induction m with
  | nil => simp [tins, Memory.wf, hv]
  | cons p r ih =>
    obtain ⟨k, w⟩ := p
    obtain ⟨h1, h2, h3⟩ := Memory.wf_cons.1 hw
    have hkn : k ≠ n := hf (k, w) (by simp)
    simp only [tins]
    split
    · rename_i hlt
      exact Memory.wf_cons.2 ⟨hv, hlt, hw⟩
    · refine Memory.wf_cons.2 ⟨h1, Memory.above_tins h2 (by omega), ih (fun q hq => hf q (by simp [hq])) h3⟩

/-- A byte written keeps the canonical form. -/
theorem Memory.wf_tset {d : Byte} {m : Mem} (n : Nat) (v : Byte) (hw : Memory.wf d m = true) :
    Memory.wf d (tset d m n v) = true := by
  unfold tset
  split
  · exact Memory.wf_tdel n hw
  · rename_i h; exact Memory.wf_tins h (Memory.free_tdel n m) (Memory.wf_tdel n hw)

/-- A run of bytes written keeps the canonical form. -/
theorem Memory.wf_mwrite {d : Byte} {m : Mem} (a : Nat) (bs : List (Option Byte)) (hw : Memory.wf d m = true) :
    Memory.wf d (mwrite d m a bs) = true := by
  induction bs generalizing a m with
  | nil => exact hw
  | cons b r ih =>
    cases b with
    | none => exact ih (a + 1) hw
    | some b => exact ih (a + 1) (Memory.wf_tset a b hw)

/-- A masked write of a scratchpad word keeps the canonical form. -/
theorem Memory.wf_spWrite {c c' : Spc} {w : Nat} {mask : BitVec 8} {data : BitVec 64}
    (hw : Memory.wf spadDefault c.mem = true) (h : spWrite c w mask data = some c') : Memory.wf spadDefault c'.mem = true := by
  unfold spWrite at h
  split at h
  · cases h
  · simp only [Option.some.injEq] at h
    subst h
    split <;> exact Memory.wf_mwrite _ _ hw

/-- Equal canonical memories read the same, and a canonical memory that reads as nothing written is empty. -/
theorem Memory.nil_of_reads_default {d : Byte} {m : Mem} (hw : Memory.wf d m = true) (h : ∀ a, tget d m a = d) : m = [] := by
  cases m with
  | nil => rfl
  | cons p r =>
    obtain ⟨k, v⟩ := p
    have := h k
    simp [tget] at this
    exact absurd this (Memory.wf_cons.1 hw).1

/-! ### A byte read after a write -/

theorem tget_mwrite_below {d : Byte} {m : Mem} {a b : Nat} (bs : List (Option Byte)) (h : b < a) :
    tget d (mwrite d m a bs) b = tget d m b := by
  induction bs generalizing a m with
  | nil => rfl
  | cons x r ih =>
    cases x with
    | none => exact ih (by omega)
    | some x => simp only [mwrite]; rw [ih (by omega), tget_tset_ne _ _ _ (by omega)]

/-- A byte past the end of a write reads as before. -/
theorem tget_mwrite_above {d : Byte} {m : Mem} {a b : Nat} (bs : List (Option Byte)) (h : a + bs.length ≤ b) :
    tget d (mwrite d m a bs) b = tget d m b := by
  induction bs generalizing a m with
  | nil => rfl
  | cons x r ih =>
    simp only [List.length_cons] at h
    cases x with
    | none => exact ih (by omega)
    | some x => simp only [mwrite]; rw [ih (by omega), tget_tset_ne _ _ _ (by omega)]

/-- A byte of a write reads as written, or as before where the run skips it. -/
theorem tget_mwrite_at {d : Byte} {m : Mem} {a k : Nat} {bs : List (Option Byte)} (h : k < bs.length) :
    tget d (mwrite d m a bs) (a + k) = (bs[k]).getD (tget d m (a + k)) := by
  induction bs generalizing a m k with
  | nil => simp at h
  | cons x r ih =>
    cases k with
    | zero =>
      cases x with
      | none => simp only [mwrite]; rw [tget_mwrite_below _ (by omega)]; rfl
      | some x => simp only [mwrite]; rw [tget_mwrite_below _ (by omega)]; simp
    | succ k =>
      have hk : k < r.length := by simpa using h
      have e : a + (k + 1) = (a + 1) + k := by omega
      cases x with
      | none => simp only [mwrite, List.getElem_cons_succ]; rw [e, ih hk]
      | some x =>
        simp only [mwrite, List.getElem_cons_succ]
        rw [e, ih hk, tget_tset_ne _ _ _ (by omega)]

end Sys2Proof.Machine
end

