-- ==== Sys2Proof/Laws/Issue.lean ====
section
/-! SUPPORT. What the shared operations of an instruction can do: counters, the stack, issue and commit. -/

namespace Sys2Proof.Machine

open Sys2Proof

/-! ### Event sources and counters -/

/-- A bit set by hardware is noted for the cycle, and nothing else. -/
theorem fresh_eq (s : State) (a k : Nat) : fresh s a k = { s with cyc := (fresh s a k).cyc } := by
  unfold fresh
  split <;> rfl

/-- A happening of a source changes the Gatherer, and what the cycle notes of it. -/
theorem raiseSrc_eq (s : State) (n : Nat) : raiseSrc s n = { s with evg := (raiseSrc s n).evg, cyc := (raiseSrc s n).cyc } := by
  unfold raiseSrc
  dsimp only
  split
  · rw [fresh_eq]; rfl
  · rfl

theorem raiseIf_eq (b : Bool) (s : State) (n : Nat) :
    raiseIf b s n = { s with evg := (raiseIf b s n).evg, cyc := (raiseIf b s n).cyc } := by
  cases b
  · rfl
  · exact raiseSrc_eq s n

theorem cntKeep_eq (s : State) (c : Nat) : cntKeep s c = { s with cyc := (cntKeep s c).cyc } := by
  unfold cntKeep
  split <;> rfl

theorem cntAdd_eq (s : State) (c n : Nat) : cntAdd s c n = { s with pmu := (cntAdd s c n).pmu, cyc := (cntAdd s c n).cyc } := by
  unfold cntAdd
  rw [cntKeep_eq]
  dsimp only
  split <;> rfl

theorem cntWrap_eq (s : State) (c : Nat) :
    cntWrap s c = { s with evg := (cntWrap s c).evg, pmu := (cntWrap s c).pmu, cyc := (cntWrap s c).cyc } := by
  unfold cntWrap
  rw [raiseIf_eq, fresh_eq]

/-- A counter's happening changes the counters, and when it wraps the Gatherer and what the cycle notes. -/
theorem pmuAdd_eq (s : State) (c n : Nat) :
    pmuAdd s c n = { s with evg := (pmuAdd s c n).evg, pmu := (pmuAdd s c n).pmu, cyc := (pmuAdd s c n).cyc } := by
  unfold pmuAdd
  split
  · rw [cntAdd_eq]
  · rw [cntWrap_eq, cntAdd_eq]

theorem pmuAdd_eng (s : State) (c n : Nat) : (pmuAdd s c n).eng = s.eng := by rw [pmuAdd_eq]

@[simp] theorem engGet_engCount (s : State) (e f : Eng) (k : Nat) : engGet (engCount s e k) f = engGet s f := by
  unfold engCount
  split
  · rfl
  · simp only [engGet, pmuAdd_eng]

@[simp] theorem regGet_engCount (s : State) (e f : Eng) (k : Nat) : regGet (engCount s e k) f = regGet s f := by
  simp [regGet]

theorem engPut_fresh (s : State) (e : Eng) (g : Engine) (a k : Nat) : engPut (fresh s a k) e g = fresh (engPut s e g) a k := by
  unfold fresh engPut
  dsimp only
  split <;> rfl

theorem engPut_raiseSrc (s : State) (e : Eng) (g : Engine) (n : Nat) : engPut (raiseSrc s n) e g = raiseSrc (engPut s e g) n := by
  unfold raiseSrc
  dsimp only [srcGet, engPut_evg]
  split
  · rw [engPut_fresh]; rfl
  · rfl

theorem engPut_cntAdd (s : State) (e : Eng) (g : Engine) (c n : Nat) : engPut (cntAdd s c n) e g = cntAdd (engPut s e g) c n := by
  have hk : cntKeep (engPut s e g) c = engPut (cntKeep s c) e g := by
    unfold cntKeep
    rw [engPut_cyc, engPut_pmu]
    cases (tfind s.cyc.pmuOld c).isSome <;> rfl
  have hn : ∀ t : State, cntNext (engPut t e g) c n = cntNext t c n := fun _ => rfl
  simp only [cntAdd, hk, hn, engPut_cyc]
  cases tfind (cntKeep s c).cyc.pmuSet c <;> rfl

theorem engPut_cntWrap (s : State) (e : Eng) (g : Engine) (c : Nat) : engPut (cntWrap s c) e g = cntWrap (engPut s e g) c := by
  unfold cntWrap
  dsimp only [engPut_pmu]
  cases s.pmu.ctl.getLsbD 0
  · simp only [raiseIf, Bool.false_eq_true, if_false]; rw [engPut_fresh]; rfl
  · simp only [raiseIf, if_true]; rw [engPut_raiseSrc, engPut_fresh]; rfl

/-- An engine and a counter change apart. -/
theorem engPut_pmuAdd (s : State) (e : Eng) (g : Engine) (c n : Nat) : engPut (pmuAdd s c n) e g = pmuAdd (engPut s e g) c n := by
  have hn : cntNext (engPut s e g) c n = cntNext s c n := rfl
  unfold pmuAdd
  rw [hn]
  split
  · exact engPut_cntAdd s e g c n
  · rw [engPut_cntWrap, engPut_cntAdd]

/-- An engine's counter and the rest of it, as it runs on, change apart. -/
theorem engPut_engCount {s : State} {e : Eng} {g : Engine} {k : Nat} (h1 : g.st = (engGet s e).st)
    (h2 : g.retired = (engGet s e).retired) : engPut (engCount s e k) e g = engCount (engPut s e g) e k := by
  unfold engCount
  rw [engGet_engPut, h1, h2]
  split
  · rfl
  · exact engPut_pmuAdd s e g _ 1

/-! ### The stack -/

theorem takeVals_valid : ∀ {k : Nat} {ds : List Cell} {vs : List Word}, takeVals k ds = some vs → (ds.take k).contains .inv = false
  | 0, _, _, _ => by simp
  | k + 1, [], _, h => by simp
  | k + 1, c :: ds, vs, h => by
    cases hc : cellVal c with
    | none => simp [takeVals, hc] at h
    | some v =>
      cases hr : takeVals k ds with
      | none => simp [takeVals, hc, hr] at h
      | some ws =>
        have hi : c ≠ .inv := by rintro rfl; simp [cellVal] at hc
        simpa [List.take, hi.symm, hi] using takeVals_valid hr

/-- The cells an instruction pops stand in the cache and need no fill or spill: nothing changes. -/
theorem pops_cached {s : State} {e : Eng} {k m : Nat} {vs : List Word} (hv : takeVals k (regGet s e).ds = some vs)
    (hk : k ≤ (regGet s e).ds.length) (hm : (regGet s e).ds.length + m ≤ 32 + k) : pops s e k m = .ok s vs := by
  have h1 : ¬ depth (regGet s e) < k := by unfold depth; omega
  have h2 : ¬ (regGet s e).ds.length < k := by omega
  have h3 : ¬ 32 + k < (regGet s e).ds.length + m := by omega
  have h4 := takeVals_valid hv
  simp only [pops, prepDs, h1, h2, h3, if_false, Ans.bind, h4, Bool.false_eq_true, hv]

/-- Fewer cells than an instruction pops: DSTACK_UNDER, nothing changed (03 R57 item 1). -/
theorem pops_under {s : State} {e : Eng} {k m : Nat} (h : depth (regGet s e) < k) :
    pops s e k m = .fault s (stackFault 10 (regGet s e).dsp) := by
  simp [pops, prepDs, h, Ans.bind]

theorem stackOp_cached {s : State} {e : Eng} {k m : Nat} {f : List Word → List Word} {vs : List Word}
    (hv : takeVals k (regGet s e).ds = some vs) (hk : k ≤ (regGet s e).ds.length)
    (hm : (regGet s e).ds.length + m ≤ 32 + k) :
    stackOp s e k m f = .ok (putCells s e k ((f vs).map .val)) none := by
  simp [stackOp, pops_cached hv hk hm, Ans.bind]

/-! ### Issue and commit -/

theorem xinvAct_idle {g : Engine} (h : g.xwait = false) : xinvAct g = g := by simp [xinvAct, h]

/-- An instruction that goes on commits: its registers move to the next syllable or word and its counter goes up. -/
theorem finish_commits {s : State} {e : Eng} {p : Place} {n : Nat} {t : Option Word}
    (hr : (engGet s e).ra = none) (hw : (engGet s e).wrong = none) (hx : (engGet s e).xwait = false) (ho : (engGet s e).r.ovp = false) :
    finish s e p n t =
      engCount (engPut s e { engGet s e with r := nextRegs (engGet s e).r p (sb1Mode s e) t, waits := false }) e 1 := by
  have hn : (nextRegs (engGet s e).r p (sb1Mode s e) t).ovp = false := by cases p <;> simp [nextRegs, ho]
  simp only [finish, hr, hw, Option.isSome_none, Bool.false_eq_true, if_false]
  cases p <;> simp [commit, Place.isFirst, xinvAct, hx, hn, engPut_engCount, engPut_engPut]

/-- What `ready` says. -/
theorem ready_iff {s : State} {e : Eng} {p : Place} : ready s e p = true ↔
    canRun s (engGet s e) = true ∧ (engGet s e).ra = none ∧ (engGet s e).wrong = none ∧ atPlace (engGet s e) p = true ∧
      (engGet s e).io = none ∧ (engGet s e).r.ovp = false ∧ (engGet s e).xwait = false ∧ wordHeld s e = true ∧
      (engGet s e).m.sb.all (!·.spec) = true := by
  simp [ready, and_assoc]

theorem readyNative_iff {s : State} {e : Eng} {p : Place} :
    readyNative s e p = true ↔ ready s e p = true ∧ sb1Mode s e = false ∧ wordLegal p = true := by
  simp [readyNative, and_assoc]

/-- The spills of an instruction that has made none. -/
theorem commitSpills_none {s : State} {e : Eng} (h : (engGet s e).m.sb.all (!·.spec) = true) : commitSpills s e = .ok s () := by
  simp [commitSpills, h]

/-- A word that is no reserved encoding raises no ILLEGAL in native mode. -/
theorem encCode_legal {s : State} {e : Eng} {p : Place} {sb1ok : Bool} (hb : sb1Mode s e = false) (hl : wordLegal p = true) :
    encCode s e p sb1ok none = none := by
  cases p with
  | long => simp [encCode, hb]
  | second => simp [encCode, hb]
  | first rest =>
    simp only [wordLegal, restLegal, Bool.and_eq_true, Bool.not_eq_true'] at hl
    obtain ⟨⟨h1, h2⟩, h3⟩ := hl
    rw [BitVec.getLsbD_eq_getElem (by omega)] at h2
    simp [encCode, hb, h1, h2, h3, lowestCode]

/-- Outside run-ahead the predictors move. -/
theorem predKeep_none {s t : State} {e : Eng} (h : (engGet t e).ra = none) : predKeep s t e = t := by simp [predKeep, h]

/-- An instruction that can issue in native mode, in a legal word, comes to what its body comes to. -/
theorem issueAny_native {α : Type} {s : State} {e : Eng} {p : Place} {ser mem sb1ok : Bool} {n : Nat} {body : State → Ans α}
    {fin : State → α → State} {bad : State → State} (h : readyNative s e p = true) :
    issueAny s e p ser mem sb1ok n none body fin bad = .next (match body s with
      | .ok s2 a =>
        if commitHeld (engGet s2 e) p then slotsBack s s2
        else match commitSpills s2 e with
          | .ok s3 _ => predKeep s (fin s3 a) e
          | _ => captureHeld (slotsBack s s2)
      | .hold s2 => holdBack s s2 e
      | .inv s2 => predKeep s (bad s2) e
      | .fault s2 i => instrFault s s2 e p i) := by
  obtain ⟨h1, h2, h3⟩ := readyNative_iff.1 h
  obtain ⟨hc, hr, hw, hp, hi, _, _, hh, _⟩ := ready_iff.1 h1
  have hg : issueHeld (engGet s e) ser mem n = false := by simp [issueHeld, hi, hw, hr, windowFull]
  simp only [issueAny, hc, hp, hr, hg, fetchAt, hh, encCode_legal h2 h3, Bool.not_true, Bool.or_self, Option.isSome_none, Bool.and_false,
    Bool.false_eq_true, if_false, if_true] <;> cases body s <;> rfl

/-- One register change of an instruction commits. -/
theorem issue_commits {s : State} {e : Eng} {p : Place} {ser mem sb1ok : Bool} {n : Nat} {body : State → Ans (Option Word)} {q : Regs}
    (h : readyNative s e p = true) (hb : body s = .ok (regPut s e q) none) (ho : q.ovp = false)
    (hm : sb1Mode (regPut s e q) e = sb1Mode s e) : issueLog s e p ser mem sb1ok n none body = .next (committed s e p q) := by
  obtain ⟨_, hr, hw, _, _, _, hx, _, hs⟩ := ready_iff.1 (readyNative_iff.1 h).1
  have hc : commitHeld (engGet (regPut s e q) e) p = false := by simp [commitHeld, regPut, ho]
  have hs' : commitSpills (regPut s e q) e = .ok (regPut s e q) () := commitSpills_none (by simpa [regPut] using hs)
  rw [issueLog, issueAny_native h, hb]
  simp only [hc, Bool.false_eq_true, if_false, hs']
  rw [finish_commits (by simpa [regPut] using hr) (by simpa [regPut] using hw) (by simpa [regPut] using hx) (by simpa [regPut] using ho), hm]
  rw [predKeep_none (by simp [regPut, hr])]
  simp [committed, regPut, engPut_engPut]

/-- The mode of the word does not depend on the operand stack. -/
theorem sb1Mode_cellsPut (s : State) (e : Eng) (k : Nat) (l : List Cell) :
    sb1Mode (regPut s e (cellsPut (regGet s e) k l)) e = sb1Mode s e := by
  simp [sb1Mode, regPut, regGet, cellsPut, untranslated, instTag, instOf, engPut_ins]

/-- A stack operation whose cells are cached commits (03 R57, 05 R98). -/
theorem stackOp_commits {s : State} {e : Eng} {p : Place} {sb1ok : Bool} {k m : Nat} {f : List Word → List Word}
    {vs : List Word} (h : readyNative s e p = true) (hv : takeVals k (regGet s e).ds = some vs)
    (hk : k ≤ (regGet s e).ds.length) (hm : (regGet s e).ds.length + m ≤ 32 + k) :
    issue s e p false false sb1ok none (fun s => stackOp s e k m f) =
      .next (committed s e p (cellsPut (regGet s e) k ((f vs).map .val))) := by
  refine issue_commits h (stackOp_cached hv hk hm) ?_ (sb1Mode_cellsPut s e k _)
  exact (ready_iff.1 (readyNative_iff.1 h).1).2.2.2.2.2.1

theorem shortOp_commits {s : State} {e : Eng} {y : Syl} {sb1ok : Bool} {res k m : Nat} {f : Bool → List Word → List Word}
    {vs : List Word} (h : readyNative s e (sylPlace y) = true) (hr : (sylOpnd y).toNat < 2 ^ res)
    (hv : takeVals k (regGet s e).ds = some vs) (hk : k ≤ (regGet s e).ds.length)
    (hm : (regGet s e).ds.length + m ≤ 32 + k) :
    shortOp e y sb1ok res k m f s =
      .next (committed s e (sylPlace y) (cellsPut (regGet s e) k ((f false vs).map .val))) := by
  have h2 := (readyNative_iff.1 h).2.1
  have hs : sylRes y res = none := by simp [sylRes, reservedFrom, hr]
  unfold shortOp
  rw [hs]
  refine issue_commits h ?_ (ready_iff.1 (readyNative_iff.1 h).1).2.2.2.2.2.1 (sb1Mode_cellsPut s e k _)
  rw [h2]
  exact stackOp_cached hv hk hm

end Sys2Proof.Machine
end

