-- ==== Sys2Proof/Tests/Slice0.lean ====
section
/-! SUPPORT. Tests: well-formedness, a few single steps with results worked out from the manual, and, for each statement with
hypotheses, states and operands that meet the hypotheses of every clause. -/

namespace Sys2Proof.Tests

open Sys2Proof Sys2Proof.Machine

set_option maxRecDepth 40000
set_option linter.all false
set_option Elab.async false

/-- Every warp table names engines 3 and 4 and the masters from 64 on in its first six slots. -/
def Slots : Tab Half := (List.range 138).flatMap fun t =>
  [(256 * t, 0x4003#16), (256 * t + 1, 0x4443), (256 * t + 2, 0x4645), (256 * t + 3, 0x4947), (256 * t + 4, 0x4104), (256 * t + 5, 0x4842)]
/-- memory port 0 has lines from 0x2000000 up -/
def W0 : State :=
  { cpx := { step := 7 }, wvl := { state := 3, full := true, enable := 0xFFFFFFFFFFFFFFFF#64, warp := Slots },
    mpt := [(0, { winbase := 2, winlimit := 16 })] }
/-- the same in slot n of the warp -/
def SL (n : BitVec 8) (s : State) : State := { s with wvl := { s.wvl with slot := n } }
/-- engine 3 runs, and the line of its PC stands in its line buffer -/
def E (g : Engine) : State :=
  { W0 with eng := [(3, { g with st := .running, m := { g.m with lbuf := (lineOf (g.r.pc.setWidth 44), 0) :: g.m.lbuf } })] }
def R (r : Regs) : State := E { r := r }
/-- a 4 KiB TLB entry that maps page v identically, for an engine of no instance -/
def TLB (v : Word) (sb : Bool) : TlbEntry :=
  { va := v, pa := v.setWidth 44, size := 0, r := true, w := true, x := true, u := true, sb1 := sb, inst := 0x40#7,
    s2r := true, s2w := true, s2x := true, ia := v.setWidth 44 }
def okSt {α : Type} (a : Ans α) (s : State) : State := match a with | .ok t _ => t | _ => s
def okVal {α : Type} (a : Ans α) (d : α) : α := match a with | .ok _ x => x | _ => d
def optD {α : Type} (a : Option α) (d : α) : α := a.getD d
def nextOf (o : Out) (s : State) : State := match o with | .next t => t | _ => s
/-- the whole window open to engine 3 -/
def SP (s : State) : State :=
  let r := [(48, { limit := 0x1000000, r := true, w := true, v := true })]
  { s with spc := { s.spc with reg := r, regCopy := r } }
def MP (s : State) : State := { s with mpt := [(0, { winbase := 2, winlimit := 16 })] }
def LineA : LineAddr := 0x80040#38
def CL : CLine := { line := LineA, data := 0x8040201008040201#512, dirty := 0#64 }
def GT : Gate := { handler := 0x8000, priv := 1, savemul := true, sb1 := false, masklvl := 14, sssel := 2, tpop := 1, tpush := 2 }
def CX : Ctx :=
  { l := [(0, 5)], lnk := 0x44, pc := 0x2000, syll := true, priv := 0, mask := 3, ovp := false, dsp := 0x40, rsp := 0x80, bnk := 7, bsrc := 1, bdst := 2, bcnt := 3, mlo := 4, mhi := 5, mv := true, prevsel := 7, depthx := 0x11, rdepthx := 0, ccnt := 1, rcnt := 0, stamp := 9 }
def V (g : Evg) : State := { W0 with evg := g }
/-- instance 1 owns channels 8-15 and engine 3; pool of 16 buffers at 0x100000; the channel engine reaches the whole scratchpad -/
def CH (c : Che) : State :=
  { W0 with
    wvl := { W0.wvl with poolbase := 0x100000, poolsize := 0x1000 },
    spc := { reg := [(1024, { limit := 0x1000000, r := true, w := true, v := true, inst := 1 })] },
    ins := { i := [(1, { en := true, eng := 8, first := 8, chans := 8, share := 4, lot := 7 })] },
    cpx := { W0.cpx with devid := 5 },
    tmr := { gtime := 0x1234567890 },
    che := { c with chcfg := [(9, 0x21#11 + 4)], quota := [(9, 0x40001)], grp := [(1, 0x00020001)] } }
def HDR (chan lot src dst key len flags seq rchan code : Nat) : BitVec 256 :=
  BitVec.ofNat 256 (leNat (toBytes 2 chan ++ toBytes 2 lot ++ toBytes 2 src ++ toBytes 2 dst ++ toBytes 8 key ++ toBytes 2 len ++
    toBytes 2 flags ++ toBytes 4 seq ++ toBytes 2 rchan ++ toBytes 1 code))
def CHN (st : ChainSt) (h : BitVec 256) (bufs : List Nat) : Chain :=
  { chan := 9, bufs := bufs, st := st, hdr := h, lot := 7, posted := 0, dec := .post, timedOut := false, refusal := none, led := none }
def RQ : BitVec 256 := HDR 9 7 6 5 0x1122334455667788 3 0 0x99 0x21 0
/-- port 1 in a state -/
def PT (x : Ibf) : State := { CH {} with ibf := [(1, x)] }
def MKR (lane am fields : Nat) : BitVec 120 := BitVec.ofNat 120 (0xC47A13B95E06 + lane * 2 ^ 48 + (7 - lane) * 2 ^ 52 + fields * 2 ^ 56 + am * 2 ^ 84)
def CTL (t fl n st peer : Nat) : LineData :=
  toLine 0 (toBytes 1 t ++ toBytes 1 fl ++ toBytes 2 n ++ toBytes 2 st ++ toBytes 2 peer ++ toBytes 8 0x0004000300020001 ++ (if t = 4 then toBytes 8 0x0010003000600060 else []))
def TW (t : Twn) (x : Ibf) : State := { CH {} with twn := t, ibf := [(3, x)] }
def JFL (t n fl seq dev : Nat) (body : List Byte) : LineData :=
  toLine 0 (toBytes 1 t ++ toBytes 1 n ++ toBytes 2 fl ++ toBytes 6 seq ++ toBytes 2 dev ++ [0, 0, 0, 0] ++ body)
def NV (n : Nvc) : State := { W0 with nvc := n, spc := { W0.spc with mem := [(0x3001, 7)] } }

/-! ### Well-formed commands (12 R268, R269, R274) -/

def Q (mst : BitVec 8) (word : BitVec 21) : SpReq :=
  { mst := mst, word := word, write := false, mask := 0, data := 0, chan := 0, lot := 0, ecc := .good }

theorem test_wf_scratchpad : (Instr.scratchpadAccess 5 [Q 3 5, Q 73 69]).wf = true := by decide +kernel
theorem test_ill_formed_bank : (Instr.scratchpadAccess 5 [Q 3 6]).wf = false := by decide +kernel
theorem test_ill_formed_master : (Instr.scratchpadAccess 5 [Q 74 5]).wf = false := by decide +kernel
theorem test_ill_formed_twice : (Instr.scratchpadAccess 5 [Q 3 5, Q 3 69]).wf = false := by decide +kernel
theorem test_ill_formed_stops : exec (.scratchpadAccess 5 [Q 74 5]) W0 = .fault .badOperand := rfl

/-! ### Decoding: the table gives no row bits -/

theorem test_no_bits : decodeTableWord 32 0x12345678 = none := by decide +kernel

/-! ### Single steps with results from the manual -/

/-- What engine 3 holds after a command. -/
def after (i : Instr) (s : State) : Regs := regGet (nextOf (exec i s) W0) 3

/-- 05 R100's example: `LIT` 0x00_0100, then `LITHI` 0xC0, make 0xC000_0100. -/
theorem test_lithi : (after (.lithi 3 0xC0) (R { pc := 0x2004000, ds := [.val 0x100] })).ds = [.val 0xC0000100] := by decide +kernel
/-- 03 R80: a shift by 32 gives 0; `SAR` of a negative value gives all ones. -/
theorem test_shl_32 : (after (.shl 3 (.first 0 0)) (R { pc := 0x2004000, ds := [.val 32, .val 1] })).ds = [.val 0] := by decide +kernel
theorem test_sar_40 : (after (.sar 3 (.first 0 0)) (R { pc := 0x2004000, ds := [.val 40, .val 0x80000000] })).ds = [.val 0xFFFFFFFF] := by decide +kernel
/-- 05 R101: ( a b c -- b c a ). -/
theorem test_rot : (after (.rot 3 (.first 0 0)) (R { pc := 0x2004000, ds := [.val 3, .val 2, .val 1] })).ds = [.val 1, .val 3, .val 2] := by
  decide +kernel
theorem test_front_runs : step { W0 with pending := [.testLogicReset] } = exec .testLogicReset W0 := rfl
theorem test_memories_wf : MemoriesWf { W0 with spc := { mem := [(3, 1), (4, 2)] }, nvc := { nvm := [(7, 0)] } } := by
  unfold MemoriesWf; decide +kernel

/-! ### Witnesses that no evaluation gives -/

/-- A settings record in sector 0 whose body is erased bytes (17 R390); w is its CRC. -/
def RecordMem (w : Nat) : Mem :=
  (0xC0000, 0x53) :: (0xC0001, 0x45) :: (0xC0002, 0x54) :: (0xC0003, 0x47) ::
  (0xC0004, 5) :: (0xC0005, 0) :: (0xC0006, 0) :: (0xC0007, 0) :: (0xC0008, 0) :: (0xC0009, 0) :: (0xC000A, 0) :: (0xC000B, 0) ::
  (0xC000C, BitVec.ofNat 8 w) :: (0xC000D, BitVec.ofNat 8 (w / 256)) :: (0xC000E, BitVec.ofNat 8 (w / 256 / 256)) ::
  (0xC000F, BitVec.ofNat 8 (w / 256 / 256 / 256)) :: []

def erasedBody : List Byte := List.replicate 4080 0xFF

def RecordState : State := { W0 with cpx := { step := 1 }, nvc := { nvm := RecordMem (crc32c erasedBody).toNat } }

theorem record_slice (w n : Nat) : mslice nvmDefault (RecordMem w) 0xC0000 (n + 16) =
    0x53 :: 0x45 :: 0x54 :: 0x47 :: 5 :: 0 :: 0 :: 0 :: 0 :: 0 :: 0 :: 0 :: BitVec.ofNat 8 w :: BitVec.ofNat 8 (w / 256) ::
      BitVec.ofNat 8 (w / 256 / 256) :: BitVec.ofNat 8 (w / 256 / 256 / 256) :: List.replicate n nvmDefault := by
  have h (d : Byte) (k : Nat) (v : Byte) (r : Mem) (m : Nat) : mslice d ((k, v) :: r) k (m + 1) = v :: mslice d r (k + 1) m := by
    simp [mslice]
  have h0 (d : Byte) (a m : Nat) : mslice d [] a m = List.replicate m d := rfl
  simp only [RecordMem, h, h0]

theorem erased_body : List.replicate 4080 nvmDefault = erasedBody := rfl

theorem record_mem : RecordState.nvc.nvm = RecordMem (crc32c erasedBody).toNat := rfl

theorem record_ok (w : Word) (n : Nat) (h : crc32c (List.replicate n nvmDefault) = w) (s : State) (hb : s.nvc.bad = [])
    (hm : s.nvc.nvm = RecordMem w.toNat) (hn : n + 16 = 4096) : ∃ x, settingsAt s 0 = some x := by
  have hw := w.isLt
  rw [settingsAt, nvmRead, hb, hm, ← hn]
  simp only [List.any_nil, Bool.false_eq_true, if_false, Nat.mul_zero, Nat.add_zero, record_slice, Option.bind_some, recordSeq,
    List.drop_succ_cons, List.drop_zero, h]
  rw [if_pos]
  · exact ⟨_, rfl⟩
  · refine ⟨rfl, ?_⟩
    simp only [wordAt, List.drop_succ_cons, List.drop_zero, List.take_succ_cons, List.take_zero, leNat, BitVec.toNat_ofNat]
    generalize w.toNat = w at *
    omega

theorem record_valid : ∃ x, settingsAt RecordState 0 = some x :=
  record_ok (crc32c erasedBody) 4080 (by rw [erased_body]) RecordState rfl record_mem rfl

theorem bestRecord_some {s : State} (h : ∃ x, settingsAt s 0 = some x) :
    ∃ k q bs, bestRecord s (List.range 16) = some (k, q, bs) := by
  obtain ⟨x, h⟩ := h
  have keeps : ∀ (l : List Nat) (f : Option (Nat × Nat × List Byte) → Nat → Option (Nat × Nat × List Byte)),
      (∀ b k, b.isSome = true → (f b k).isSome = true) → ∀ b, b.isSome = true → (l.foldl f b).isSome = true := by
    intro l f hf
    induction l with
    | nil => exact fun b h => h
    | cons a l ih => exact fun b hb => ih _ (hf b a hb)
  have : (bestRecord s (List.range 16)).isSome = true := by
    have hr : List.range 16 = 0 :: (List.range 15).map (· + 1) := by decide
    rw [bestRecord, hr, List.foldl_cons, h]
    refine keeps _ _ ?_ _ rfl
    intro b k hb
    cases b with
    | none => cases hb
    | some b =>
      cases settingsAt s k with
      | none => rfl
      | some y => dsimp only; split <;> rfl
  obtain ⟨⟨k, q, bs⟩, hx⟩ := Option.isSome_iff_exists.1 this
  exact ⟨k, q, bs, hx⟩

theorem witness_StartUpSteps_record : ∃ (s : State) (k q : Nat) (bs : List Byte), clkOn s .mgclk = true ∧ s.cpx.step = 1 ∧
    bestRecord s (List.range 16) = some (k, q, bs) := by
  obtain ⟨k, q, bs, h⟩ := bestRecord_some record_valid
  exact ⟨RecordState, k, q, bs, by decide +kernel, by decide +kernel, h⟩

/-- A codeword whose last 2 · k symbols are 1 and the others 0, on two lanes, at a port with b uncorrectable codewords behind it. -/
def codewordState (b k : Nat) : State :=
  let bits : Bits := ⟨2720, (List.range k).foldl (fun a i => a + 2 ^ (10 * (271 - i))) 0⟩
  PT { st := .active, badrun := b, width := 2, lanes := 3,
       phys := [(0, ⟨0, 0, 0, 0, 0, 0, true⟩), (5, ⟨1, 0, 0, 0, 0, 0, true⟩)],
       prx := { words := [(0, 43), (5, 43)], start := [(0, 32), (5, 32)], inb := [(0, bits), (5, bits)] } }

theorem bad_codeword : fecDecode (List.replicate 524 0 ++ List.replicate 20 1) = none := by
  apply Laws.fecDecode_too_many <;> rw [Laws.syndromes_zeros] <;> decide +kernel

theorem witness_CodewordsDecoded_whole : ∀ q ∈ [(0, 10), (3, 10), (0, 0)], ∃ word,
    let s := codewordState q.1 q.2
    let x := ibfGet s 1
    (portOn s 1 = true ∧ x.st = .active ∧ (setPhys x).length = widthLanes x.width ∧ gather x.prx (setPhys x) = some word ∧
      x.badrun = q.1) ∧ fecDecode word = if q.2 = 0 then some (word, []) else none := by
  intro q hq
  simp only [List.mem_cons, List.not_mem_nil, or_false] at hq
  obtain rfl | rfl | rfl := hq
  · exact ⟨_, by decide +kernel, bad_codeword⟩
  · exact ⟨_, by decide +kernel, bad_codeword⟩
  · refine ⟨List.replicate 544 0 ++ [], by decide +kernel, Laws.fecDecode_clean _ ?_⟩
    rw [Laws.syndromes_zeros]; decide +kernel

/-- The 33 lines of an image stand in engine 3's D-cache: its header, and registers of nines. -/
def imageLine (k : Nat) : LineData := if k = 0 then 0x00000004000000020000000300000005 else 9
def imageState : State :=
  E { m := { dc := (List.range 33).map fun k => (4 * (64 + k), { line := 0x80040 + BitVec.ofNat 38 k, data := imageLine k, dirty := 0 }) },
      r := { pc := 0x2004000, priv := 2, sp := { ctl := 8, ctlEff := 8, vl := 3, vstart := 1, vtype := 2 }, ds := [.val 0x2001000] } }

def imagePA (k : Nat) : PAddr := ((0x2001000#32 + BitVec.ofNat 32 (64 * k)).setWidth 44)

theorem image_lines : ∀ k < 33, inWindow imageState (imagePA k) = false ∧ (decodePort imageState (imagePA k)).isSome = true ∧
    (∀ x ∈ sbAll (engGet imageState 3), x.line ≠ lineOf (imagePA k)) ∧
    wayOf (engGet imageState 3).m.dc (lineOf (imagePA k)) = some 0 ∧
    tfind (engGet imageState 3).m.dc (4 * setOf (lineOf (imagePA k))) =
      some { line := 0x80040 + BitVec.ofNat 38 k, data := imageLine k, dirty := 0 } := by decide +kernel

theorem witness_VectorSaveAndRestore_image :
    (readyNative imageState 3 .long = true ∧ (regGet imageState 3).sp.ctlEff.getLsbD 3 = true ∧ (engGet imageState 3).vq = [] ∧
      (regGet imageState 3).ds = .val 0x2001000 :: [] ∧ untranslated (engGet imageState 3).r = true) ∧
    ∀ k : Nat, k < 33 → inWindow imageState (imagePA k) = false ∧ (decodePort imageState (imagePA k)).isSome = true ∧
      (∀ x ∈ sbAll (engGet imageState 3), x.line ≠ lineOf (imagePA k)) ∧
      ∃ w c, wayOf (engGet imageState 3).m.dc (lineOf (imagePA k)) = some w ∧
        tfind (engGet imageState 3).m.dc (4 * setOf (lineOf (imagePA k)) + w) = some c ∧ c.data = imageLine k :=
  ⟨by decide +kernel, fun k hk =>
    have h := image_lines k hk
    ⟨h.1, h.2.1, h.2.2.1, 0, _, h.2.2.2.1, h.2.2.2.2, rfl⟩⟩

/-- The hypotheses of `StepsKeepMemories` and `WellFormedCommandsRun`: a state whose memories list bytes and whose queue holds a command
that writes. -/
def KeepState : State :=
  { W0 with spc := { mem := [(0x3001, 7)] }, nvc := { nvm := [(3, 7)] }, pending := [.scratchpadAccess 5 [Q 3 5], .wake] }

def isNext (o : Out) : Bool := match o with | .next _ => true | _ => false

theorem witness_StepsKeepMemories : MemoriesWf KeepState ∧ ∃ t, step KeepState = .next t := by
  refine ⟨by unfold MemoriesWf; decide +kernel, ?_⟩
  have some_next (o : Out) (h : isNext o = true) : ∃ t, o = .next t := by
    cases o with
    | next t => exact ⟨t, rfl⟩
    | fault _ => cases h
    | refused _ => cases h
  exact some_next _ (by decide +kernel)

theorem witness_WellFormedCommandsRun : PendingWf KeepState ∧ Instr.wake.wf = true ∧
    (Instr.scratchpadAccess 5 [Q 74 5]).wf = false := by
  unfold PendingWf; decide +kernel

/-! ### Witnesses -/

/-- The hypotheses of `TickAdvancesTime`. -/
theorem witness_TickAdvancesTime :
  (let s : State := E {}
   (s.pending = []) ∧
   (fclkOn s = true) ∧
   (s.cyc = {}) ∧
   (s.che.wq = []) ∧
   (s.hlt.twinMsgs = []) ∧
   (s.hlt.hostMsgs = []) ∧
   (s.hpt.reqs = []) ∧
   ((∀ n < 5, (mptGet s n).rspq = [])) ∧
   ((∀ p < 4, (ibfGet s p).mggo = false)) ∧
   ((∀ e, (engGet s e).ra = none))) ∧
  (let s : State := { E {} with stopped := [.fclk, .mgclk] }
   (s.pending = []) ∧
   (fclkOn s = false) ∧
   (clkOn s .mgclk = false)) := by
  refine ⟨?_, ?_⟩
  all_goals first | decide +kernel | (repeat' (first | decide +kernel | rfl | refine And.intro ?_ ?_ | (intro h; exact absurd h (by decide +kernel)) | (intros; rfl) | (intro _ _; exact ⟨rfl, rfl⟩) | (simp; done)))

/-- The hypotheses of `StackAndLiterals`, Literal results. -/
theorem witness_LiteralResults :
  (let s : State := R { pc := 0x2004000, ds := [.val 0xFFFFFFFF#32, .val 7] }
   let e : Eng := 3
   let f : Form := .long 0xFFFFF8#24
   let o : BitVec 24 := 0xFF#24
   let a : Word := 0xFFFFFFFF#32
   let rest : List Cell := [.val 7]
   let r := regGet s e
   (readyNative s e (formPlace f) = true) ∧
   (r.ds.length ≤ 31) ∧
   (r.ds = .val a :: rest) ∧
   (rest.length ≤ 31) ∧
   (readyNative s e .long = true) ∧
   (o.toNat < 256)) := by
  first | decide +kernel | (repeat' (first | decide +kernel | rfl | refine And.intro ?_ ?_ | (intro h; exact absurd h (by decide +kernel)) | (intros; rfl) | (intro _ _; exact ⟨rfl, rfl⟩) | (simp; done)))

/-- The hypotheses of `StackAndLiterals`, Shuffle results. -/
theorem witness_ShuffleResults :
  (let s : State := R { pc := 0x2004000, ds := [.val 3] }
   let e : Eng := 3
   let y : Syl := .first 0 0
   let a : Word := 3
   let rest : List Cell := []
   let r := regGet s e
   (readyNative s e (sylPlace y) = true) ∧
   (sylOpnd y = 0) ∧
   (rest.length ≤ 29) ∧
   (r.ds.length ≤ 32) ∧
   (r.ds = .val a :: rest)) ∧
  (let s : State := R { pc := 0x2004000, syll := true, ds := [.val 4, .val 3] }
   let e : Eng := 3
   let y : Syl := .second 0
   let a : Word := 3
   let b : Word := 4
   let rest : List Cell := []
   let r := regGet s e
   (readyNative s e (sylPlace y) = true) ∧
   (sylOpnd y = 0) ∧
   (rest.length ≤ 29) ∧
   (r.ds = .val b :: .val a :: rest)) ∧
  (let s : State := R { pc := 0x2004000, ds := [.val 5, .val 4, .val 3] }
   let e : Eng := 3
   let y : Syl := .first 0 0
   let a : Word := 3
   let b : Word := 4
   let c : Word := 5
   let rest : List Cell := []
   let r := regGet s e
   (readyNative s e (sylPlace y) = true) ∧
   (sylOpnd y = 0) ∧
   (rest.length ≤ 29) ∧
   (r.ds = .val c :: .val b :: .val a :: rest)) := by
  refine ⟨?_, ?_, ?_⟩
  all_goals first | decide +kernel | (repeat' (first | decide +kernel | rfl | refine And.intro ?_ ?_ | (intro h; exact absurd h (by decide +kernel)) | (intros; rfl) | (intro _ _; exact ⟨rfl, rfl⟩) | (simp; done)))

/-- The hypotheses of `StackAndLiterals`, Pick results. -/
theorem witness_PickResults :
  (let s : State := R { pc := 0x2004000, ds := [.val 5, .val 4, .val 3] }
   let e : Eng := 3
   let y : Syl := .first 2 0
   let w : Word := 3
   let r := regGet s e
   (readyNative s e (sylPlace y) = true) ∧
   ((regGet s e).ds.length ≤ 31) ∧
   (r.ds[(sylOpnd y).toNat]? = some (.val w))) ∧
  (let s : State := R { pc := 0x2004000, ds := [.val 5, .val 4, .val 3] }
   let e : Eng := 3
   let y : Syl := .first 3 0
   let r := regGet s e
   (readyNative s e (sylPlace y) = true) ∧
   ((regGet s e).ds.length ≤ 31) ∧
   (depth r ≤ (sylOpnd y).toNat)) := by
  refine ⟨?_, ?_⟩
  all_goals first | decide +kernel | (repeat' (first | decide +kernel | rfl | refine And.intro ?_ ?_ | (intro h; exact absurd h (by decide +kernel)) | (intros; rfl) | (intro _ _; exact ⟨rfl, rfl⟩) | (simp; done)))

/-- The hypotheses of `StackAndLiterals`, Local results. -/
theorem witness_LocalResults :
  (let s : State := R { pc := 0x2004000, ds := [.val 1], l := [(15, 7)] }
   let e : Eng := 3
   let y : Syl := .first 15 0
   let a : Word := 1
   let rest : List Cell := []
   let r := regGet s e
   (readyNative s e (sylPlace y) = true) ∧
   ((sylOpnd y).toNat < 16) ∧
   (r.ds.length ≤ 31) ∧
   (r.ds = .val a :: rest) ∧
   (rest.length ≤ 31)) := by
  first | decide +kernel | (repeat' (first | decide +kernel | rfl | refine And.intro ?_ ?_ | (intro h; exact absurd h (by decide +kernel)) | (intros; rfl) | (intro _ _; exact ⟨rfl, rfl⟩) | (simp; done)))

/-- The hypotheses of `ArithmeticResults`, Binary results. -/
theorem witness_BinaryResults :
  (let s : State := R { pc := 0x2004000, ds := [.val 0x80000000, .val 3] }
   let e : Eng := 3
   let y : Syl := .first 0 0
   let a : Word := 3
   let b : Word := 0x80000000
   let rest : List Cell := []
   (readyNative s e (sylPlace y) = true) ∧
   (sylOpnd y = 0) ∧
   ((regGet s e).ds = .val b :: .val a :: rest) ∧
   (rest.length ≤ 30)) := by
  first | decide +kernel | (repeat' (first | decide +kernel | rfl | refine And.intro ?_ ?_ | (intro h; exact absurd h (by decide +kernel)) | (intros; rfl) | (intro _ _; exact ⟨rfl, rfl⟩) | (simp; done)))

/-- The hypotheses of `ArithmeticResults`, Unary results. -/
theorem witness_UnaryResults :
  (let s : State := R { pc := 0x2004000, ds := [.val 0x8080] }
   let e : Eng := 3
   let y : Syl := .first 0 0
   let a : Word := 0x8080
   let rest : List Cell := []
   (readyNative s e (sylPlace y) = true) ∧
   ((regGet s e).ds = .val a :: rest) ∧
   (rest.length ≤ 31) ∧
   (sylOpnd y = 0) ∧
   ((sylOpnd y).toNat < 32)) := by
  first | decide +kernel | (repeat' (first | decide +kernel | rfl | refine And.intro ?_ ?_ | (intro h; exact absurd h (by decide +kernel)) | (intros; rfl) | (intro _ _; exact ⟨rfl, rfl⟩) | (simp; done)))

/-- The hypotheses of `ArithmeticResults`, Short mode results. -/
theorem witness_ShortModeResults :
  (let s : State := E { r := { pc := 0x2004000, sp := { xctl := 1, xctlEff := 1 }, ds := [.val 0x13, .val 0x18001] }, m := { itlb := [TLB 0x2004000 true] } }
   let e : Eng := 3
   let y : Syl := .first 0 0
   let a : Word := 0x18001
   let b : Word := 0x13
   let rest : List Cell := []
   let r := regGet s e
   (readyShort s e (sylPlace y) = true) ∧
   (sylOpnd y = 0) ∧
   (rest.length ≤ 30) ∧
   (r.ds = .val b :: .val a :: rest) ∧
   (sylPlace y ≠ .second)) ∧
  (let s : State := E { r := { pc := 0x2004000, sp := { xctl := 1, xctlEff := 1 }, ds := [.val 0x18001] }, m := { itlb := [TLB 0x2004000 true] } }
   let e : Eng := 3
   let y : Syl := .first 0 0
   let a : Word := 0x18001
   let rest : List Cell := []
   let r := regGet s e
   (readyShort s e (sylPlace y) = true) ∧
   (sylOpnd y = 0) ∧
   (rest.length ≤ 30) ∧
   (r.ds = .val a :: rest)) := by
  refine ⟨?_, ?_⟩
  all_goals first | decide +kernel | (repeat' (first | decide +kernel | rfl | refine And.intro ?_ ?_ | (intro h; exact absurd h (by decide +kernel)) | (intros; rfl) | (intro _ _; exact ⟨rfl, rfl⟩) | (simp; done)))

/-- The hypotheses of `CheckedArithmetic`, Checked results. -/
theorem witness_CheckedResults :
  (let s : State := R { pc := 0x2004000, sp := { ctl := 1, ctlEff := 1 }, ds := [.val 1, .val 0x7FFFFFFF] }
   let e : Eng := 3
   let w : BitVec 16 := 0
   let a : Word := 0x7FFFFFFF
   let b : Word := 1
   let rest : List Cell := []
   let r := regGet s e
   (readyNative s e (.first w) = true) ∧
   (rest.length ≤ 30) ∧
   (r.ds = .val b :: .val a :: rest)) ∧
  (let s : State := R { pc := 0x2004000, sp := { ctl := 1, ctlEff := 1 }, ds := [.val 0x80000000] }
   let e : Eng := 3
   let w : BitVec 16 := 0
   let a : Word := 0x80000000
   let rest : List Cell := []
   let r := regGet s e
   (readyNative s e (.first w) = true) ∧
   (rest.length ≤ 30) ∧
   (r.ds = .val a :: rest)) := by
  refine ⟨?_, ?_⟩
  all_goals first | decide +kernel | (repeat' (first | decide +kernel | rfl | refine And.intro ?_ ?_ | (intro h; exact absurd h (by decide +kernel)) | (intros; rfl) | (intro _ _; exact ⟨rfl, rfl⟩) | (simp; done)))

/-- The hypotheses of `CheckedArithmetic`, Overflow after word. -/
theorem witness_OverflowAfterWord :
  (let s : State := E { r := { pc := 0x2004000, syll := true, ovp := true, ds := [.val 1], mask := 0 }, gates := [(8, GT)], other := some CX, spill := some ⟨CX, 0x8000, 0, 0⟩ }
   let e : Eng := 3
   let g := engGet s e
   let r := regGet s e
   let i : FaultInfo := { num := 8, faddr := some r.pc }
   (canRun s (engGet s e) = true) ∧
   ((engGet s e).ra = none) ∧
   ((engGet s e).wrong = none) ∧
   ((engGet s e).r.syll = true) ∧
   ((engGet s e).xwait = false) ∧
   (wordHeld s e = true) ∧
   (sb1Mode s e = false) ∧
   (r.ovp = true) ∧
   (r.ds.length ≤ 32) ∧
   (faultHeld g i = true)) ∧
  (let s : State := R { pc := 0x2004000, syll := true, ovp := true, priv := 0, ds := [.val 1] }
   let e : Eng := 3
   let g := engGet s e
   let r := regGet s e
   let i : FaultInfo := { num := 8, faddr := some r.pc }
   (canRun s (engGet s e) = true) ∧
   ((engGet s e).ra = none) ∧
   ((engGet s e).wrong = none) ∧
   ((engGet s e).r.syll = true) ∧
   ((engGet s e).xwait = false) ∧
   (wordHeld s e = true) ∧
   (sb1Mode s e = false) ∧
   (faultHeld g i = false) ∧
   (g.m.sb.all (!·.spec) = true) ∧
   (r.ovp = true) ∧
   (r.ds.length ≤ 32)) ∧
  (let s : State := R { pc := 0x2004000, syll := true, sp := { ctl := 1, ctlEff := 1 }, ds := [.val 1, .val 0x7FFFFFFF] }
   let e : Eng := 3
   let a : Word := 0x7FFFFFFF
   let b : Word := 1
   let rest : List Cell := []
   let g := engGet s e
   let r := regGet s e
   let i : FaultInfo := { num := 8, faddr := some r.pc }
   (canRun s (engGet s e) = true) ∧
   ((engGet s e).ra = none) ∧
   ((engGet s e).wrong = none) ∧
   ((engGet s e).r.syll = true) ∧
   ((engGet s e).xwait = false) ∧
   (wordHeld s e = true) ∧
   (sb1Mode s e = false) ∧
   (faultHeld g i = false) ∧
   (g.m.sb.all (!·.spec) = true) ∧
   (r.sp.ctlEff.getLsbD 0 = true) ∧
   (r.ds = .val b :: .val a :: rest) ∧
   (rest.length ≤ 30) ∧
   (2 ^ 31 - 1 < a.toInt + b.toInt)) := by
  refine ⟨?_, ?_, ?_⟩
  all_goals first | decide +kernel | (repeat' (first | decide +kernel | rfl | refine And.intro ?_ ?_ | (intro h; exact absurd h (by decide +kernel)) | (intros; rfl) | (intro _ _; exact ⟨rfl, rfl⟩) | (simp; done)))

/-- The hypotheses of `StackPreparation`, Underflow raised. -/
theorem witness_UnderflowRaised :
  (let s : State := R { pc := 0x2004000, dsp := 0x20, sp := { dsbase := 0x20 } }
   let e : Eng := 3
   let y : Syl := .first 0 0
   let r := regGet s e
   (readyNative s e (sylPlace y) = true) ∧
   (sylOpnd y = 0) ∧
   (depth r < 1) ∧
   (depth r < 2) ∧
   (depth r < 3)) := by
  first | decide +kernel | (repeat' (first | decide +kernel | rfl | refine And.intro ?_ ?_ | (intro h; exact absurd h (by decide +kernel)) | (intros; rfl) | (intro _ _; exact ⟨rfl, rfl⟩) | (simp; done)))

/-- The hypotheses of `StackPreparation`, Stack blocks. -/
theorem witness_StackBlocks :
  (let s : State := { SP (R { pc := 0x2004000, dsp := 0x2020, sp := { dsbase := 0x2000 } }) with spc := { (SP (E {})).spc with mem := [(0x2000, 1), (0x201C, 8)] } }
   let e : Eng := 3
   let k : Nat := 1
   let m : Nat := 1
   let s1 : State := okSt (loadRead s e 0x2000 32) s
   let bs : List Byte := okVal (loadRead s e 0x2000 32) []
   let r := regGet s e
   let c := r.ds.length
   (k ≤ 4) ∧
   (m ≤ 4) ∧
   ((regGet s e).ds.length ≤ 32) ∧
   ((engGet s e).ra = none) ∧
   (k ≤ depth r) ∧
   (c < k) ∧
   (r.sp.dsbase.toNat + 32 ≤ r.dsp.toNat) ∧
   (loadRead s e (r.dsp - 32) 32 = .ok s1 bs)) ∧
  (let s : State := SP (R { pc := 0x2004000, ds := (List.range 32).map fun k => .val (BitVec.ofNat 32 k), dsp := 0x2000, sp := { dsbase := 0x2000, dslim := 0x3000, dslimEff := 0x3000 } })
   let e : Eng := 3
   let k : Nat := 0
   let m : Nat := 1
   let vs : List Word := (List.range 8).map fun k => BitVec.ofNat 32 (24 + k)
   let s1 : State := okSt (dataWrite s e 0x2000 (bytesOfWords vs.reverse) true) s
   let r := regGet s e
   let c := r.ds.length
   (k ≤ 4) ∧
   (m ≤ 4) ∧
   ((regGet s e).ds.length ≤ 32) ∧
   ((engGet s e).ra = none) ∧
   (k ≤ c) ∧
   (32 + k < c + m) ∧
   (8 ≤ c) ∧
   (r.ds.drop (c - 8) = vs.map .val) ∧
   (r.sp.dsbase.toNat ≤ r.dsp.toNat) ∧
   (r.dsp.toNat + 32 ≤ r.sp.dslimEff.toNat) ∧
   (dataWrite s e r.dsp (bytesOfWords vs.reverse) true = .ok s1 ())) ∧
  (let s : State := R { pc := 0x2004000 }
   let e : Eng := 3
   let k : Nat := 1
   let m : Nat := 0
   let r := regGet s e
   (k ≤ 4) ∧
   (m ≤ 4) ∧
   ((regGet s e).ds.length ≤ 32) ∧
   ((engGet s e).ra = none) ∧
   (depth r < k)) ∧
  (let s : State := R { pc := 0x2004000, ds := [.val 1] }
   let e : Eng := 3
   let k : Nat := 1
   let m : Nat := 4
   let r := regGet s e
   let c := r.ds.length
   (k ≤ 4) ∧
   (m ≤ 4) ∧
   ((regGet s e).ds.length ≤ 32) ∧
   ((engGet s e).ra = none) ∧
   (k ≤ c) ∧
   (c + m ≤ 32 + k)) := by
  refine ⟨?_, ?_, ?_, ?_⟩
  all_goals first | decide +kernel | (repeat' (first | decide +kernel | rfl | refine And.intro ?_ ?_ | (intro h; exact absurd h (by decide +kernel)) | (intros; rfl) | (intro _ _; exact ⟨rfl, rfl⟩) | (simp; done)))

/-- The hypotheses of `StackPreparation`, Stack preparation keeps depth. -/
theorem witness_StackPreparationKeepsDepth :
  (let s : State := R { ds := [.val 1] }
   let t : State := R { ds := [.val 1] }
   let e : Eng := 3
   let k : Nat := 1
   let m : Nat := 2
   (k ≤ 4) ∧
   (m ≤ 4) ∧
   ((regGet s e).ds.length ≤ 32) ∧
   ((regGet s e).sp.dsbase.toNat % 32 = 0) ∧
   ((regGet s e).dsp.toNat % 32 = 0) ∧
   (prepDs s e k m = .ok t ())) := by
  first | decide +kernel | (repeat' (first | decide +kernel | rfl | refine And.intro ?_ ?_ | (intro h; exact absurd h (by decide +kernel)) | (intros; rfl) | (intro _ _; exact ⟨rfl, rfl⟩) | (simp; done)))

/-- The hypotheses of `LoadAndStoreResults`, Load results. -/
theorem witness_LoadResults :
  (let s : State := SP { R { pc := 0x2004000, ds := [.val 0x2001] } with spc := { mem := [(0x2000,0x80),(0x2001,0xFF),(0x2002,0x7F),(0x2003,0x90)] } }
   let e : Eng := 3
   let f : Form := .long 0xFFFFFF
   let a : Word := 0x2001
   let rest : List Cell := []
   let bs : List Byte := [0x80]
   let t : State := okSt (loadRead s e (0x2001 - 1) 1) s
   let va := fun (size : Nat) => a + (match f with
           | .long o => o.signExtend 32
           | .first o _ => o.signExtend 32 * BitVec.ofNat 32 size
           | .second o => o.signExtend 32 * BitVec.ofNat 32 size)
   (readyNative s e (formPlace f) = true) ∧
   ((regGet s e).ds = .val a :: rest) ∧
   (rest.length ≤ 31) ∧
   (ready t e (formPlace f) = true) ∧
   (regGet t e = regGet s e) ∧
   (loadRead s e (va 1) 1 = .ok t bs)) ∧
  (let s : State := SP { R { pc := 0x2004000, ds := [.val 0x1FFE, .val 1] } with spc := { mem := [(0x2000,0x80),(0x2001,0xFF),(0x2002,0x7F),(0x2003,0x90)] } }
   let e : Eng := 3
   let f : Form := .first 1 0
   let a : Word := 0x1FFE
   let rest : List Cell := [.val 1]
   let bs : List Byte := [0x80, 0xFF]
   let t : State := okSt (loadRead s e 0x2000 2) s
   let va := fun (size : Nat) => a + (match f with
           | .long o => o.signExtend 32
           | .first o _ => o.signExtend 32 * BitVec.ofNat 32 size
           | .second o => o.signExtend 32 * BitVec.ofNat 32 size)
   (readyNative s e (formPlace f) = true) ∧
   ((regGet s e).ds = .val a :: rest) ∧
   (rest.length ≤ 31) ∧
   (ready t e (formPlace f) = true) ∧
   (regGet t e = regGet s e) ∧
   (loadRead s e (va 2) 2 = .ok t bs)) ∧
  (let s : State := SP { R { pc := 0x2004000, syll := true, ds := [.val 0x2004] } with spc := { mem := [(0x2000,0x80),(0x2001,0xFF),(0x2002,0x7F),(0x2003,0x90)] } }
   let e : Eng := 3
   let f : Form := .second 0xFF
   let a : Word := 0x2004
   let rest : List Cell := []
   let bs : List Byte := [0x80, 0xFF, 0x7F, 0x90]
   let t : State := okSt (loadRead s e 0x2000 4) s
   let va := fun (size : Nat) => a + (match f with
           | .long o => o.signExtend 32
           | .first o _ => o.signExtend 32 * BitVec.ofNat 32 size
           | .second o => o.signExtend 32 * BitVec.ofNat 32 size)
   (readyNative s e (formPlace f) = true) ∧
   ((regGet s e).ds = .val a :: rest) ∧
   (rest.length ≤ 31) ∧
   (ready t e (formPlace f) = true) ∧
   (regGet t e = regGet s e) ∧
   (loadRead s e (va 4) 4 = .ok t bs)) := by
  refine ⟨?_, ?_, ?_⟩
  all_goals first | decide +kernel | (repeat' (first | decide +kernel | rfl | refine And.intro ?_ ?_ | (intro h; exact absurd h (by decide +kernel)) | (intros; rfl) | (intro _ _; exact ⟨rfl, rfl⟩) | (simp; done)))

/-- The hypotheses of `LoadAndStoreResults`, Store results. -/
theorem witness_StoreResults :
  (let s : State := SP (R { pc := 0x2004000, ds := [.val 0x2001, .val 0x1234] })
   let e : Eng := 3
   let f : Form := .long 0xFFFFFF
   let x : Word := 0x1234
   let a : Word := 0x2001
   let rest : List Cell := []
   let t : State := okSt (dataWrite s e 0x2000 [0x34] false) s
   let va := fun (size : Nat) => a + (match f with
           | .long o => o.signExtend 32
           | .first o _ => o.signExtend 32 * BitVec.ofNat 32 size
           | .second o => o.signExtend 32 * BitVec.ofNat 32 size)
   (readyNative s e (formPlace f) = true) ∧
   ((regGet s e).ds = .val a :: .val x :: rest) ∧
   (rest.length ≤ 30) ∧
   (ready t e (formPlace f) = true) ∧
   (regGet t e = regGet s e) ∧
   (dataWrite s e (va 1) (toBytes 1 x.toNat) false = .ok t ())) ∧
  (let s : State := SP (R { pc := 0x2004000, ds := [.val 0x1FFE, .val 0x1234] })
   let e : Eng := 3
   let f : Form := .first 1 0
   let x : Word := 0x1234
   let a : Word := 0x1FFE
   let rest : List Cell := []
   let t : State := okSt (dataWrite s e 0x2000 [0x34,0x12] false) s
   let va := fun (size : Nat) => a + (match f with
           | .long o => o.signExtend 32
           | .first o _ => o.signExtend 32 * BitVec.ofNat 32 size
           | .second o => o.signExtend 32 * BitVec.ofNat 32 size)
   (readyNative s e (formPlace f) = true) ∧
   ((regGet s e).ds = .val a :: .val x :: rest) ∧
   (rest.length ≤ 30) ∧
   (ready t e (formPlace f) = true) ∧
   (regGet t e = regGet s e) ∧
   (dataWrite s e (va 2) (toBytes 2 x.toNat) false = .ok t ())) ∧
  (let s : State := SP (R { pc := 0x2004000, syll := true, ds := [.val 0x203E, .val 0x1234] })
   let e : Eng := 3
   let f : Form := .second 0
   let x : Word := 0x1234
   let a : Word := 0x203E
   let rest : List Cell := []
   let t : State := okSt (dataWrite s e 0x203E [0x34,0x12,0,0] false) s
   let va := fun (size : Nat) => a + (match f with
           | .long o => o.signExtend 32
           | .first o _ => o.signExtend 32 * BitVec.ofNat 32 size
           | .second o => o.signExtend 32 * BitVec.ofNat 32 size)
   (readyNative s e (formPlace f) = true) ∧
   ((regGet s e).ds = .val a :: .val x :: rest) ∧
   (rest.length ≤ 30) ∧
   (ready t e (formPlace f) = true) ∧
   (regGet t e = regGet s e) ∧
   (dataWrite s e (va 4) (toBytes 4 x.toNat) false = .ok t ())) := by
  refine ⟨?_, ?_, ?_⟩
  all_goals first | decide +kernel | (repeat' (first | decide +kernel | rfl | refine And.intro ?_ ?_ | (intro h; exact absurd h (by decide +kernel)) | (intros; rfl) | (intro _ _; exact ⟨rfl, rfl⟩) | (simp; done)))

/-- The hypotheses of `ReadsFindBytes`, Read finds its bytes. -/
theorem witness_ReadFindsItsBytes :
  (let s : State := MP (E { m := { sb := [⟨LineA, 5, 0xF, 0xF, false, false, false⟩, ⟨LineA, 7, 0xFF, 0xFF, false, false, false⟩] } })
   let e : Eng := 3
   let va : Word := 0x2001004
   let n : Nat := 4
   let g := engGet s e
   let pa : PAddr := va.setWidth 44
   let l := lineOf pa
   let o := va.toNat % 64
   let older : List SbEntry := [⟨LineA, 5, 0xF, 0xF, false, false, false⟩]
   let x : SbEntry := ⟨LineA, 7, 0xFF, 0xFF, false, false, false⟩
   ((engGet s e).io = none) ∧
   (untranslated (regGet s e) = true) ∧
   (0 < n) ∧
   (va.toNat % 64 + n ≤ 64) ∧
   (inWindow s pa = false) ∧
   ((decodePort s pa).isSome = true) ∧
   (sbAll g = older ++ [x]) ∧
   (x.line = l) ∧
   (lineMask o n &&& ~~~x.mask = 0)) ∧
  (let s : State := MP (E { m := { dc := [(256, CL)] } })
   let e : Eng := 3
   let va : Word := 0x2001002
   let n : Nat := 4
   let g := engGet s e
   let pa : PAddr := va.setWidth 44
   let l := lineOf pa
   let w : Nat := 0
   let c : CLine := CL
   ((engGet s e).io = none) ∧
   (untranslated (regGet s e) = true) ∧
   (0 < n) ∧
   (va.toNat % 64 + n ≤ 64) ∧
   (inWindow s pa = false) ∧
   ((decodePort s pa).isSome = true) ∧
   ((∀ x ∈ sbAll g, x.line ≠ l)) ∧
   (wayOf g.m.dc l = some w) ∧
   (tfind g.m.dc (4 * setOf l + w) = some c)) ∧
  (let s : State := SP (E {})
   let e : Eng := 3
   let va : Word := 0x3F
   let n : Nat := 1
   let g := engGet s e
   let pa : PAddr := va.setWidth 44
   let l := lineOf pa
   let t : State := (wordsServe s 3 (wordsOf 0x3F 1)).1
   ((engGet s e).io = none) ∧
   (untranslated (regGet s e) = true) ∧
   (0 < n) ∧
   (va.toNat % 64 + n ≤ 64) ∧
   (inWindow s pa = true) ∧
   ((∀ x ∈ sbAll g, x.line ≠ l)) ∧
   (firstRefused s e.val (engPres s e) false ((List.range n).map (· + winOff s pa)) = none) ∧
   ((∀ w ∈ wordsOf (winOff s pa) n, w ∉ s.spc.bad ∧ w ∉ s.spc.soft ∧ (w % 64, e.val) ∉ s.spc.paths ∧
           ∀ x ∈ s.cyc.wrote, x.word = w → x.mst = e.val)) ∧
   (s.cyc.ecc = []) ∧
   (wordsServe s e.val (wordsOf (winOff s pa) n) = (t, true))) := by
  refine ⟨?_, ?_, ?_⟩
  all_goals first | decide +kernel | (repeat' (first | decide +kernel | rfl | refine And.intro ?_ ?_ | (intro h; exact absurd h (by decide +kernel)) | (intros; rfl) | (intro _ _; exact ⟨rfl, rfl⟩) | (simp; done)))

/-- The hypotheses of `ReadsFindBytes`, Region refusal. -/
theorem witness_RegionRefusal :
  (let s : State := SP { (E {}) with spc := { violev := true } }
   let e : Eng := 4
   let va : Word := 0x3C
   let n : Nat := 4
   let k : Nat := 0
   let write : Bool := true
   let pa : PAddr := va.setWidth 44
   ((engGet s e).io = none) ∧
   (untranslated (regGet s e) = true) ∧
   (0 < n) ∧
   (va.toNat % 64 + n ≤ 64) ∧
   (inWindow s pa = true) ∧
   (k < n) ∧
   (firstRefused s e.val (engPres s e) write ((List.range n).map (· + winOff s pa)) = some (winOff s pa + k))) := by
  first | decide +kernel | (repeat' (first | decide +kernel | rfl | refine And.intro ?_ ?_ | (intro h; exact absurd h (by decide +kernel)) | (intros; rfl) | (intro _ _; exact ⟨rfl, rfl⟩) | (simp; done)))

/-- The hypotheses of `StoreBuffer`, Write enters store buffer. -/
theorem witness_WriteEntersStoreBuffer :
  (let s : State := SP (E {})
   let e : Eng := 3
   let va : Word := 0x3C
   let bs : List Byte := [1,2,3,4]
   let pa : PAddr := va.setWidth 44
   ((engGet s e).io = none) ∧
   (untranslated (regGet s e) = true) ∧
   (bs ≠ []) ∧
   (va.toNat % 64 + bs.length ≤ 64) ∧
   ((engGet s e).wrong = none) ∧
   ((engGet s e).ra = none) ∧
   ((engGet s e).m.sb.length ≤ 7) ∧
   ((regGet s e).priv = 2) ∧
   (capturing s = false) ∧
   ((inWindow s pa = true →
         firstRefused s e.val (engPres s e) true ((List.range bs.length).map (· + winOff s pa)) = none))) := by
  first | decide +kernel | (repeat' (first | decide +kernel | rfl | refine And.intro ?_ ?_ | (intro h; exact absurd h (by decide +kernel)) | (intros; rfl) | (intro _ _; exact ⟨rfl, rfl⟩) | (simp; done)))

/-- The hypotheses of `StoreBuffer`, Store buffer drains. -/
theorem witness_StoreBufferDrains :
  (let s : State := MP (E { m := { dc := [(256, CL)], sb := [⟨LineA, 7, 0xFF, 0xFF, false, false, false⟩] } })
   let e : Eng := 3
   let x : SbEntry := ⟨LineA, 7, 0xFF, 0xFF, false, false, false⟩
   let g := engGet s e
   let w : Nat := 0
   let c : CLine := CL
   (eclkOn s = true) ∧
   ((engGet s e).m.sb = [x]) ∧
   (x.spec = false) ∧
   ((engGet s e).spill = none) ∧
   ((engGet s e).xleft = 0) ∧
   (x.win = false) ∧
   (wayOf g.m.dc x.line = some w) ∧
   (tfind g.m.dc (4 * setOf x.line + w) = some c)) ∧
  (let s : State := SP (E { m := { sb := [⟨0x3FFFF, 0x700, 0xFF00, 0xFF00, true, false, false⟩] } })
   let e : Eng := 3
   let x : SbEntry := ⟨0x3FFFF, 0x700, 0xFF00, 0xFF00, true, false, false⟩
   let k : Nat := 1
   let o := winOff s (linePA x.line) + 8 * k
   (eclkOn s = true) ∧
   ((engGet s e).m.sb = [x]) ∧
   (x.spec = false) ∧
   ((engGet s e).spill = none) ∧
   ((engGet s e).xleft = 0) ∧
   (x.win = true) ∧
   (s.spc.bad = []) ∧
   (inWindow s (linePA x.line) = true) ∧
   ((∀ b < 8 * k, x.todo.getLsbD b = false)) ∧
   (k < 8) ∧
   (fld x.todo (8 * k) 8 ≠ 0) ∧
   (o % 8 = 0) ∧
   ((wordServe s e.val (o / 8)).isSome = true) ∧
   ((∀ y ∈ s.cyc.wrote, y.word ≠ o / 8))) := by
  refine ⟨?_, ?_⟩
  all_goals first | decide +kernel | (repeat' (first | decide +kernel | rfl | refine And.intro ?_ ?_ | (intro h; exact absurd h (by decide +kernel)) | (intros; rfl) | (intro _ _; exact ⟨rfl, rfl⟩) | (simp; done)))

/-- The hypotheses of `InputOutput`, Io read results. -/
theorem witness_IoReadResults :
  (let s : State := R { pc := 0x2004000, ds := [] }
   let e : Eng := 3
   let o : BitVec 24 := 0
   let t : State := (optD (ioGet s (.engine e) o) (s,0)).1
   let v : Word := (optD (ioGet s (.engine e) o) (s,0)).2
   (readyNative s e .long = true) ∧
   ((regGet s e).priv ≠ 0) ∧
   (ioReady s (engGet s e) = true) ∧
   ((regGet s e).ds.length ≤ 31) ∧
   (o.toNat % 4 = 0) ∧
   (ioGet s (.engine e) o = some (t, v)) ∧
   (engGet t e = engGet s e)) ∧
  (let s : State := R { pc := 0x2004000, ds := [.val 8] }
   let e : Eng := 3
   let o : BitVec 24 := 4
   let a : Word := 8
   let rest : List Cell := []
   let t : State := (optD (ioGet s (.engine e) 12) (s,0)).1
   let v : Word := (optD (ioGet s (.engine e) 12) (s,0)).2
   (readyNative s e .long = true) ∧
   ((regGet s e).priv ≠ 0) ∧
   (ioReady s (engGet s e) = true) ∧
   ((regGet s e).ds = .val a :: rest) ∧
   (rest.length ≤ 31) ∧
   ((a + o.signExtend 32).toNat % 4 = 0) ∧
   (ioGet s (.engine e) ((a + o.signExtend 32).setWidth 24) = some (t, v)) ∧
   (engGet t e = engGet s e)) := by
  refine ⟨?_, ?_⟩
  all_goals first | decide +kernel | (repeat' (first | decide +kernel | rfl | refine And.intro ?_ ?_ | (intro h; exact absurd h (by decide +kernel)) | (intros; rfl) | (intro _ _; exact ⟨rfl, rfl⟩) | (simp; done)))

/-- The hypotheses of `InputOutput`, Io write results. -/
theorem witness_IoWriteResults :
  (let s : State := R { pc := 0x2004000, ds := [.val 1] }
   let e : Eng := 3
   let o : BitVec 24 := 0x0
   let v : Word := 1
   let rest : List Cell := []
   let t : State := optD (ioSet (regPut s e { regGet s e with ds := rest, pc := (regGet s e).pc + 4, syll := false, rpt := false }) (.engine e) o v) s
   let popped := regPut s e { regGet s e with ds := rest, pc := (regGet s e).pc + 4, syll := false, rpt := false,
                                                       wsb1 := false, ent := (regGet s e).ent.drop 1 }
   (readyNative s e .long = true) ∧
   ((regGet s e).priv ≠ 0) ∧
   (ioReady s (engGet s e) = true) ∧
   (rest.length ≤ 30) ∧
   ((engGet t e).m.sb.all (!·.spec) = true) ∧
   ((engGet t e).ra = none) ∧
   ((regGet s e).ds = .val v :: rest) ∧
   (o.toNat % 4 = 0) ∧
   (ioSet popped (.engine e) o v = some t)) ∧
  (let s : State := R { pc := 0x2004000, ds := [.val 8, .val 1] }
   let e : Eng := 3
   let o : BitVec 24 := 0xFFFFFC
   let a : Word := 8
   let v : Word := 1
   let rest : List Cell := []
   let t : State := optD (ioSet (regPut s e { regGet s e with ds := rest, pc := (regGet s e).pc + 4, syll := false, rpt := false }) (.engine e) 4 v) s
   let popped := regPut s e { regGet s e with ds := rest, pc := (regGet s e).pc + 4, syll := false, rpt := false,
                                                       wsb1 := false, ent := (regGet s e).ent.drop 1 }
   (readyNative s e .long = true) ∧
   ((regGet s e).priv ≠ 0) ∧
   (ioReady s (engGet s e) = true) ∧
   (rest.length ≤ 30) ∧
   ((engGet t e).m.sb.all (!·.spec) = true) ∧
   ((engGet t e).ra = none) ∧
   ((regGet s e).ds = .val a :: .val v :: rest) ∧
   ((a + o.signExtend 32).toNat % 4 = 0) ∧
   (ioSet popped (.engine e) ((a + o.signExtend 32).setWidth 24) v = some t)) := by
  refine ⟨?_, ?_⟩
  all_goals first | decide +kernel | (repeat' (first | decide +kernel | rfl | refine And.intro ?_ ?_ | (intro h; exact absurd h (by decide +kernel)) | (intros; rfl) | (intro _ _; exact ⟨rfl, rfl⟩) | (simp; done)))

/-- The hypotheses of `InputOutput`, Io faults. -/
theorem witness_IoFaults :
  (let s : State := R { pc := 0x2004000, priv := 0, mask := 0 }
   let e : Eng := 3
   let r := regGet s e
   (readyNative s e .long = true) ∧
   (r.priv = 0)) ∧
  (let s : State := R { pc := 0x2004000, priv := 1, mask := 0 }
   let e : Eng := 3
   let o : BitVec 24 := 3
   let r := regGet s e
   (readyNative s e .long = true) ∧
   (r.priv ≠ 0) ∧
   (r.ds.length ≤ 31) ∧
   (o.toNat % 4 ≠ 0)) := by
  refine ⟨?_, ?_⟩
  all_goals first | decide +kernel | (repeat' (first | decide +kernel | rfl | refine And.intro ?_ ?_ | (intro h; exact absurd h (by decide +kernel)) | (intros; rfl) | (intro _ _; exact ⟨rfl, rfl⟩) | (simp; done)))

/-- The hypotheses of `InputOutput`, Io completion. -/
theorem witness_IoCompletion :
  (let s : State := E { io := some ⟨true, 7⟩ }
   let e : Eng := 3
   let v : Word := 7
   let g := engGet s e
   (eclkOn s = true) ∧
   ((engGet s e).wrong = none) ∧
   ((engGet s e).ra = none) ∧
   ((engGet s e).xwait = false) ∧
   (g.st = .running) ∧
   (g.r.ovp = false) ∧
   (g.io = some ⟨true, v⟩)) ∧
  (let s : State := E { io := some ⟨false, 0⟩ }
   let e : Eng := 3
   let v : Word := 0
   let g := engGet s e
   (eclkOn s = true) ∧
   ((engGet s e).wrong = none) ∧
   ((engGet s e).ra = none) ∧
   ((engGet s e).xwait = false) ∧
   (g.io = some ⟨false, v⟩)) := by
  refine ⟨?_, ?_⟩
  all_goals first | decide +kernel | (repeat' (first | decide +kernel | rfl | refine And.intro ?_ ?_ | (intro h; exact absurd h (by decide +kernel)) | (intros; rfl) | (intro _ _; exact ⟨rfl, rfl⟩) | (simp; done)))

/-- The hypotheses of `BranchesAndTransfers`, Branch results. -/
theorem witness_BranchResults :
  (let s : State := R { pc := 0x2004000, ds := [.val 0x80000000, .val 3] }
   let e : Eng := 3
   let f : BForm := .long 0xFFFFFF
   let a : Word := 3
   let b : Word := 0x80000000
   let rest : List Cell := []
   let r := regGet s e
   (rest.length ≤ 30) ∧
   (readyNative s e (bPlace f) = true) ∧
   (r.ds = .val b :: .val a :: rest)) ∧
  (let s : State := R { pc := 0x2004000, ds := [.val 0, .val 3] }
   let e : Eng := 3
   let f : BForm := .long 0
   let a : Word := 0
   let rest : List Cell := [.val 3]
   let r := regGet s e
   (rest.length ≤ 30) ∧
   (readyNative s e (bPlace f) = true) ∧
   (r.ds = .val a :: rest)) ∧
  (let s : State := R { pc := 0x2004000, syll := true, wsb1 := true, ds := [.val 0x18001, .val 3] }
   let e : Eng := 3
   let f : BForm := .second 0x8
   let a : Word := 3
   let b : Word := 0x18001
   let rest : List Cell := []
   let r := regGet s e
   (rest.length ≤ 30) ∧
   (readyShort s e .second = true) ∧
   (bPlace f = .second) ∧
   (r.ds = .val b :: .val a :: rest)) ∧
  (let s : State := R { pc := 0x2004000, syll := true, wsb1 := true, ds := [.val 0x10000, .val 3] }
   let e : Eng := 3
   let f : BForm := .second 0x8
   let a : Word := 0x10000
   let rest : List Cell := [.val 3]
   let r := regGet s e
   (rest.length ≤ 30) ∧
   (readyShort s e .second = true) ∧
   (bPlace f = .second) ∧
   (r.ds = .val a :: rest)) := by
  refine ⟨?_, ?_, ?_, ?_⟩
  all_goals first | decide +kernel | (repeat' (first | decide +kernel | rfl | refine And.intro ?_ ?_ | (intro h; exact absurd h (by decide +kernel)) | (intros; rfl) | (intro _ _; exact ⟨rfl, rfl⟩) | (simp; done)))

/-- The hypotheses of `BranchesAndTransfers`, Jump results. -/
theorem witness_JumpResults :
  (let s : State := R { pc := 0x2004000, lnk := 0x2000, plink := some 0x2000, ds := [.val 0x3000] }
   let e : Eng := 3
   let f : BForm := .long 0
   let a : Word := 0x3000
   let rest : List Cell := []
   let r := regGet s e
   (readyNative s e (bPlace f) = true) ∧
   (f = .long 0 ∨ f = .second 0) ∧
   (r.lnk.toNat % 4 = 0) ∧
   (foreseen s e .ret 0 true r.lnk = true) ∧
   (readyNative s e .long = true) ∧
   (r.ds = .val a :: rest) ∧
   (rest.length ≤ 31) ∧
   (a.toNat % 4 = 0) ∧
   (foreseen s e .indirect 0 true a = true)) := by
  first | decide +kernel | (repeat' (first | decide +kernel | rfl | refine And.intro ?_ ?_ | (intro h; exact absurd h (by decide +kernel)) | (intros; rfl) | (intro _ _; exact ⟨rfl, rfl⟩) | (simp; done)))

/-- The hypotheses of `BranchesAndTransfers`, Misaligned transfer. -/
theorem witness_MisalignedTransfer :
  (let s : State := R { pc := 0x2004000, lnk := 1, ds := [.val 0x3002] }
   let e : Eng := 3
   let a : Word := 0x3002
   let rest : List Cell := []
   let r := regGet s e
   (readyNative s e .long = true) ∧
   (r.lnk.toNat % 4 ≠ 0) ∧
   (r.ds = .val a :: rest) ∧
   (rest.length ≤ 31) ∧
   (a.toNat % 4 ≠ 0)) := by
  first | decide +kernel | (repeat' (first | decide +kernel | rfl | refine And.intro ?_ ?_ | (intro h; exact absurd h (by decide +kernel)) | (intros; rfl) | (intro _ _; exact ⟨rfl, rfl⟩) | (simp; done)))

/-- The hypotheses of `BranchesAndTransfers`, Return stack results. -/
theorem witness_ReturnStackResults :
  (let s : State := R { pc := 0x2004000, lnk := 9, ds := [.val 5], rs := [7] }
   let e : Eng := 3
   let y : Syl := .first 0 0
   let a : Word := 5
   let x : Word := 7
   let rest : List Cell := []
   let rs : List Word := []
   let r := regGet s e
   (readyNative s e (sylPlace y) = true) ∧
   (sylOpnd y = 0) ∧
   (r.rs.length ≤ 15) ∧
   (r.ds = .val a :: rest) ∧
   (rest.length ≤ 31) ∧
   (r.rs = x :: rs) ∧
   (rs.length ≤ 15) ∧
   (r.ds.length ≤ 31)) := by
  first | decide +kernel | (repeat' (first | decide +kernel | rfl | refine And.intro ?_ ?_ | (intro h; exact absurd h (by decide +kernel)) | (intros; rfl) | (intro _ _; exact ⟨rfl, rfl⟩) | (simp; done)))

/-- The hypotheses of `Speculation`, Mispredicted branch. -/
theorem witness_MispredictedBranch :
  (let s : State := R { pc := 0x2004000, ds := [.val 5, .val 5] }
   let e : Eng := 3
   let f : BForm := .long 8
   let a : Word := 5
   let b : Word := 5
   let rest : List Cell := []
   let r := regGet s e
   (readyNative s e (bPlace f) = true) ∧
   (rest.length ≤ 30) ∧
   (r.ds = .val b :: .val a :: rest)) ∧
  (let s : State := R { pc := 0x2004000, ds := [.val 5, .val 5] }
   let e : Eng := 3
   let f : BForm := .long 8
   let a : Word := 5
   let rest : List Cell := [.val 5]
   let r := regGet s e
   (readyNative s e (bPlace f) = true) ∧
   (rest.length ≤ 30) ∧
   (r.ds = .val a :: rest)) := by
  refine ⟨?_, ?_⟩
  all_goals first | decide +kernel | (repeat' (first | decide +kernel | rfl | refine And.intro ?_ ?_ | (intro h; exact absurd h (by decide +kernel)) | (intros; rfl) | (intro _ _; exact ⟨rfl, rfl⟩) | (simp; done)))

/-- The hypotheses of `Speculation`, Run ahead begins and ends. -/
theorem witness_RunAheadBeginsAndEnds :
  (let s : State := E { r := { pc := 0x2004004, ds := [.inv] }, ra := some { anchor := { pc := 0x2004000 }, count := 63 } }
   let e : Eng := 3
   let a : RunAhead := { anchor := { pc := 0x2004000 }, count := 63 }
   let g := engGet s e
   let y : Syl := .first 0 0
   let rest : List Cell := []
   (eclkOn s = true) ∧
   (g.ra = some a) ∧
   (a.ended = false) ∧
   (canRun s g = true) ∧
   (atPlace g (sylPlace y) = true) ∧
   (g.wrong = none) ∧
   (wordHeld s e = true) ∧
   (sb1Mode s e = false) ∧
   (wordLegal (sylPlace y) = true) ∧
   (sylOpnd y = 0) ∧
   (g.r.ds.length ≤ 32) ∧
   (g.r.ovp = false) ∧
   (a.logged ≤ 32) ∧
   (g.r.ds = .inv :: rest) ∧
   (atPlace g .long = true)) ∧
  (let s : State := E { r := { pc := 0x2004000, sp := { ctl := 0x10, ctlEff := 0x10 } }, anchor := some LineA, m := { fills := [{ line := LineA, side := .data, prefetch := false, st := .waiting }] } }
   let e : Eng := 3
   let l : LineAddr := LineA
   let g := engGet s e
   (eclkOn s = true) ∧
   (g.st = .running) ∧
   (g.lrPend = none) ∧
   (g.ra = none) ∧
   (g.r.sp.ctlEff.getLsbD 4 = true) ∧
   (g.anchor = some l) ∧
   (wayOf g.m.dc l = none) ∧
   ((∀ f, fillOf g .data l = some f → f.st = .waiting))) ∧
  (let s : State := E { r := { pc := 0x2004004, ds := [.inv] }, ra := some { anchor := { pc := 0x2004000 }, count := 64, ended := true } }
   let e : Eng := 3
   let a : RunAhead := { anchor := { pc := 0x2004000 }, count := 64, ended := true }
   let g := engGet s e
   (eclkOn s = true) ∧
   (g.ra = some a) ∧
   (a.ended = true) ∧
   (g.wrong = none)) := by
  refine ⟨?_, ?_, ?_⟩
  all_goals first | decide +kernel | (repeat' (first | decide +kernel | rfl | refine And.intro ?_ ?_ | (intro h; exact absurd h (by decide +kernel)) | (intros; rfl) | (intro _ _; exact ⟨rfl, rfl⟩) | (simp; done)))

/-- The hypotheses of `SpecialRegisters`, Special register reads. -/
theorem witness_SpecialRegisterReads :
  (let s : State := E { r := { pc := 0x2004000, priv := 2, lnk := 7, ds := [.val 1], sp := { dsbase := 0x20, crcpoly := 5 } }, vdirty := 0x10 }
   let e : Eng := 3
   (readyNative s e .long = true) ∧
   ((regGet s e).ds.length ≤ 31) ∧
   ((engGet s e).vq = [])) := by
  first | decide +kernel | (repeat' (first | decide +kernel | rfl | refine And.intro ?_ ?_ | (intro h; exact absurd h (by decide +kernel)) | (intros; rfl) | (intro _ _; exact ⟨rfl, rfl⟩) | (simp; done)))

/-- The hypotheses of `SpecialRegisters`, Special register writes. -/
theorem witness_SpecialRegisterWrites :
  (let s : State := { R { pc := 0x2004000, priv := 2, ds := [.val 0xFFFFFFFF] } with wvl := { W0.wvl with vecen := 8 } }
   let e : Eng := 3
   let v : Word := 0xFFFFFFFF
   let rest : List Cell := []
   let g := engGet s e
   let r := { regGet s e with ds := rest }
   (readyNative s e .long = true) ∧
   ((regGet s e).ds = .val v :: rest) ∧
   (rest.length ≤ 31) ∧
   (g.vq = []) ∧
   (r.priv ≠ 0) ∧
   (r.priv = 2) ∧
   (v.setWidth 2 = 3#2) ∧
   (20 ≤ v.toNat % 32)) ∧
  (let s : State := R { pc := 0x2004000, priv := 2, ds := [.val 0xFFFFFFE2] }
   let e : Eng := 3
   let v : Word := 0xFFFFFFE2
   let rest : List Cell := []
   let r := { regGet s e with ds := rest }
   (readyNative s e .long = true) ∧
   ((regGet s e).ds = .val v :: rest) ∧
   (rest.length ≤ 31) ∧
   (v.setWidth 2 ≠ 3#2) ∧
   (r.priv = 2) ∧
   (r.priv ≠ 0) ∧
   (v.toNat % 32 < 20)) := by
  refine ⟨?_, ?_⟩
  all_goals first | decide +kernel | (repeat' (first | decide +kernel | rfl | refine And.intro ?_ ?_ | (intro h; exact absurd h (by decide +kernel)) | (intros; rfl) | (intro _ _; exact ⟨rfl, rfl⟩) | (simp; done)))

/-- The hypotheses of `SpecialRegisters`, Special register faults. -/
theorem witness_SpecialRegisterFaults :
  (let s : State := R { pc := 0x2004000, priv := 0, mask := 0 }
   let e : Eng := 3
   let o : BitVec 24 := 3
   let r := regGet s e
   (readyNative s e .long = true) ∧
   (r.priv = 0) ∧
   (o ∈ [0x000#24, 0x003#24, 0x004#24, 0x006#24, 0x007#24, 0x008#24, 0x080#24, 0x081#24, 0x082#24]) ∧
   (o ∈ [0x000#24, 0x001#24, 0x002#24, 0x003#24, 0x004#24, 0x007#24, 0x012#24, 0x013#24, 0x014#24, 0x016#24,
           0x017#24, 0x018#24, 0x021#24, 0x080#24, 0x081#24, 0x082#24])) ∧
  (let s : State := R { pc := 0x2004000, priv := 2, mask := 0 }
   let e : Eng := 3
   let o : BitVec 24 := 0x1000
   (readyNative s e .long = true) ∧
   (4096 ≤ o.toNat)) ∧
  (let s : State := R { pc := 0x2004000, priv := 2, mask := 0 }
   let e : Eng := 3
   let o : BitVec 24 := 0x9
   (readyNative s e .long = true) ∧
   (o ∈ [0x009#24, 0x022#24, 0x083#24, 0xFFF#24])) ∧
  (let s : State := R { pc := 0x2004000, priv := 2, mask := 0 }
   let e : Eng := 3
   let o : BitVec 24 := 5
   (readyNative s e .long = true) ∧
   (o ∈ [0x005#24, 0x006#24, 0x008#24, 0x011#24, 0x015#24, 0x053#24, 0x0F0#24, 0x0F1#24])) := by
  refine ⟨?_, ?_, ?_, ?_⟩
  all_goals first | decide +kernel | (repeat' (first | decide +kernel | rfl | refine And.intro ?_ ?_ | (intro h; exact absurd h (by decide +kernel)) | (intros; rfl) | (intro _ _; exact ⟨rfl, rfl⟩) | (simp; done)))

/-- The hypotheses of `MaskAndSerialControl`, Mask set. -/
theorem witness_MaskSet :
  (let s : State := R { pc := 0x2004000, priv := 1 }
   let e : Eng := 3
   let o : BitVec 24 := 15
   let g := engGet s e
   (readyNative s e .long = true) ∧
   (o.toNat < 16) ∧
   (g.r.priv ≠ 0)) ∧
  (let s : State := R { pc := 0x2004000, priv := 0 }
   let e : Eng := 3
   let o : BitVec 24 := 0
   let g := engGet s e
   (readyNative s e .long = true) ∧
   (o.toNat < 16) ∧
   (g.r.priv = 0)) := by
  refine ⟨?_, ?_⟩
  all_goals first | decide +kernel | (repeat' (first | decide +kernel | rfl | refine And.intro ?_ ?_ | (intro h; exact absurd h (by decide +kernel)) | (intros; rfl) | (intro _ _; exact ⟨rfl, rfl⟩) | (simp; done)))

/-- The hypotheses of `MaskAndSerialControl`, Serial control. -/
theorem witness_SerialControl :
  (let s : State := E { r := { pc := 0x2004000, sp := { ctl := 7, dslim := 0x40 } } }
   let e : Eng := 3
   let g := engGet s e
   let p := g.r.sp
   let idle := g.m.sb = [] ∧ g.div = none ∧ g.prods = [] ∧ g.vq = []
   (readyNative s e .long = true) ∧
   (idle) ∧
   (p.gtbPend = false) ∧
   (p.xltPend = false) ∧
   (g.m.sb = []) ∧
   ((∀ w ∈ g.m.wbs, w.dcm = false)) ∧
   (g.div = none) ∧
   (g.vq = []) ∧
   ((∀ h, g.held = some h → h.prio.toNat ≤ g.r.mask.toNat))) ∧
  (let s : State := E { r := { pc := 0x2004000, mask := 14 }, held := some ⟨3, 15⟩ }
   let e : Eng := 3
   let g := engGet s e
   let h := (⟨3, 15⟩ : Held)
   (readyNative s e .long = true) ∧
   (g.held = some h) ∧
   (g.r.mask.toNat < h.prio.toNat)) := by
  refine ⟨?_, ?_⟩
  all_goals first | decide +kernel | (repeat' (first | decide +kernel | rfl | refine And.intro ?_ ?_ | (intro h; exact absurd h (by decide +kernel)) | (intros; rfl) | (intro _ _; exact ⟨rfl, rfl⟩) | (simp; done)))

/-- The hypotheses of `MaskAndSerialControl`, Serial holds. -/
theorem witness_SerialHolds :
  (let s : State := E { r := { pc := 0x2004000 }, m := { sb := [⟨LineA, 5, 0xF, 0xF, false, false, false⟩] } }
   let e : Eng := 3
   let t : State := nextOf (exec (.sync e 0) s) s
   let g := engGet s e
   (readyNative s e .long = true) ∧
   (g.m.sb ≠ []) ∧
   (exec (.sync e 0) s = .next t)) ∧
  (let s : State := E { r := { pc := 0x2004000 }, div := some ⟨0, 5, none, 0xF00, false⟩ }
   let e : Eng := 3
   let g := engGet s e
   (readyNative s e .long = true) ∧
   (g.div.isSome = true)) := by
  refine ⟨?_, ?_⟩
  all_goals first | decide +kernel | (repeat' (first | decide +kernel | rfl | refine And.intro ?_ ?_ | (intro h; exact absurd h (by decide +kernel)) | (intros; rfl) | (intro _ _; exact ⟨rfl, rfl⟩) | (simp; done)))

/-- The hypotheses of `FaultEntry`, Fault outcomes. -/
theorem witness_FaultOutcomes :
  (let s : State := E { r := { pc := 0x2004000, priv := 0, mask := 12 }, gates := [(4, GT)], other := some CX, spill := some ⟨CX, 0x8000, 0, 0⟩ }
   let e : Eng := 3
   let i : FaultInfo := { num := 4, detail := 0x82, acc := 1, faddr := some 0x77 }
   let d : Gate := GT
   let g := engGet s e
   let cls := if i.num = 7 ∨ i.num = 8 then 12 else if i.num = 14 then 14 else if i.num = 15 ∨ i.num = 17 then 15 else 13
   ((engGet s e).wrong = none) ∧
   ((engGet s e).ra = none) ∧
   ((engGet s e).prods = []) ∧
   ((engGet s e).refill = none) ∧
   (g.lr = false) ∧
   (g.r.mask.toNat < cls) ∧
   (tfind g.gates i.num.toNat = some d) ∧
   (g.other.isSome = true) ∧
   (g.spill.isSome = true)) ∧
  (let s : State := E { r := { pc := 0x2004000, priv := 0, mask := 12, ds := [.val 4], l := [(3,3)] }, gates := [(4, GT)] }
   let e : Eng := 3
   let i : FaultInfo := { num := 4, detail := 0x82, acc := 1, faddr := some 0x77 }
   let d : Gate := GT
   let g := engGet s e
   let cls := if i.num = 7 ∨ i.num = 8 then 12 else if i.num = 14 then 14 else if i.num = 15 ∨ i.num = 17 then 15 else 13
   ((engGet s e).wrong = none) ∧
   ((engGet s e).ra = none) ∧
   ((engGet s e).prods = []) ∧
   ((engGet s e).refill = none) ∧
   (g.lr = false) ∧
   (g.r.mask.toNat < cls) ∧
   (tfind g.gates i.num.toNat = some d) ∧
   (g.other = none)) ∧
  (let s : State := E { r := { pc := 0x2004000, priv := 0, mask := 13 }, gates := [(4, GT)] }
   let e : Eng := 3
   let i : FaultInfo := { num := 4, detail := 0x82, acc := 1, faddr := some 0x77 }
   let g := engGet s e
   let cls := if i.num = 7 ∨ i.num = 8 then 12 else if i.num = 14 then 14 else if i.num = 15 ∨ i.num = 17 then 15 else 13
   ((engGet s e).wrong = none) ∧
   ((engGet s e).ra = none) ∧
   ((engGet s e).prods = []) ∧
   ((engGet s e).refill = none) ∧
   (g.lr = false) ∧
   (cls ≤ g.r.mask.toNat)) ∧
  (let s : State := E { r := { pc := 0x2004000, priv := 0, mask := 12 } }
   let e : Eng := 3
   let i : FaultInfo := { num := 4, detail := 0x82, acc := 1, faddr := some 0x77 }
   let g := engGet s e
   let cls := if i.num = 7 ∨ i.num = 8 then 12 else if i.num = 14 then 14 else if i.num = 15 ∨ i.num = 17 then 15 else 13
   ((engGet s e).wrong = none) ∧
   ((engGet s e).ra = none) ∧
   ((engGet s e).prods = []) ∧
   ((engGet s e).refill = none) ∧
   (g.lr = false) ∧
   (g.r.mask.toNat < cls) ∧
   (tfind g.gates i.num.toNat = none)) ∧
  (let s : State := E { r := { pc := 0x2004000, priv := 0, mask := 12 }, lr := true }
   let e : Eng := 3
   let g := engGet s e
   ((engGet s e).wrong = none) ∧
   ((engGet s e).ra = none) ∧
   ((engGet s e).prods = []) ∧
   ((engGet s e).refill = none) ∧
   (g.lr = true)) ∧
  (let s : State := E { r := { pc := 0x2004000, priv := 0, mask := 12 }, gates := [(4, GT)], other := some CX }
   let e : Eng := 3
   let i : FaultInfo := { num := 4, detail := 0x82, acc := 1, faddr := some 0x77 }
   let d : Gate := GT
   let g := engGet s e
   let cls := if i.num = 7 ∨ i.num = 8 then 12 else if i.num = 14 then 14 else if i.num = 15 ∨ i.num = 17 then 15 else 13
   ((engGet s e).wrong = none) ∧
   ((engGet s e).ra = none) ∧
   ((engGet s e).prods = []) ∧
   ((engGet s e).refill = none) ∧
   (g.lr = false) ∧
   (g.r.mask.toNat < cls) ∧
   (tfind g.gates i.num.toNat = some d) ∧
   (g.other.isSome = true) ∧
   (g.spill = none) ∧
   (tget 0 g.sslim d.sssel.toNat = 0 ∨ (tget 0 g.sslim d.sssel.toNat).toNat < (tget 0 g.ssp d.sssel.toNat).toNat + 128)) := by
  refine ⟨?_, ?_, ?_, ?_, ?_, ?_⟩
  all_goals first | decide +kernel | (repeat' (first | decide +kernel | rfl | refine And.intro ?_ ?_ | (intro h; exact absurd h (by decide +kernel)) | (intros; rfl) | (intro _ _; exact ⟨rfl, rfl⟩) | (simp; done)))

/-- The hypotheses of `FaultEntry`, Entry spills the other bank. -/
theorem witness_EntrySpillsTheOtherBank :
  (let s : State := E { r := { pc := 0x2004000, priv := 0, mask := 12 }, other := some CX, gates := [(4, GT)], ssp := [(2, 0x3000)], sslim := [(2, 0x4000)] }
   let e : Eng := 3
   let d : Gate := GT
   let y : Ctx := CX
   let g := engGet s e
   let lim := tget 0 g.sslim d.sssel.toNat
   let i : FaultInfo := { num := 4, detail := 0x82, acc := 1, faddr := some 0x77 }
   ((engGet s e).wrong = none) ∧
   ((engGet s e).ra = none) ∧
   ((engGet s e).prods = []) ∧
   ((engGet s e).refill = none) ∧
   ((engGet s e).other = some y) ∧
   ((engGet s e).spill = none) ∧
   (g.lr = false) ∧
   (classOf i.num > g.r.mask.toNat) ∧
   (tfind g.gates i.num.toNat = some d) ∧
   (lim ≠ 0) ∧
   ((tget 0 g.ssp d.sssel.toNat).toNat + 128 ≤ lim.toNat)) := by
  first | decide +kernel | (repeat' (first | decide +kernel | rfl | refine And.intro ?_ ?_ | (intro h; exact absurd h (by decide +kernel)) | (intros; rfl) | (intro _ _; exact ⟨rfl, rfl⟩) | (simp; done)))

/-- The hypotheses of `TrapsAndReturn`, Trap and break. -/
theorem witness_TrapAndBreak :
  (let s : State := { SP (R { pc := 0x2004000, priv := 0, mask := 15 }) with spc := { mem := [(0x211, 0x80), (0x214, 5), (0x215, 0x0E)] } }
   let e : Eng := 3
   let o : BitVec 24 := 1
   let d : Gate := { handler := 0x8000, priv := 1, savemul := false, sb1 := false, masklvl := 14, sssel := 0, tpop := 0, tpush := 0 }
   let s1 : State := okSt (physRead s e 0x210 16) s
   let s2 : State := okSt (entryWords (okSt (physRead s e 0x210 16) s) e { handler := 0x8000, priv := 1, savemul := false, sb1 := false, masklvl := 14, sssel := 0, tpop := 0, tpush := 0 } 1) s
   let bs : List Byte := (okVal (physRead s e 0x210 16) none).getD []
   let w : Option EntryWords := okVal (entryWords (okSt (physRead s e 0x210 16) s) e { handler := 0x8000, priv := 1, savemul := false, sb1 := false, masklvl := 14, sssel := 0, tpop := 0, tpush := 0 } 1) none
   let r := regGet s e
   (readyNative s e .long = true) ∧
   (o.toNat < 256) ∧
   ((engGet s1 e).lr = false) ∧
   ((engGet s1 e).other = none) ∧
   (regGet s1 e = r) ∧
   (physRead s e (gateAddr r.sp.gtbEff (32 + o.toNat)) 16 = .ok s1 (some bs)) ∧
   (gateOf ((wordsOfBytes bs).headD 0) (((wordsOfBytes bs)[1]?).getD 0) = some d) ∧
   (d.tpop.toNat ≤ depth r) ∧
   (entryWords s1 e d (if r.priv.toNat < d.priv.toNat then d.priv else r.priv) = .ok s2 w) ∧
   ((engGet s2 e).m.sb.all (!·.spec) = true)) := by
  first | decide +kernel | (repeat' (first | decide +kernel | rfl | refine And.intro ?_ ?_ | (intro h; exact absurd h (by decide +kernel)) | (intros; rfl) | (intro _ _; exact ⟨rfl, rfl⟩) | (simp; done)))

/-- The hypotheses of `TrapsAndReturn`, Return from exception. -/
theorem witness_ReturnFromException :
  (let s : State := E { r := { pc := 0x2004000, priv := 0, mask := 2 } }
   let e : Eng := 3
   let g := engGet s e
   (readyNative s e .long = true) ∧
   (g.r.priv = 0)) ∧
  (let s : State := E { r := { pc := 0x2004000, priv := 1, mask := 2, dsp := 0x40, rsp := 0x80, ds := [.val 1], sp := { rsbase := 0x80 } }, other := some CX }
   let e : Eng := 3
   let c : Ctx := CX
   let g := engGet s e
   (readyNative s e .long = true) ∧
   (g.r.priv ≠ 0) ∧
   (g.lr = false) ∧
   (g.other = some c) ∧
   (g.held = none) ∧
   (g.prods = []) ∧
   (c.prevsel = 7) ∧
   (depth g.r = c.depthx.toNat) ∧
   (rdepth g.r = c.rdepthx.toNat) ∧
   (c.priv.toNat ≤ g.r.priv.toNat) ∧
   (wantDs c = g.r.ds.length) ∧
   (c.rcnt = g.r.rs.length) ∧
   (g.r.ds.length ≤ 32) ∧
   (g.r.rs.length ≤ 16)) ∧
  (let s : State := E { r := { pc := 0x2004000, priv := 1, mask := 2, dsp := 0x40, rsp := 0x80, ds := [.val 1, .val 2], sp := { rsbase := 0x80 } }, other := some CX }
   let e : Eng := 3
   let c : Ctx := CX
   let g := engGet s e
   (readyNative s e .long = true) ∧
   (g.r.priv ≠ 0) ∧
   (g.lr = false) ∧
   (g.other = some c) ∧
   (depth g.r ≠ c.depthx.toNat) ∧
   (rdepth g.r = c.rdepthx.toNat)) := by
  refine ⟨?_, ?_, ?_⟩
  all_goals first | decide +kernel | (repeat' (first | decide +kernel | rfl | refine And.intro ?_ ?_ | (intro h; exact absurd h (by decide +kernel)) | (intros; rfl) | (intro _ _; exact ⟨rfl, rfl⟩) | (simp; done)))

/-- The hypotheses of `CacheMaintenance`, Cache maintenance. -/
theorem witness_CacheMaintenance :
  (let s : State := MP (E { r := { pc := 0x2004000, priv := 1, ds := [.val 0x1002] }, m := { dc := [(258, { CL with dirty := 0xFF#64 })], ic := [(258, CL)], lbuf := [(LineA, 0)] } })
   let e : Eng := 3
   let a : Word := 0x1002
   let rest : List Cell := []
   let c : CLine := { CL with dirty := 0xFF#64 }
   let n : Nat := 0
   let k : Nat := 0
   let frame := 4 * (a.toNat / 64 % 128) + a.toNat % 4
   let g := engGet s e
   (readyNative s e .long = true) ∧
   ((regGet s e).ds = .val a :: rest) ∧
   (rest.length ≤ 31) ∧
   ((regGet s e).priv ≠ 0) ∧
   ((engGet s e).m.sb = []) ∧
   (tfind g.m.dc frame = some c) ∧
   (c.dirty ≠ 0) ∧
   (g.m.wbs.length ≤ 1) ∧
   (decodePort s (linePA c.line) = some n) ∧
   ((mptGet s n).en = true) ∧
   (slotFor s (portTable n) e.val false = some true) ∧
   (freeId (mptGet s n) = some k) ∧
   ((mptGet s n).reqq.length ≤ 15)) ∧
  (let s : State := MP (E { r := { pc := 0x2004000, priv := 1, ds := [.val 0x1002] }, m := { dc := [(258, { CL with dirty := 0xFF#64 })], ic := [(258, CL)], lbuf := [(LineA, 0)] } })
   let e : Eng := 3
   let a : Word := 0x1002
   let rest : List Cell := []
   let c : CLine := CL
   let frame := 4 * (a.toNat / 64 % 128) + a.toNat % 4
   let g := engGet s e
   (readyNative s e .long = true) ∧
   ((regGet s e).ds = .val a :: rest) ∧
   (rest.length ≤ 31) ∧
   ((regGet s e).priv ≠ 0) ∧
   ((engGet s e).m.sb = []) ∧
   (tfind g.m.ic frame = some c)) := by
  refine ⟨?_, ?_⟩
  all_goals first | decide +kernel | (repeat' (first | decide +kernel | rfl | refine And.intro ?_ ?_ | (intro h; exact absurd h (by decide +kernel)) | (intros; rfl) | (intro _ _; exact ⟨rfl, rfl⟩) | (simp; done)))

/-- The hypotheses of `CacheMaintenance`, Cache maintenance by address. -/
theorem witness_CacheMaintenanceByAddress :
  (let s : State := MP (E { r := { pc := 0x2004000, priv := 0, mask := 0, ds := [.val 0x2001000] }, m := { dc := [(256, { CL with dirty := 0xFF#64 })], ic := [(256, CL)] } })
   let e : Eng := 3
   let a : Word := 0x2001000
   let rest : List Cell := []
   let c : CLine := { CL with dirty := 0xFF#64 }
   let w : Nat := 0
   let n : Nat := 0
   let k : Nat := 0
   let g := engGet s e
   let pa : PAddr := a.setWidth 44
   let l := lineOf pa
   (readyNative s e .long = true) ∧
   (g.r.priv = 0) ∧
   (g.r.ds = .val a :: rest) ∧
   (rest.length ≤ 31) ∧
   (untranslated g.r = true) ∧
   (inWindow s pa = false) ∧
   ((∀ x ∈ g.m.sb, x.line ≠ l)) ∧
   (wayOf g.m.dc l = some w) ∧
   (tfind g.m.dc (4 * setOf l + w) = some c) ∧
   (c.dirty ≠ 0) ∧
   (g.m.wbs.length ≤ 1) ∧
   (decodePort s (linePA c.line) = some n) ∧
   ((mptGet s n).en = true) ∧
   (slotFor s (portTable n) e.val false = some true) ∧
   (freeId (mptGet s n) = some k) ∧
   ((mptGet s n).reqq.length ≤ 15) ∧
   (wayOf g.m.ic l = some w)) ∧
  (let s : State := MP (E { r := { pc := 0x2004000, priv := 1, mask := 0, ds := [.val 0x3000] }, m := { dc := [(256, { CL with dirty := 0xFF#64 })] } })
   let e : Eng := 3
   let a : Word := 0x3000
   let rest : List Cell := []
   let g := engGet s e
   let pa : PAddr := a.setWidth 44
   (readyNative s e .long = true) ∧
   (g.r.ds = .val a :: rest) ∧
   (rest.length ≤ 31) ∧
   (untranslated g.r = true) ∧
   (inWindow s pa = true)) ∧
  (let s : State := MP (E { r := { pc := 0x2004000, priv := 1, mask := 0, ds := [.val 0x2002000] }, m := { dc := [(256, { CL with dirty := 0xFF#64 })] } })
   let e : Eng := 3
   let a : Word := 0x2002000
   let rest : List Cell := []
   let g := engGet s e
   let pa : PAddr := a.setWidth 44
   let l := lineOf pa
   (readyNative s e .long = true) ∧
   (g.r.ds = .val a :: rest) ∧
   (rest.length ≤ 31) ∧
   (untranslated g.r = true) ∧
   (inWindow s pa = false) ∧
   ((∀ x ∈ g.m.sb, x.line ≠ l)) ∧
   (wayOf g.m.dc l = none)) := by
  refine ⟨?_, ?_, ?_⟩
  all_goals first | decide +kernel | (repeat' (first | decide +kernel | rfl | refine And.intro ?_ ?_ | (intro h; exact absurd h (by decide +kernel)) | (intros; rfl) | (intro _ _; exact ⟨rfl, rfl⟩) | (simp; done)))

/-- The hypotheses of `BlockRepeat`, Block repeat results. -/
theorem witness_BlockRepeatResults :
  (let s : State := { SP (R { pc := 0x2004000, bcnt := 3, bsrc := 0x2000, bdst := 0x3008 }) with spc := { (SP (R {})).spc with mem := [(0x2000,1),(0x2001,2),(0x2002,3),(0x3008,1),(0x3009,2),(0x300A,3),(0x3010,1),(0x3011,2)] } }
   let e : Eng := 3
   let o : BlockOp := { bits := 0x3, n := 100 }
   let as : List Byte := [1,2,3]
   let t : State := okSt (blockReads s e .mov 3) s
   let u : State := okSt (dataWrite (okSt (blockReads s e .mov 3) s) e 0x3008 [1,2,3] false) s
   let r := regGet s e
   let n := r.bcnt.toNat
   let b : Byte := o.bits.setWidth 8
   let same := fun (x : State) => regGet x e = r ∧ ready x e .long = true
   let j : Nat := 2
   (readyNative s e .long = true) ∧
   (o.bits.toNat < 256) ∧
   (0 < o.n) ∧
   (r.bcnt ≠ 0) ∧
   (n + r.bdst.toNat % 64 ≤ 64) ∧
   (same t) ∧
   (same u) ∧
   (blockReads s e .mov n = .ok t (as, [])) ∧
   (dataWrite t e r.bdst as false = .ok u ()) ∧
   (n + r.bsrc.toNat % 64 ≤ 64) ∧
   (dataRead s e r.bsrc n = .ok t as) ∧
   (as.length = n) ∧
   (j < n) ∧
   (as[j]? = some b) ∧
   ((∀ i < j, as[i]? ≠ some b))) ∧
  (let s : State := { SP (R { pc := 0x2004000, bcnt := 0, bsrc := 0x2000, bdst := 0x3008 }) with spc := { (SP (R {})).spc with mem := [(0x2000,1),(0x2001,2),(0x2002,3),(0x3008,1),(0x3009,2),(0x300A,3),(0x3010,1),(0x3011,2)] } }
   let e : Eng := 3
   let o : BlockOp := { bits := 0, n := 100 }
   let r := regGet s e
   (readyNative s e .long = true) ∧
   (o.bits.toNat < 256) ∧
   (0 < o.n) ∧
   (r.bcnt = 0)) ∧
  (let s : State := { SP (R { pc := 0x2004000, bcnt := 8, bsrc := 0x2000, bdst := 0x3008 }) with spc := { (SP (R {})).spc with mem := [(0x2000,1),(0x2001,2),(0x2002,3),(0x3008,1),(0x3009,2),(0x300A,3),(0x3010,1),(0x3011,2)] } }
   let e : Eng := 3
   let o : BlockOp := { bits := 0xFF, n := 100 }
   let t : State := okSt (dataWrite s e 0x3008 (List.replicate 8 0xFF) false) s
   let r := regGet s e
   let n := r.bcnt.toNat
   let b : Byte := o.bits.setWidth 8
   let same := fun (x : State) => regGet x e = r ∧ ready x e .long = true
   (readyNative s e .long = true) ∧
   (o.bits.toNat < 256) ∧
   (0 < o.n) ∧
   (r.bcnt ≠ 0) ∧
   (n + r.bdst.toNat % 64 ≤ 64) ∧
   (same t) ∧
   (dataWrite s e r.bdst (List.replicate n b) false = .ok t ())) ∧
  (let s : State := { SP (R { pc := 0x2004000, bcnt := 3, bsrc := 0x2000, bdst := 0x3008 }) with spc := { (SP (R {})).spc with mem := [(0x2000,1),(0x2001,2),(0x2002,3),(0x3008,1),(0x3009,2),(0x300A,3),(0x3010,1),(0x3011,2)] } }
   let e : Eng := 3
   let o : BlockOp := { bits := 0x4, n := 100 }
   let as : List Byte := [1,2,3]
   let t : State := okSt (dataRead s e 0x2000 3) s
   let r := regGet s e
   let n := r.bcnt.toNat
   let b : Byte := o.bits.setWidth 8
   let same := fun (x : State) => regGet x e = r ∧ ready x e .long = true
   (readyNative s e .long = true) ∧
   (o.bits.toNat < 256) ∧
   (0 < o.n) ∧
   (r.bcnt ≠ 0) ∧
   (n + r.bsrc.toNat % 64 ≤ 64) ∧
   (same t) ∧
   (dataRead s e r.bsrc n = .ok t as) ∧
   (as.length = n) ∧
   ((∀ x ∈ as, x ≠ b))) ∧
  (let s : State := { SP (R { pc := 0x2004000, bcnt := 3, bsrc := 0x2000, bdst := 0x3008 }) with spc := { (SP (R {})).spc with mem := [(0x2000,1),(0x2001,2),(0x2002,3),(0x3008,1),(0x3009,2),(0x300A,3),(0x3010,1),(0x3011,2)] } }
   let e : Eng := 3
   let o : BlockOp := { bits := 0x4, n := 100 }
   let as : List Byte := [1,2,3]
   let bs : List Byte := [1,2,3]
   let t : State := okSt (blockReads s e .cmp 3) s
   let r := regGet s e
   let n := r.bcnt.toNat
   let same := fun (x : State) => regGet x e = r ∧ ready x e .long = true
   (readyNative s e .long = true) ∧
   (o.bits.toNat < 256) ∧
   (0 < o.n) ∧
   (r.bcnt ≠ 0) ∧
   (n + r.bdst.toNat % 64 ≤ 64) ∧
   (same t) ∧
   (blockReads s e .cmp n = .ok t (as, bs)) ∧
   (as.length = n) ∧
   (bs.length = n) ∧
   (as = bs)) ∧
  (let s : State := { SP (R { pc := 0x2004000, bcnt := 3, bsrc := 0x2000, bdst := 0x3010 }) with spc := { (SP (R {})).spc with mem := [(0x2000,1),(0x2001,2),(0x2002,3),(0x3008,1),(0x3009,2),(0x300A,3),(0x3010,1),(0x3011,2)] } }
   let e : Eng := 3
   let o : BlockOp := { bits := 0x4, n := 100 }
   let as : List Byte := [1,2,3]
   let bs : List Byte := [1,2,0]
   let t : State := okSt (blockReads s e .cmp 3) s
   let r := regGet s e
   let n := r.bcnt.toNat
   let same := fun (x : State) => regGet x e = r ∧ ready x e .long = true
   let j : Nat := 2
   (readyNative s e .long = true) ∧
   (o.bits.toNat < 256) ∧
   (0 < o.n) ∧
   (r.bcnt ≠ 0) ∧
   (n + r.bdst.toNat % 64 ≤ 64) ∧
   (same t) ∧
   (blockReads s e .cmp n = .ok t (as, bs)) ∧
   (as.length = n) ∧
   (bs.length = n) ∧
   (j < n) ∧
   (as[j]? ≠ bs[j]?) ∧
   ((∀ i < j, as[i]? = bs[i]?))) ∧
  (let s : State := { SP (R { pc := 0x2004000, bcnt := 100, bsrc := 0x2000, bdst := 0x303F }) with spc := { (SP (R {})).spc with mem := [(0x2000,1),(0x2001,2),(0x2002,3),(0x3008,1),(0x3009,2),(0x300A,3),(0x3010,1),(0x3011,2)] } }
   let e : Eng := 3
   let o : BlockOp := { bits := 0xFF, n := 1 }
   let t : State := okSt (dataWrite s e 0x303F (List.replicate 1 0xFF) false) s
   let r := regGet s e
   let n := r.bcnt.toNat
   let b : Byte := o.bits.setWidth 8
   let same := fun (x : State) => regGet x e = r ∧ ready x e .long = true
   let m := 64 - r.bdst.toNat % 64
   (readyNative s e .long = true) ∧
   (o.bits.toNat < 256) ∧
   (0 < o.n) ∧
   (64 < n + r.bdst.toNat % 64) ∧
   (o.n = 1) ∧
   (same t) ∧
   (dataWrite s e r.bdst (List.replicate m b) false = .ok t ())) := by
  refine ⟨?_, ?_, ?_, ?_, ?_, ?_, ?_⟩
  all_goals first | decide +kernel | (repeat' (first | decide +kernel | rfl | refine And.intro ?_ ?_ | (intro h; exact absurd h (by decide +kernel)) | (intros; rfl) | (intro _ _; exact ⟨rfl, rfl⟩) | (simp; done)))

/-- The hypotheses of `BlockRepeat`, Block run reaches its end. -/
theorem witness_BlockRunReachesItsEnd :
  (let s : State := { SP (R { pc := 0x2004000, bcnt := 70, bsrc := 0x2000, bdst := 0x3008 }) with spc := { (SP (R {})).spc with mem := [(0x2000,1),(0x2001,2),(0x2002,3),(0x3008,1),(0x3009,2),(0x300A,3),(0x3010,1),(0x3011,2)] } }
   let e : Eng := 3
   let b : Byte := 7
   let t : State := okSt (blockRun e (.fill 7) 70 s) s
   let r := regGet s e
   (blockRun e (.fill b) r.bcnt.toNat s = .ok t ())) ∧
  (let s : State := { SP (R { pc := 0x2004000, bcnt := 3, bsrc := 0x2000, bdst := 0x3008 }) with spc := { (SP (R {})).spc with mem := [(0x2000,1),(0x2001,2),(0x2002,3),(0x3008,1),(0x3009,2),(0x300A,3),(0x3010,1),(0x3011,2)] } }
   let e : Eng := 3
   let t : State := okSt (blockRun e .mov 3 s) s
   let r := regGet s e
   (blockRun e .mov r.bcnt.toNat s = .ok t ())) := by
  refine ⟨?_, ?_⟩
  all_goals first | decide +kernel | (repeat' (first | decide +kernel | rfl | refine And.intro ?_ ?_ | (intro h; exact absurd h (by decide +kernel)) | (intros; rfl) | (intro _ _; exact ⟨rfl, rfl⟩) | (simp; done)))

/-- The hypotheses of `LongOperations`, Multiply and divide start. -/
theorem witness_MultiplyAndDivideStart :
  (let s : State := E { r := { pc := 0x2004000, sp := { ctl := 3, ctlEff := 3 }, ds := [.val 0xFFFFFFFF, .val 0x80000000] } }
   let e : Eng := 3
   let a : Word := 0x80000000
   let b : Word := 0xFFFFFFFF
   let rest : List Cell := []
   let g := engGet s e
   (readyNative s e .long = true) ∧
   ((regGet s e).ds = .val b :: .val a :: rest) ∧
   (rest.length ≤ 30) ∧
   (g.div = none) ∧
   (b ≠ 0)) ∧
  (let s : State := E { r := { pc := 0x2004000, sp := { ctl := 3, ctlEff := 3 }, ds := [.val 0, .val 0x80000000] } }
   let e : Eng := 3
   let a : Word := 0x80000000
   let b : Word := 0
   let rest : List Cell := []
   let g := engGet s e
   (readyNative s e .long = true) ∧
   ((regGet s e).ds = .val b :: .val a :: rest) ∧
   (rest.length ≤ 30) ∧
   (g.div = none) ∧
   (b = 0)) := by
  refine ⟨?_, ?_⟩
  all_goals first | decide +kernel | (repeat' (first | decide +kernel | rfl | refine And.intro ?_ ?_ | (intro h; exact absurd h (by decide +kernel)) | (intros; rfl) | (intro _ _; exact ⟨rfl, rfl⟩) | (simp; done)))

/-- The hypotheses of `LongOperations`, Long results land. -/
theorem witness_LongResultsLand :
  (let s : State := E { prods := [{ val := 0x1234567890ABCDEF, mulv := true, ovf := false, id := 1, pc := 0xF00, spec := false }] }
   let e : Eng := 3
   let p : Product := { val := 0x1234567890ABCDEF, mulv := true, ovf := false, id := 1, pc := 0xF00, spec := false }
   let l : List Product := []
   let g := engGet s e
   (eclkOn s = true) ∧
   ((engGet s e).wrong = none) ∧
   ((engGet s e).ra = none) ∧
   (g.prods = p :: l) ∧
   (p.spec = false) ∧
   (p.ovf = false)) ∧
  (let s : State := E { div := some { id := 4, result := 9, fault := some 7, pc := 0xF00, spec := false }, r := { ds := [.rsv 4, .val 4] }, fence := some false }
   let e : Eng := 3
   let d : Divide := { id := 4, result := 9, fault := some 7, pc := 0xF00, spec := false }
   let g := engGet s e
   (eclkOn s = true) ∧
   ((engGet s e).wrong = none) ∧
   ((engGet s e).ra = none) ∧
   (g.div = some d) ∧
   (d.spec = false)) := by
  refine ⟨?_, ?_⟩
  all_goals first | decide +kernel | (repeat' (first | decide +kernel | rfl | refine And.intro ?_ ?_ | (intro h; exact absurd h (by decide +kernel)) | (intros; rfl) | (intro _ _; exact ⟨rfl, rfl⟩) | (simp; done)))

/-- The hypotheses of `AuxiliarySets`, Check set results. -/
theorem witness_CheckSetResults :
  (let s : State := R { pc := 0x2004000, ds := [.val 0x39, .val 9] }
   let e : Eng := 3
   let x : Word := 0x39
   let c : Word := 9
   let rest : List Cell := []
   let r := regGet s e
   let d : Nat := 9
   (readyNative s e .long = true) ∧
   (rest.length ≤ 30) ∧
   (s.wvl.auxsel.getLsbD e.val = false) ∧
   (r.ds = .val x :: .val c :: rest) ∧
   (d ≤ 9) ∧
   (c.toNat ≤ 9) ∧
   (x.toNat = d ∨ x.toNat = 0x30 + d)) ∧
  (let s : State := R { pc := 0x2004000, ds := [.val 0x80000101] }
   let e : Eng := 3
   let x : Word := 0x80000101
   let rest : List Cell := []
   let r := regGet s e
   (readyNative s e .long = true) ∧
   (rest.length ≤ 30) ∧
   (s.wvl.auxsel.getLsbD e.val = false) ∧
   (r.ds = .val x :: rest)) ∧
  (let s : State := { R { pc := 0x2004000, ds := [.val 0x39, .val 9] } with wvl := { W0.wvl with auxsel := 8 } }
   let e : Eng := 3
   let rest : List Cell := []
   (readyNative s e .long = true) ∧
   (rest.length ≤ 30) ∧
   (s.wvl.auxsel.getLsbD e.val = true)) := by
  refine ⟨?_, ?_, ?_⟩
  all_goals first | decide +kernel | (repeat' (first | decide +kernel | rfl | refine And.intro ?_ ?_ | (intro h; exact absurd h (by decide +kernel)) | (intros; rfl) | (intro _ _; exact ⟨rfl, rfl⟩) | (simp; done)))

/-- The hypotheses of `AuxiliarySets`, Crc steps. -/
theorem witness_CrcSteps :
  (let r : Regs := {}
   (r.sp.crcsel = 0)) := by
  first | decide +kernel | (repeat' (first | decide +kernel | rfl | refine And.intro ?_ ?_ | (intro h; exact absurd h (by decide +kernel)) | (intros; rfl) | (intro _ _; exact ⟨rfl, rfl⟩) | (simp; done)))

/-- The hypotheses of `AuxiliarySets`, Field set results. -/
theorem witness_FieldSetResults :
  (let s : State := { R { pc := 0x2004000, ds := [.val 32, .val 0, .val 0x80000001] } with wvl := { W0.wvl with auxsel := 8 } }
   let e : Eng := 3
   let width : Word := 32
   let pos : Word := 0
   let x : Word := 0x80000001
   let rest : List Cell := []
   let r := regGet s e
   (readyNative s e .long = true) ∧
   (s.wvl.auxsel.getLsbD e.val = true) ∧
   (rest.length ≤ 28) ∧
   (r.ds = .val width :: .val pos :: .val x :: rest) ∧
   (pos.toNat + width.toNat ≤ 32) ∧
   (0 < width.toNat)) ∧
  (let s : State := { R { pc := 0x2004000, ds := [.val 0] } with wvl := { W0.wvl with auxsel := 8 } }
   let e : Eng := 3
   let o : BitVec 24 := 0xF740
   let x : Word := 0
   let rest : List Cell := []
   let r := regGet s e
   (readyNative s e .long = true) ∧
   (s.wvl.auxsel.getLsbD e.val = true) ∧
   (rest.length ≤ 28) ∧
   (r.ds = .val x :: rest) ∧
   (x = 0) ∧
   (o.toNat < 2 ^ 16)) ∧
  (let s : State := { R { pc := 0x2004000, ds := [.val 4, .val 28, .val 0x35, .val 0x80000001] } with wvl := { W0.wvl with auxsel := 8 } }
   let e : Eng := 3
   let width : Word := 4
   let pos : Word := 28
   let f : Word := 0x35
   let x : Word := 0x80000001
   let rest : List Cell := []
   let r := regGet s e
   (readyNative s e .long = true) ∧
   (s.wvl.auxsel.getLsbD e.val = true) ∧
   (rest.length ≤ 28) ∧
   (r.ds = .val width :: .val pos :: .val f :: .val x :: rest) ∧
   (pos.toNat + width.toNat ≤ 32)) ∧
  (let s : State := { R { pc := 0x2004000, ds := [.val 0x80000001] } with wvl := { W0.wvl with auxsel := 8 } }
   let e : Eng := 3
   let x : Word := 0x80000001
   let rest : List Cell := []
   let r := regGet s e
   let k : Nat := 0
   (readyNative s e .long = true) ∧
   (s.wvl.auxsel.getLsbD e.val = true) ∧
   (rest.length ≤ 28) ∧
   (r.ds = .val x :: rest) ∧
   (k < 32) ∧
   (x.toNat / 2 ^ (31 - k) = 1)) := by
  refine ⟨?_, ?_, ?_, ?_⟩
  all_goals first | decide +kernel | (repeat' (first | decide +kernel | rfl | refine And.intro ?_ ?_ | (intro h; exact absurd h (by decide +kernel)) | (intros; rfl) | (intro _ _; exact ⟨rfl, rfl⟩) | (simp; done)))

/-- The hypotheses of `VectorIssue`, Vector instructions queue. -/
theorem witness_VectorInstructionsQueue :
  (let s : State := R { pc := 0x2004000, sp := { ctl := 8, ctlEff := 8, vl := 3, vstart := 1, vtype := 2 }, ds := [.val 9] }
   let e : Eng := 3
   let v : VFields := { m := false, vb := 0, va := 31, vd := 0 }
   let a : Word := 9
   let rest : List Cell := []
   let g := engGet s e
   let apart := v.m = true → v.vd ≠ 0
   (readyNative s e .long = true) ∧
   ((regGet s e).sp.ctlEff.getLsbD 3 = true) ∧
   ((engGet s e).vq.length ≤ 7) ∧
   ((regGet s e).ds.length ≤ 31) ∧
   (v.hi = 0) ∧
   (apart) ∧
   (v.vb = 0) ∧
   (v.vd = 0) ∧
   (v.m = false) ∧
   (g.r.ds = .val a :: rest)) ∧
  (let s : State := R { pc := 0x2004000, sp := { ctl := 8, ctlEff := 8, vl := 3, vstart := 1, vtype := 2 }, ds := [.val 9] }
   let e : Eng := 3
   let v : VFields := { m := true, vb := 0, va := 0, vd := 31 }
   let a : Word := 9
   let rest : List Cell := []
   let g := engGet s e
   let apart := v.m = true → v.vd ≠ 0
   (readyNative s e .long = true) ∧
   ((regGet s e).sp.ctlEff.getLsbD 3 = true) ∧
   ((engGet s e).vq.length ≤ 7) ∧
   ((regGet s e).ds.length ≤ 31) ∧
   (v.hi = 0) ∧
   (apart) ∧
   (v.vb = 0) ∧
   (v.va = 0) ∧
   (g.r.ds = .val a :: rest)) := by
  refine ⟨?_, ?_⟩
  all_goals first | decide +kernel | (repeat' (first | decide +kernel | rfl | refine And.intro ?_ ?_ | (intro h; exact absurd h (by decide +kernel)) | (intros; rfl) | (intro _ _; exact ⟨rfl, rfl⟩) | (simp; done)))

/-- The hypotheses of `VectorIssue`, Vector length set. -/
theorem witness_VectorLengthSet :
  (let s : State := R { pc := 0x2004000, sp := { ctlEff := 8, vtype := 0, vstart := 3 }, ds := [.val 65] }
   let e : Eng := 3
   let a : Word := 65
   let rest : List Cell := []
   (readyNative s e .long = true) ∧
   ((regGet s e).sp.ctlEff.getLsbD 3 = true) ∧
   ((regGet s e).ds = .val a :: rest) ∧
   (rest.length ≤ 31)) := by
  first | decide +kernel | (repeat' (first | decide +kernel | rfl | refine And.intro ?_ ?_ | (intro h; exact absurd h (by decide +kernel)) | (intros; rfl) | (intro _ _; exact ⟨rfl, rfl⟩) | (simp; done)))

/-- The hypotheses of `VectorIssue`, Vector disabled. -/
theorem witness_VectorDisabled :
  (let s : State := R { pc := 0x2004000 }
   let e : Eng := 3
   (readyNative s e .long = true) ∧
   ((regGet s e).sp.ctlEff.getLsbD 3 = false)) := by
  first | decide +kernel | (repeat' (first | decide +kernel | rfl | refine And.intro ?_ ?_ | (intro h; exact absurd h (by decide +kernel)) | (intros; rfl) | (intro _ _; exact ⟨rfl, rfl⟩) | (simp; done)))

/-- The hypotheses of `VectorResults`, Vector element results. -/
theorem witness_VectorElementResults :
  (let s : State := E { vq := [{ op := .add, m := false, vb := 2, va := 1, vd := 3, vl := 3, vstart := 1, sew := 2, arg := 9, id := 5 }], v := [(0, 0x4), (1, 0x80000004800000037FFFFFFF00000001), (2, 0x3FFFFFFFF000000020000001F), (3, 0x77777777000000000000000000000001)] }
   let e : Eng := 3
   let x : VqEntry := { op := .add, m := false, vb := 2, va := 1, vd := 3, vl := 3, vstart := 1, sew := 2, arg := 9, id := 5 }
   let l : List VqEntry := []
   let f : (w : Nat) → BitVec w → BitVec w → BitVec w := fun _ a b => a + b
   let w := if x.sew = 0 then 8 else if x.sew = 1 then 16 else 32
   (eclkOn s = true) ∧
   ((engGet s e).vq = x :: l) ∧
   (x.sew ≠ 3) ∧
   ((x.op, f) ∈ ([(.add, fun _ a b => a + b), (.sub, fun _ a b => a - b), (.and_, fun _ a b => a &&& b),
         (.or_, fun _ a b => a ||| b), (.xor_, fun _ a b => a ^^^ b), (.minu, fun _ a b => if a.toNat < b.toNat then a else b),
         (.min, fun _ a b => if a.toInt < b.toInt then a else b), (.max, fun _ a b => if b.toInt < a.toInt then a else b),
         (.maxu, fun _ a b => if b.toNat < a.toNat then a else b), (.shl, fun _ a b => a <<< b.toNat),
         (.shr, fun _ a b => a >>> b.toNat), (.sar, fun _ a b => a.sshiftRight b.toNat), (.mv, fun _ a _ => a)] :
         List (VOp × ((w : Nat) → BitVec w → BitVec w → BitVec w)))) ∧
   (x.vl ≤ 512 / w)) := by
  first | decide +kernel | (repeat' (first | decide +kernel | rfl | refine And.intro ?_ ?_ | (intro h; exact absurd h (by decide +kernel)) | (intros; rfl) | (intro _ _; exact ⟨rfl, rfl⟩) | (simp; done)))

/-- The hypotheses of `VectorResults`, Vector other results. -/
theorem witness_VectorOtherResults :
  (let s : State := E { vq := [{ op := .wmul, m := false, vb := 2, va := 1, vd := 3, vl := 5, vstart := 0, sew := 1, arg := 9, id := 5 }], v := [(0, 0x4), (1, 0x80000004800000037FFFFFFF00000001), (2, 0x3FFFFFFFF000000020000001F), (3, 0x77777777000000000000000000000001)], r := { ds := [.val 7] } }
   let e : Eng := 3
   let x : VqEntry := { op := .wmul, m := false, vb := 2, va := 1, vd := 3, vl := 5, vstart := 0, sew := 1, arg := 9, id := 5 }
   let l : List VqEntry := []
   let w := if x.sew = 0 then 8 else if x.sew = 1 then 16 else 32
   (eclkOn s = true) ∧
   ((engGet s e).vq = x :: l) ∧
   (x.sew ≠ 3) ∧
   (x.vl ≤ 512 / w) ∧
   (x.op = .wmul)) ∧
  (let s : State := E { vq := [{ op := .wmulu, m := false, vb := 2, va := 1, vd := 3, vl := 9, vstart := 0, sew := 0, arg := 9, id := 5 }], v := [(0, 0x4), (1, 0x80000004800000037FFFFFFF00000001), (2, 0x3FFFFFFFF000000020000001F), (3, 0x77777777000000000000000000000001)], r := { ds := [.val 7] } }
   let e : Eng := 3
   let x : VqEntry := { op := .wmulu, m := false, vb := 2, va := 1, vd := 3, vl := 9, vstart := 0, sew := 0, arg := 9, id := 5 }
   let l : List VqEntry := []
   let w := if x.sew = 0 then 8 else if x.sew = 1 then 16 else 32
   (eclkOn s = true) ∧
   ((engGet s e).vq = x :: l) ∧
   (x.sew ≠ 3) ∧
   (x.vl ≤ 512 / w) ∧
   (x.op = .wmulu)) ∧
  (let s : State := E { vq := [{ op := .dot8, m := false, vb := 2, va := 1, vd := 3, vl := 9, vstart := 0, sew := 0, arg := 9, id := 5 }], v := [(0, 0x4), (1, 0x80000004800000037FFFFFFF00000001), (2, 0x3FFFFFFFF000000020000001F), (3, 0x77777777000000000000000000000001)], r := { ds := [.val 7] } }
   let e : Eng := 3
   let x : VqEntry := { op := .dot8, m := false, vb := 2, va := 1, vd := 3, vl := 9, vstart := 0, sew := 0, arg := 9, id := 5 }
   let l : List VqEntry := []
   let w := if x.sew = 0 then 8 else if x.sew = 1 then 16 else 32
   (eclkOn s = true) ∧
   ((engGet s e).vq = x :: l) ∧
   (x.sew ≠ 3) ∧
   (x.vl ≤ 512 / w) ∧
   (x.op = .dot8)) ∧
  (let s : State := E { vq := [{ op := .dot8u, m := false, vb := 2, va := 1, vd := 3, vl := 7, vstart := 0, sew := 0, arg := 9, id := 5 }], v := [(0, 0x4), (1, 0x80000004800000037FFFFFFF00000001), (2, 0x3FFFFFFFF000000020000001F), (3, 0x77777777000000000000000000000001)], r := { ds := [.val 7] } }
   let e : Eng := 3
   let x : VqEntry := { op := .dot8u, m := false, vb := 2, va := 1, vd := 3, vl := 7, vstart := 0, sew := 0, arg := 9, id := 5 }
   let l : List VqEntry := []
   let w := if x.sew = 0 then 8 else if x.sew = 1 then 16 else 32
   (eclkOn s = true) ∧
   ((engGet s e).vq = x :: l) ∧
   (x.sew ≠ 3) ∧
   (x.vl ≤ 512 / w) ∧
   (x.op = .dot8u)) ∧
  (let s : State := E { vq := [{ op := .dot16, m := false, vb := 2, va := 1, vd := 3, vl := 5, vstart := 0, sew := 1, arg := 9, id := 5 }], v := [(0, 0x4), (1, 0x80000004800000037FFFFFFF00000001), (2, 0x3FFFFFFFF000000020000001F), (3, 0x77777777000000000000000000000001)], r := { ds := [.val 7] } }
   let e : Eng := 3
   let x : VqEntry := { op := .dot16, m := false, vb := 2, va := 1, vd := 3, vl := 5, vstart := 0, sew := 1, arg := 9, id := 5 }
   let l : List VqEntry := []
   let w := if x.sew = 0 then 8 else if x.sew = 1 then 16 else 32
   (eclkOn s = true) ∧
   ((engGet s e).vq = x :: l) ∧
   (x.sew ≠ 3) ∧
   (x.vl ≤ 512 / w) ∧
   (x.op = .dot16)) ∧
  (let s : State := E { vq := [{ op := .dot16u, m := false, vb := 2, va := 1, vd := 3, vl := 40, vstart := 0, sew := 0, arg := 9, id := 5 }], v := [(0, 0x4), (1, 0x80000004800000037FFFFFFF00000001), (2, 0x3FFFFFFFF000000020000001F), (3, 0x77777777000000000000000000000001)], r := { ds := [.val 7] } }
   let e : Eng := 3
   let x : VqEntry := { op := .dot16u, m := false, vb := 2, va := 1, vd := 3, vl := 40, vstart := 0, sew := 0, arg := 9, id := 5 }
   let l : List VqEntry := []
   let w := if x.sew = 0 then 8 else if x.sew = 1 then 16 else 32
   (eclkOn s = true) ∧
   ((engGet s e).vq = x :: l) ∧
   (x.sew ≠ 3) ∧
   (x.vl ≤ 512 / w) ∧
   (x.op = .dot16u)) ∧
  (let s : State := E { vq := [{ op := .seq, m := false, vb := 2, va := 1, vd := 3, vl := 3, vstart := 0, sew := 2, arg := 9, id := 5 }], v := [(0, 0x4), (1, 0x80000004800000037FFFFFFF00000001), (2, 0x3FFFFFFFF000000020000001F), (3, 0x77777777000000000000000000000001)], r := { ds := [.val 7] } }
   let e : Eng := 3
   let x : VqEntry := { op := .seq, m := false, vb := 2, va := 1, vd := 3, vl := 3, vstart := 0, sew := 2, arg := 9, id := 5 }
   let l : List VqEntry := []
   let w := if x.sew = 0 then 8 else if x.sew = 1 then 16 else 32
   (eclkOn s = true) ∧
   ((engGet s e).vq = x :: l) ∧
   (x.sew ≠ 3) ∧
   (x.vl ≤ 512 / w) ∧
   (x.op = .seq)) ∧
  (let s : State := E { vq := [{ op := .sne, m := false, vb := 2, va := 1, vd := 3, vl := 5, vstart := 0, sew := 1, arg := 9, id := 5 }], v := [(0, 0x4), (1, 0x80000004800000037FFFFFFF00000001), (2, 0x3FFFFFFFF000000020000001F), (3, 0x77777777000000000000000000000001)], r := { ds := [.val 7] } }
   let e : Eng := 3
   let x : VqEntry := { op := .sne, m := false, vb := 2, va := 1, vd := 3, vl := 5, vstart := 0, sew := 1, arg := 9, id := 5 }
   let l : List VqEntry := []
   let w := if x.sew = 0 then 8 else if x.sew = 1 then 16 else 32
   (eclkOn s = true) ∧
   ((engGet s e).vq = x :: l) ∧
   (x.sew ≠ 3) ∧
   (x.vl ≤ 512 / w) ∧
   (x.op = .sne)) ∧
  (let s : State := E { vq := [{ op := .slt, m := false, vb := 2, va := 1, vd := 3, vl := 3, vstart := 0, sew := 2, arg := 9, id := 5 }], v := [(0, 0x4), (1, 0x80000004800000037FFFFFFF00000001), (2, 0x3FFFFFFFF000000020000001F), (3, 0x77777777000000000000000000000001)], r := { ds := [.val 7] } }
   let e : Eng := 3
   let x : VqEntry := { op := .slt, m := false, vb := 2, va := 1, vd := 3, vl := 3, vstart := 0, sew := 2, arg := 9, id := 5 }
   let l : List VqEntry := []
   let w := if x.sew = 0 then 8 else if x.sew = 1 then 16 else 32
   (eclkOn s = true) ∧
   ((engGet s e).vq = x :: l) ∧
   (x.sew ≠ 3) ∧
   (x.vl ≤ 512 / w) ∧
   (x.op = .slt)) ∧
  (let s : State := E { vq := [{ op := .sltu, m := false, vb := 2, va := 1, vd := 3, vl := 3, vstart := 0, sew := 2, arg := 9, id := 5 }], v := [(0, 0x4), (1, 0x80000004800000037FFFFFFF00000001), (2, 0x3FFFFFFFF000000020000001F), (3, 0x77777777000000000000000000000001)], r := { ds := [.val 7] } }
   let e : Eng := 3
   let x : VqEntry := { op := .sltu, m := false, vb := 2, va := 1, vd := 3, vl := 3, vstart := 0, sew := 2, arg := 9, id := 5 }
   let l : List VqEntry := []
   let w := if x.sew = 0 then 8 else if x.sew = 1 then 16 else 32
   (eclkOn s = true) ∧
   ((engGet s e).vq = x :: l) ∧
   (x.sew ≠ 3) ∧
   (x.vl ≤ 512 / w) ∧
   (x.op = .sltu)) ∧
  (let s : State := E { vq := [{ op := .sle, m := false, vb := 2, va := 1, vd := 3, vl := 3, vstart := 0, sew := 2, arg := 9, id := 5 }], v := [(0, 0x4), (1, 0x80000004800000037FFFFFFF00000001), (2, 0x3FFFFFFFF000000020000001F), (3, 0x77777777000000000000000000000001)], r := { ds := [.val 7] } }
   let e : Eng := 3
   let x : VqEntry := { op := .sle, m := false, vb := 2, va := 1, vd := 3, vl := 3, vstart := 0, sew := 2, arg := 9, id := 5 }
   let l : List VqEntry := []
   let w := if x.sew = 0 then 8 else if x.sew = 1 then 16 else 32
   (eclkOn s = true) ∧
   ((engGet s e).vq = x :: l) ∧
   (x.sew ≠ 3) ∧
   (x.vl ≤ 512 / w) ∧
   (x.op = .sle)) ∧
  (let s : State := E { vq := [{ op := .sleu, m := false, vb := 2, va := 1, vd := 3, vl := 9, vstart := 0, sew := 0, arg := 9, id := 5 }], v := [(0, 0x4), (1, 0x80000004800000037FFFFFFF00000001), (2, 0x3FFFFFFFF000000020000001F), (3, 0x77777777000000000000000000000001)], r := { ds := [.val 7] } }
   let e : Eng := 3
   let x : VqEntry := { op := .sleu, m := false, vb := 2, va := 1, vd := 3, vl := 9, vstart := 0, sew := 0, arg := 9, id := 5 }
   let l : List VqEntry := []
   let w := if x.sew = 0 then 8 else if x.sew = 1 then 16 else 32
   (eclkOn s = true) ∧
   ((engGet s e).vq = x :: l) ∧
   (x.sew ≠ 3) ∧
   (x.vl ≤ 512 / w) ∧
   (x.op = .sleu)) ∧
  (let s : State := E { vq := [{ op := .bcast, m := false, vb := 2, va := 1, vd := 3, vl := 5, vstart := 0, sew := 1, arg := 9, id := 5 }], v := [(0, 0x4), (1, 0x80000004800000037FFFFFFF00000001), (2, 0x3FFFFFFFF000000020000001F), (3, 0x77777777000000000000000000000001)], r := { ds := [.val 7] } }
   let e : Eng := 3
   let x : VqEntry := { op := .bcast, m := false, vb := 2, va := 1, vd := 3, vl := 5, vstart := 0, sew := 1, arg := 9, id := 5 }
   let l : List VqEntry := []
   let w := if x.sew = 0 then 8 else if x.sew = 1 then 16 else 32
   (eclkOn s = true) ∧
   ((engGet s e).vq = x :: l) ∧
   (x.sew ≠ 3) ∧
   (x.vl ≤ 512 / w) ∧
   (x.op = .bcast)) := by
  refine ⟨?_, ?_, ?_, ?_, ?_, ?_, ?_, ?_, ?_, ?_, ?_, ?_, ?_⟩
  all_goals first | decide +kernel | (repeat' (first | decide +kernel | rfl | refine And.intro ?_ ?_ | (intro h; exact absurd h (by decide +kernel)) | (intros; rfl) | (intro _ _; exact ⟨rfl, rfl⟩) | (simp; done)))

/-- The hypotheses of `VectorResults`, Vector cell results. -/
theorem witness_VectorCellResults :
  (let s : State := E { vq := [{ op := .rsum, m := false, vb := 2, va := 1, vd := 3, vl := 0, vstart := 0, sew := 2, arg := 9, id := 5 }], v := [(0, 0x4), (1, 0x80000004800000037FFFFFFF00000001), (2, 0x3FFFFFFFF000000020000001F), (3, 0x77777777000000000000000000000001)], r := { ds := [.rsv 5, .val 7] } }
   let e : Eng := 3
   let x : VqEntry := { op := .rsum, m := false, vb := 2, va := 1, vd := 3, vl := 0, vstart := 0, sew := 2, arg := 9, id := 5 }
   let l : List VqEntry := []
   let rest : List Cell := [.val 7]
   let g := engGet s e
   let is := (List.range x.vl).filter fun i => decide (x.vstart ≤ i) && (!x.m || (tget 0 g.v 0).getLsbD i)
   (eclkOn s = true) ∧
   ((engGet s e).vq = x :: l) ∧
   (x.sew ≠ 3) ∧
   ((regGet s e).ds = .rsv x.id :: rest) ∧
   (.rsv x.id ∉ rest) ∧
   ((engGet s e).wrong = none) ∧
   ((engGet s e).ra = none) ∧
   (is = []) ∧
   (x.op = .rsum)) ∧
  (let s : State := E { vq := [{ op := .rand, m := false, vb := 2, va := 1, vd := 3, vl := 0, vstart := 0, sew := 2, arg := 9, id := 5 }], v := [(0, 0x4), (1, 0x80000004800000037FFFFFFF00000001), (2, 0x3FFFFFFFF000000020000001F), (3, 0x77777777000000000000000000000001)], r := { ds := [.rsv 5, .val 7] } }
   let e : Eng := 3
   let x : VqEntry := { op := .rand, m := false, vb := 2, va := 1, vd := 3, vl := 0, vstart := 0, sew := 2, arg := 9, id := 5 }
   let l : List VqEntry := []
   let rest : List Cell := [.val 7]
   let g := engGet s e
   let is := (List.range x.vl).filter fun i => decide (x.vstart ≤ i) && (!x.m || (tget 0 g.v 0).getLsbD i)
   (eclkOn s = true) ∧
   ((engGet s e).vq = x :: l) ∧
   (x.sew ≠ 3) ∧
   ((regGet s e).ds = .rsv x.id :: rest) ∧
   (.rsv x.id ∉ rest) ∧
   ((engGet s e).wrong = none) ∧
   ((engGet s e).ra = none) ∧
   (is = []) ∧
   (x.op = .rand)) ∧
  (let s : State := E { vq := [{ op := .ror_, m := false, vb := 2, va := 1, vd := 3, vl := 0, vstart := 0, sew := 2, arg := 9, id := 5 }], v := [(0, 0x4), (1, 0x80000004800000037FFFFFFF00000001), (2, 0x3FFFFFFFF000000020000001F), (3, 0x77777777000000000000000000000001)], r := { ds := [.rsv 5, .val 7] } }
   let e : Eng := 3
   let x : VqEntry := { op := .ror_, m := false, vb := 2, va := 1, vd := 3, vl := 0, vstart := 0, sew := 2, arg := 9, id := 5 }
   let l : List VqEntry := []
   let rest : List Cell := [.val 7]
   let g := engGet s e
   let is := (List.range x.vl).filter fun i => decide (x.vstart ≤ i) && (!x.m || (tget 0 g.v 0).getLsbD i)
   (eclkOn s = true) ∧
   ((engGet s e).vq = x :: l) ∧
   (x.sew ≠ 3) ∧
   ((regGet s e).ds = .rsv x.id :: rest) ∧
   (.rsv x.id ∉ rest) ∧
   ((engGet s e).wrong = none) ∧
   ((engGet s e).ra = none) ∧
   (is = []) ∧
   (x.op = .ror_)) ∧
  (let s : State := E { vq := [{ op := .rmin, m := false, vb := 2, va := 1, vd := 3, vl := 0, vstart := 0, sew := 2, arg := 9, id := 5 }], v := [(0, 0x4), (1, 0x80000004800000037FFFFFFF00000001), (2, 0x3FFFFFFFF000000020000001F), (3, 0x77777777000000000000000000000001)], r := { ds := [.rsv 5, .val 7] } }
   let e : Eng := 3
   let x : VqEntry := { op := .rmin, m := false, vb := 2, va := 1, vd := 3, vl := 0, vstart := 0, sew := 2, arg := 9, id := 5 }
   let l : List VqEntry := []
   let rest : List Cell := [.val 7]
   let g := engGet s e
   let is := (List.range x.vl).filter fun i => decide (x.vstart ≤ i) && (!x.m || (tget 0 g.v 0).getLsbD i)
   (eclkOn s = true) ∧
   ((engGet s e).vq = x :: l) ∧
   (x.sew ≠ 3) ∧
   ((regGet s e).ds = .rsv x.id :: rest) ∧
   (.rsv x.id ∉ rest) ∧
   ((engGet s e).wrong = none) ∧
   ((engGet s e).ra = none) ∧
   (is = []) ∧
   (x.op = .rmin)) ∧
  (let s : State := E { vq := [{ op := .rmin, m := false, vb := 2, va := 1, vd := 3, vl := 1, vstart := 0, sew := 2, arg := 9, id := 5 }], v := [(0, 0x4), (1, 0x80000004800000037FFFFFFF00000001), (2, 0x3FFFFFFFF000000020000001F), (3, 0x77777777000000000000000000000001)], r := { ds := [.rsv 5, .val 7] } }
   let e : Eng := 3
   let x : VqEntry := { op := .rmin, m := false, vb := 2, va := 1, vd := 3, vl := 1, vstart := 0, sew := 2, arg := 9, id := 5 }
   let l : List VqEntry := []
   let rest : List Cell := [.val 7]
   let g := engGet s e
   let is := (List.range x.vl).filter fun i => decide (x.vstart ≤ i) && (!x.m || (tget 0 g.v 0).getLsbD i)
   (eclkOn s = true) ∧
   ((engGet s e).vq = x :: l) ∧
   (x.sew ≠ 3) ∧
   ((regGet s e).ds = .rsv x.id :: rest) ∧
   (.rsv x.id ∉ rest) ∧
   ((engGet s e).wrong = none) ∧
   ((engGet s e).ra = none) ∧
   (is ≠ []) ∧
   (x.op = .rmin)) ∧
  (let s : State := E { vq := [{ op := .rminu, m := false, vb := 2, va := 1, vd := 3, vl := 0, vstart := 0, sew := 2, arg := 9, id := 5 }], v := [(0, 0x4), (1, 0x80000004800000037FFFFFFF00000001), (2, 0x3FFFFFFFF000000020000001F), (3, 0x77777777000000000000000000000001)], r := { ds := [.rsv 5, .val 7] } }
   let e : Eng := 3
   let x : VqEntry := { op := .rminu, m := false, vb := 2, va := 1, vd := 3, vl := 0, vstart := 0, sew := 2, arg := 9, id := 5 }
   let l : List VqEntry := []
   let rest : List Cell := [.val 7]
   let g := engGet s e
   let is := (List.range x.vl).filter fun i => decide (x.vstart ≤ i) && (!x.m || (tget 0 g.v 0).getLsbD i)
   (eclkOn s = true) ∧
   ((engGet s e).vq = x :: l) ∧
   (x.sew ≠ 3) ∧
   ((regGet s e).ds = .rsv x.id :: rest) ∧
   (.rsv x.id ∉ rest) ∧
   ((engGet s e).wrong = none) ∧
   ((engGet s e).ra = none) ∧
   (is = []) ∧
   (x.op = .rminu)) ∧
  (let s : State := E { vq := [{ op := .rminu, m := false, vb := 2, va := 1, vd := 3, vl := 1, vstart := 0, sew := 2, arg := 9, id := 5 }], v := [(0, 0x4), (1, 0x80000004800000037FFFFFFF00000001), (2, 0x3FFFFFFFF000000020000001F), (3, 0x77777777000000000000000000000001)], r := { ds := [.rsv 5, .val 7] } }
   let e : Eng := 3
   let x : VqEntry := { op := .rminu, m := false, vb := 2, va := 1, vd := 3, vl := 1, vstart := 0, sew := 2, arg := 9, id := 5 }
   let l : List VqEntry := []
   let rest : List Cell := [.val 7]
   let g := engGet s e
   let is := (List.range x.vl).filter fun i => decide (x.vstart ≤ i) && (!x.m || (tget 0 g.v 0).getLsbD i)
   (eclkOn s = true) ∧
   ((engGet s e).vq = x :: l) ∧
   (x.sew ≠ 3) ∧
   ((regGet s e).ds = .rsv x.id :: rest) ∧
   (.rsv x.id ∉ rest) ∧
   ((engGet s e).wrong = none) ∧
   ((engGet s e).ra = none) ∧
   (is ≠ []) ∧
   (x.op = .rminu)) ∧
  (let s : State := E { vq := [{ op := .rmax, m := false, vb := 2, va := 1, vd := 3, vl := 0, vstart := 0, sew := 2, arg := 9, id := 5 }], v := [(0, 0x4), (1, 0x80000004800000037FFFFFFF00000001), (2, 0x3FFFFFFFF000000020000001F), (3, 0x77777777000000000000000000000001)], r := { ds := [.rsv 5, .val 7] } }
   let e : Eng := 3
   let x : VqEntry := { op := .rmax, m := false, vb := 2, va := 1, vd := 3, vl := 0, vstart := 0, sew := 2, arg := 9, id := 5 }
   let l : List VqEntry := []
   let rest : List Cell := [.val 7]
   let g := engGet s e
   let is := (List.range x.vl).filter fun i => decide (x.vstart ≤ i) && (!x.m || (tget 0 g.v 0).getLsbD i)
   (eclkOn s = true) ∧
   ((engGet s e).vq = x :: l) ∧
   (x.sew ≠ 3) ∧
   ((regGet s e).ds = .rsv x.id :: rest) ∧
   (.rsv x.id ∉ rest) ∧
   ((engGet s e).wrong = none) ∧
   ((engGet s e).ra = none) ∧
   (is = []) ∧
   (x.op = .rmax)) ∧
  (let s : State := E { vq := [{ op := .rmax, m := false, vb := 2, va := 1, vd := 3, vl := 1, vstart := 0, sew := 2, arg := 9, id := 5 }], v := [(0, 0x4), (1, 0x80000004800000037FFFFFFF00000001), (2, 0x3FFFFFFFF000000020000001F), (3, 0x77777777000000000000000000000001)], r := { ds := [.rsv 5, .val 7] } }
   let e : Eng := 3
   let x : VqEntry := { op := .rmax, m := false, vb := 2, va := 1, vd := 3, vl := 1, vstart := 0, sew := 2, arg := 9, id := 5 }
   let l : List VqEntry := []
   let rest : List Cell := [.val 7]
   let g := engGet s e
   let is := (List.range x.vl).filter fun i => decide (x.vstart ≤ i) && (!x.m || (tget 0 g.v 0).getLsbD i)
   (eclkOn s = true) ∧
   ((engGet s e).vq = x :: l) ∧
   (x.sew ≠ 3) ∧
   ((regGet s e).ds = .rsv x.id :: rest) ∧
   (.rsv x.id ∉ rest) ∧
   ((engGet s e).wrong = none) ∧
   ((engGet s e).ra = none) ∧
   (is ≠ []) ∧
   (x.op = .rmax)) ∧
  (let s : State := E { vq := [{ op := .rmaxu, m := false, vb := 2, va := 1, vd := 3, vl := 0, vstart := 0, sew := 2, arg := 9, id := 5 }], v := [(0, 0x4), (1, 0x80000004800000037FFFFFFF00000001), (2, 0x3FFFFFFFF000000020000001F), (3, 0x77777777000000000000000000000001)], r := { ds := [.rsv 5, .val 7] } }
   let e : Eng := 3
   let x : VqEntry := { op := .rmaxu, m := false, vb := 2, va := 1, vd := 3, vl := 0, vstart := 0, sew := 2, arg := 9, id := 5 }
   let l : List VqEntry := []
   let rest : List Cell := [.val 7]
   let g := engGet s e
   let is := (List.range x.vl).filter fun i => decide (x.vstart ≤ i) && (!x.m || (tget 0 g.v 0).getLsbD i)
   (eclkOn s = true) ∧
   ((engGet s e).vq = x :: l) ∧
   (x.sew ≠ 3) ∧
   ((regGet s e).ds = .rsv x.id :: rest) ∧
   (.rsv x.id ∉ rest) ∧
   ((engGet s e).wrong = none) ∧
   ((engGet s e).ra = none) ∧
   (is = []) ∧
   (x.op = .rmaxu)) ∧
  (let s : State := E { vq := [{ op := .rmaxu, m := false, vb := 2, va := 1, vd := 3, vl := 1, vstart := 0, sew := 2, arg := 9, id := 5 }], v := [(0, 0x4), (1, 0x80000004800000037FFFFFFF00000001), (2, 0x3FFFFFFFF000000020000001F), (3, 0x77777777000000000000000000000001)], r := { ds := [.rsv 5, .val 7] } }
   let e : Eng := 3
   let x : VqEntry := { op := .rmaxu, m := false, vb := 2, va := 1, vd := 3, vl := 1, vstart := 0, sew := 2, arg := 9, id := 5 }
   let l : List VqEntry := []
   let rest : List Cell := [.val 7]
   let g := engGet s e
   let is := (List.range x.vl).filter fun i => decide (x.vstart ≤ i) && (!x.m || (tget 0 g.v 0).getLsbD i)
   (eclkOn s = true) ∧
   ((engGet s e).vq = x :: l) ∧
   (x.sew ≠ 3) ∧
   ((regGet s e).ds = .rsv x.id :: rest) ∧
   (.rsv x.id ∉ rest) ∧
   ((engGet s e).wrong = none) ∧
   ((engGet s e).ra = none) ∧
   (is ≠ []) ∧
   (x.op = .rmaxu)) ∧
  (let s : State := E { vq := [{ op := .ext, m := false, vb := 2, va := 1, vd := 3, vl := 3, vstart := 0, sew := 2, arg := 15, id := 5 }], v := [(0, 0x4), (1, 0x80000004800000037FFFFFFF00000001), (2, 0x3FFFFFFFF000000020000001F), (3, 0x77777777000000000000000000000001)], r := { ds := [.rsv 5, .val 7] } }
   let e : Eng := 3
   let x : VqEntry := { op := .ext, m := false, vb := 2, va := 1, vd := 3, vl := 3, vstart := 0, sew := 2, arg := 15, id := 5 }
   let l : List VqEntry := []
   let rest : List Cell := [.val 7]
   (eclkOn s = true) ∧
   ((engGet s e).vq = x :: l) ∧
   (x.sew ≠ 3) ∧
   ((regGet s e).ds = .rsv x.id :: rest) ∧
   (.rsv x.id ∉ rest) ∧
   ((engGet s e).wrong = none) ∧
   ((engGet s e).ra = none) ∧
   (x.op = .ext)) := by
  refine ⟨?_, ?_, ?_, ?_, ?_, ?_, ?_, ?_, ?_, ?_, ?_, ?_⟩
  all_goals first | decide +kernel | (repeat' (first | decide +kernel | rfl | refine And.intro ?_ ?_ | (intro h; exact absurd h (by decide +kernel)) | (intros; rfl) | (intro _ _; exact ⟨rfl, rfl⟩) | (simp; done)))

/-- The hypotheses of `VectorMemory`, Vector memory results. -/
theorem witness_VectorMemoryResults :
  (let s : State := { SP (E { v := [(0, 0x4), (1, 0x80000004800000037FFFFFFF00000001), (2, 0x3FFFFFFFF000000020000001F), (3, 0x77777777000000000000000000000001)], r := { pc := 0x2004000, sp := { ctl := 8, ctlEff := 8, vl := 3, vstart := 1, vtype := 2 }, ds := [.val 0x2000] } }) with spc := { (SP (E {})).spc with mem := [(0x2004, 1), (0x2008, 2)] } }
   let e : Eng := 3
   let v : VFields := { m := false, vb := 0, va := 0, vd := 3 }
   let n : Nat := 100
   let a : Word := 0x2000
   let rest : List Cell := []
   let t : State := okSt (vLoad 3 3 32 (fun i => 0x2000 + BitVec.ofNat 32 (i*4)) [1,2] s) s
   let g := engGet s e
   let apart := v.m = true → v.vd ≠ 0
   let w := if g.r.sp.vtype = 0 then 8 else if g.r.sp.vtype = 1 then 16 else 32
   let act := fun (n : Nat) => (List.range n).filter fun i =>
           decide (g.r.sp.vstart.toNat ≤ i) && (!v.m || (tget 0 g.v 0).getLsbD i)
   let vl := g.r.sp.vl.toNat
   let all := act vl
   let unit := fun (i : Nat) => a + BitVec.ofNat 32 (i * (w / 8))
   let most := fun (is : List Nat) => if claimWaits g then n else is.length
   (readyNative s e .long = true) ∧
   ((regGet s e).sp.ctlEff.getLsbD 3 = true) ∧
   ((engGet s e).vq = []) ∧
   (rest.length ≤ 30) ∧
   (v.hi = 0) ∧
   (ready t e .long = true) ∧
   (regGet t e = g.r) ∧
   (g.r.ds = .val a :: rest) ∧
   (v.vb = 0) ∧
   (apart) ∧
   (vLoad e v.vd.toNat w unit (all.take (most all)) s = .ok t ())) ∧
  (let s : State := { SP (E { v := [(0, 0x4), (1, 0x80000004800000037FFFFFFF00000001), (2, 0x3FFFFFFFF000000020000001F), (3, 0x77777777000000000000000000000001)], r := { pc := 0x2004000, sp := { ctl := 8, ctlEff := 8, vl := 3, vstart := 1, vtype := 2 }, ds := [.val 0x2000] } }) with spc := { (SP (E {})).spc with mem := [(0x2004, 1), (0x2008, 2)] } }
   let e : Eng := 3
   let v : VFields := { m := false, vb := 0, va := 0, vd := 3 }
   let n : Nat := 100
   let a : Word := 0x2000
   let rest : List Cell := []
   let t : State := okSt (vStore 3 32 (tget 0 (engGet s 3).v 3) (fun i => 0x2000 + BitVec.ofNat 32 (i*4)) none [1,2] s) s
   let g := engGet s e
   let w := if g.r.sp.vtype = 0 then 8 else if g.r.sp.vtype = 1 then 16 else 32
   let act := fun (n : Nat) => (List.range n).filter fun i =>
           decide (g.r.sp.vstart.toNat ≤ i) && (!v.m || (tget 0 g.v 0).getLsbD i)
   let vl := g.r.sp.vl.toNat
   let all := act vl
   let unit := fun (i : Nat) => a + BitVec.ofNat 32 (i * (w / 8))
   let src := tget 0 g.v v.vd.toNat
   let most := fun (is : List Nat) => if claimWaits g then n else is.length
   (readyNative s e .long = true) ∧
   ((regGet s e).sp.ctlEff.getLsbD 3 = true) ∧
   ((engGet s e).vq = []) ∧
   (rest.length ≤ 30) ∧
   (v.hi = 0) ∧
   (ready t e .long = true) ∧
   (regGet t e = g.r) ∧
   (g.r.ds = .val a :: rest) ∧
   (v.vb = 0) ∧
   (vStore e w src unit none (all.take (most all)) s = .ok t ())) ∧
  (let s : State := { SP (E { v := [(0, 0x4), (1, 0x80000004800000037FFFFFFF00000001), (2, 0x3FFFFFFFF000000020000001F), (3, 0x77777777000000000000000000000001)], r := { pc := 0x2004000, sp := { ctl := 8, ctlEff := 8, vl := 3, vstart := 1, vtype := 2 }, ds := [.val 8, .val 0x2000] } }) with spc := { (SP (E {})).spc with mem := [(0x2004, 1), (0x2008, 2)] } }
   let e : Eng := 3
   let v : VFields := { m := false, vb := 0, va := 0, vd := 3 }
   let n : Nat := 100
   let a : Word := 8
   let b : Word := 0x2000
   let rest : List Cell := []
   let t : State := okSt (vLoad 3 3 32 (fun i => 0x2000 + BitVec.ofNat 32 (i*8)) [1,2] s) s
   let g := engGet s e
   let apart := v.m = true → v.vd ≠ 0
   let w := if g.r.sp.vtype = 0 then 8 else if g.r.sp.vtype = 1 then 16 else 32
   let act := fun (n : Nat) => (List.range n).filter fun i =>
           decide (g.r.sp.vstart.toNat ≤ i) && (!v.m || (tget 0 g.v 0).getLsbD i)
   let vl := g.r.sp.vl.toNat
   let all := act vl
   let strided := fun (i : Nat) => b + BitVec.ofNat 32 i * a
   let most := fun (is : List Nat) => if claimWaits g then n else is.length
   (readyNative s e .long = true) ∧
   ((regGet s e).sp.ctlEff.getLsbD 3 = true) ∧
   ((engGet s e).vq = []) ∧
   (rest.length ≤ 30) ∧
   (v.hi = 0) ∧
   (ready t e .long = true) ∧
   (regGet t e = g.r) ∧
   (g.r.ds = .val a :: .val b :: rest) ∧
   (v.vb = 0) ∧
   (apart) ∧
   (vLoad e v.vd.toNat w strided (all.take (most all)) s = .ok t ())) ∧
  (let s : State := { SP (E { v := [(0, 0x4), (1, 0x80000004800000037FFFFFFF00000001), (2, 0x3FFFFFFFF000000020000001F), (3, 0x77777777000000000000000000000001)], r := { pc := 0x2004000, sp := { ctl := 8, ctlEff := 8, vl := 3, vstart := 1, vtype := 2 }, ds := [.val 8, .val 0x2000] } }) with spc := { (SP (E {})).spc with mem := [(0x2004, 1), (0x2008, 2)] } }
   let e : Eng := 3
   let v : VFields := { m := false, vb := 0, va := 0, vd := 3 }
   let n : Nat := 100
   let a : Word := 8
   let b : Word := 0x2000
   let rest : List Cell := []
   let t : State := okSt (vStore 3 32 (tget 0 (engGet s 3).v 3) (fun i => 0x2000 + BitVec.ofNat 32 (i*8)) none [1,2] s) s
   let g := engGet s e
   let w := if g.r.sp.vtype = 0 then 8 else if g.r.sp.vtype = 1 then 16 else 32
   let act := fun (n : Nat) => (List.range n).filter fun i =>
           decide (g.r.sp.vstart.toNat ≤ i) && (!v.m || (tget 0 g.v 0).getLsbD i)
   let vl := g.r.sp.vl.toNat
   let all := act vl
   let strided := fun (i : Nat) => b + BitVec.ofNat 32 i * a
   let src := tget 0 g.v v.vd.toNat
   let most := fun (is : List Nat) => if claimWaits g then n else is.length
   (readyNative s e .long = true) ∧
   ((regGet s e).sp.ctlEff.getLsbD 3 = true) ∧
   ((engGet s e).vq = []) ∧
   (rest.length ≤ 30) ∧
   (v.hi = 0) ∧
   (ready t e .long = true) ∧
   (regGet t e = g.r) ∧
   (g.r.ds = .val a :: .val b :: rest) ∧
   (v.vb = 0) ∧
   (vStore e w src strided none (all.take (most all)) s = .ok t ())) ∧
  (let s : State := { SP (E { v := [(0, 0x4), (1, 0x80000004800000037FFFFFFF00000001), (2, 0x3000000080000000400000010), (3, 0x77777777000000000000000000000001)], r := { pc := 0x2004000, sp := { ctl := 8, ctlEff := 8, vl := 3, vstart := 1, vtype := 2 }, ds := [.val 0x2000] } }) with spc := { (SP (E {})).spc with mem := [(0x2004, 1), (0x2008, 2)] } }
   let e : Eng := 3
   let v : VFields := { m := false, vb := 2, va := 0, vd := 3 }
   let n : Nat := 100
   let a : Word := 0x2000
   let rest : List Cell := []
   let t : State := okSt (vLoad 3 3 32 (fun i => 0x2000 + elem 32 0x3000000080000000400000010 i) [1,2] s) s
   let g := engGet s e
   let apart := v.m = true → v.vd ≠ 0
   let w := if g.r.sp.vtype = 0 then 8 else if g.r.sp.vtype = 1 then 16 else 32
   let act := fun (n : Nat) => (List.range n).filter fun i =>
           decide (g.r.sp.vstart.toNat ≤ i) && (!v.m || (tget 0 g.v 0).getLsbD i)
   let vl := g.r.sp.vl.toNat
   let some16 := act (if vl < 16 then vl else 16)
   let indexed := fun (i : Nat) => a + elem 32 (tget 0 g.v v.vb.toNat) i
   let most := fun (is : List Nat) => if claimWaits g then n else is.length
   (readyNative s e .long = true) ∧
   ((regGet s e).sp.ctlEff.getLsbD 3 = true) ∧
   ((engGet s e).vq = []) ∧
   (rest.length ≤ 30) ∧
   (v.hi = 0) ∧
   (ready t e .long = true) ∧
   (regGet t e = g.r) ∧
   (g.r.ds = .val a :: rest) ∧
   (apart) ∧
   (vLoad e v.vd.toNat w indexed (some16.take (most some16)) s = .ok t ())) ∧
  (let s : State := { SP (E { v := [(0, 0x4), (1, 0x80000004800000037FFFFFFF00000001), (2, 0x3000000080000000400000010), (3, 0x77777777000000000000000000000001)], r := { pc := 0x2004000, sp := { ctl := 8, ctlEff := 8, vl := 3, vstart := 1, vtype := 2 }, ds := [.val 0x2000] } }) with spc := { (SP (E {})).spc with mem := [(0x2004, 1), (0x2008, 2)] } }
   let e : Eng := 3
   let v : VFields := { m := false, vb := 2, va := 0, vd := 3 }
   let n : Nat := 100
   let a : Word := 0x2000
   let rest : List Cell := []
   let t : State := okSt (vStore 3 32 (tget 0 (engGet s 3).v 3) (fun i => 0x2000 + elem 32 0x3000000080000000400000010 i) none [1,2] s) s
   let g := engGet s e
   let w := if g.r.sp.vtype = 0 then 8 else if g.r.sp.vtype = 1 then 16 else 32
   let act := fun (n : Nat) => (List.range n).filter fun i =>
           decide (g.r.sp.vstart.toNat ≤ i) && (!v.m || (tget 0 g.v 0).getLsbD i)
   let vl := g.r.sp.vl.toNat
   let some16 := act (if vl < 16 then vl else 16)
   let indexed := fun (i : Nat) => a + elem 32 (tget 0 g.v v.vb.toNat) i
   let src := tget 0 g.v v.vd.toNat
   let most := fun (is : List Nat) => if claimWaits g then n else is.length
   (readyNative s e .long = true) ∧
   ((regGet s e).sp.ctlEff.getLsbD 3 = true) ∧
   ((engGet s e).vq = []) ∧
   (rest.length ≤ 30) ∧
   (v.hi = 0) ∧
   (ready t e .long = true) ∧
   (regGet t e = g.r) ∧
   (g.r.ds = .val a :: rest) ∧
   (vStore e w src indexed none (some16.take (most some16)) s = .ok t ())) := by
  refine ⟨?_, ?_, ?_, ?_, ?_, ?_⟩
  all_goals first | decide +kernel | (repeat' (first | decide +kernel | rfl | refine And.intro ?_ ?_ | (intro h; exact absurd h (by decide +kernel)) | (intros; rfl) | (intro _ _; exact ⟨rfl, rfl⟩) | (simp; done)))

/-- The hypotheses of `VectorMemory`, Vector load elements. -/
theorem witness_VectorLoadElements :
  (let s : State := { SP (E { v := [(0, 0x4), (1, 0x80000004800000037FFFFFFF00000001), (2, 0x3FFFFFFFF000000020000001F), (3, 0x77777777000000000000000000000001)], r := { pc := 0x2004000, sp := { ctl := 8, ctlEff := 8, vl := 3, vstart := 1, vtype := 2 }, ds := [.val 0x2000] } }) with spc := { (SP (E {})).spc with mem := [(0x2004, 1), (0x2008, 2)] } }
   let e : Eng := 3
   let vd : Nat := 3
   let w : Nat := 32
   let addr : Nat → Word := fun i => 0x2000 + BitVec.ofNat 32 (i*4)
   let is : List Nat := [1,2]
   let t : State := okSt (vLoad 3 3 32 (fun i => 0x2000 + BitVec.ofNat 32 (i*4)) [1,2] s) s
   let j : Nat := 0
   let k : Nat := 2
   (w ∈ [8, 16, 32]) ∧
   ((∀ i ∈ is, i < 512 / w)) ∧
   (is.Nodup) ∧
   (vLoad e vd w addr is s = .ok t ()) ∧
   (j < 512 / w) ∧
   (j ∉ is) ∧
   (k ≠ vd)) := by
  first | decide +kernel | (repeat' (first | decide +kernel | rfl | refine And.intro ?_ ?_ | (intro h; exact absurd h (by decide +kernel)) | (intros; rfl) | (intro _ _; exact ⟨rfl, rfl⟩) | (simp; done)))

/-- The hypotheses of `VectorMemory`, Vector store elements. -/
theorem witness_VectorStoreElements :
  (let s : State := SP (E { v := [(0, 0x4), (1, 0x80000004800000037FFFFFFF00000001), (2, 0x3FFFFFFFF000000020000001F), (3, 0x77777777000000000000000000000001)], r := { pc := 0x2004000, sp := { ctl := 8, ctlEff := 8, vl := 3, vstart := 1, vtype := 2 } } })
   let e : Eng := 3
   let w : Nat := 32
   let src : BitVec 512 := 0x77777777000000000000000000000001
   let addr : Nat → Word := fun i => 0x2000 + BitVec.ofNat 32 (i*2)
   let is : List Nat := [1,2]
   let t : State := okSt (vStore 3 32 src addr none is s) s
   let at_ := fun (i j : Nat) => ((addr i + BitVec.ofNat 32 j).setWidth 44 : PAddr)
   let p : PAddr := 0x2001
   let pre : List Nat := [1]
   let post : List Nat := []
   let i : Nat := 2
   let j : Nat := 1
   (w ∈ [8, 16, 32]) ∧
   ((engGet s e).io = none) ∧
   (untranslated (regGet s e) = true) ∧
   ((engGet s e).wrong = none) ∧
   ((engGet s e).ra = none) ∧
   ((regGet s e).priv = 2) ∧
   (capturing s = false) ∧
   (vStore e w src addr none is s = .ok t ()) ∧
   ((∀ i ∈ is, ∀ j < w / 8, at_ i j ≠ p)) ∧
   (is = pre ++ i :: post) ∧
   (j < w / 8) ∧
   ((∀ k ∈ post, ∀ m < w / 8, at_ k m ≠ at_ i j))) := by
  first | decide +kernel | (repeat' (first | decide +kernel | rfl | refine And.intro ?_ ?_ | (intro h; exact absurd h (by decide +kernel)) | (intros; rfl) | (intro _ _; exact ⟨rfl, rfl⟩) | (simp; done)))

/-- The hypotheses of `VectorSaveAndRestore`. -/
theorem witness_VectorSaveAndRestore :
  (let s : State := SP (E { v := [(0, 0x4), (1, 0x80000004800000037FFFFFFF00000001), (2, 0x3FFFFFFFF000000020000001F), (3, 0x77777777000000000000000000000001)], vdirty := 2, r := { pc := 0x2004000, sp := { ctl := 8, ctlEff := 8, vl := 3, vstart := 1, vtype := 2 }, ds := [.val 0x2000] } })
   let e : Eng := 3
   let a : Word := 0x2000
   let rest : List Cell := []
   let t : State := okSt (checkImage s e .write a) s
   let u : State := let t0 := okSt (checkImage s e .write a) s; okSt (vSaveRun e a (vBlocks (engGet t0 e)) t0) t0
   let g := engGet s e
   let kept := fun (x : State) => regGet x e = regGet s e ∧ ready x e .long = true
   let image := fun (g : Engine) => (0, toBytes 4 g.r.sp.vl.toNat ++ toBytes 4 g.r.sp.vstart.toNat ++ toBytes 4 g.r.sp.vtype.toNat ++
             toBytes 4 g.vdirty.toNat ++ List.replicate 48 0) ::
           ((List.range 32).filter fun k => g.vdirty.getLsbD k).map fun k => (64 + 64 * k, toBytes 64 (tget 0 g.v k).toNat)
   let pa := fun (o : Nat) => ((a + BitVec.ofNat 32 o).setWidth 44 : PAddr)
   let entries := fun (x : Nat × List Byte) =>
           let k := a.toNat % 64
           let entry := fun (q : PAddr) (o : Nat) (bs : List Byte) (link : Bool) =>
             ({ line := lineOf q, data := toLine o bs, mask := lineMask o bs.length, win := inWindow s q, spec := false, link := link } : SbEntry)
           if k = 0 then [entry (pa x.1) 0 x.2 false]
           else [entry (pa x.1) k (x.2.take (64 - k)) true, entry (pa (x.1 + (64 - k))) 0 (x.2.drop (64 - k)) false]
   let left := (((image g).drop g.vprog).map entries).flatten
   (readyNative s e .long = true) ∧
   ((regGet s e).sp.ctlEff.getLsbD 3 = true) ∧
   ((engGet s e).vq = []) ∧
   ((regGet s e).ds = .val a :: rest) ∧
   (rest.length ≤ 31) ∧
   (kept t) ∧
   (kept u) ∧
   (g.vprog = 0) ∧
   ((engGet t e).vprog = 0) ∧
   (checkImage s e .write a = .ok t ()) ∧
   (vSaveRun e a (image (engGet t e)) t = .ok u ()) ∧
   (untranslated g.r = true) ∧
   (g.r.priv = 2) ∧
   (capturing s = false) ∧
   ((g.vprog = 0 → checkImage s e .write a = .ok s ())) ∧
   (g.m.sb.length + left.length ≤ 8)) ∧
  (let s : State := { SP (E { v := [(0, 0x4), (1, 0x80000004800000037FFFFFFF00000001), (2, 0x3FFFFFFFF000000020000001F), (3, 0x77777777000000000000000000000001)], vdirty := 2, r := { pc := 0x2004000, sp := { ctl := 8, ctlEff := 8, vl := 3, vstart := 1, vtype := 2 }, ds := [.val 0x2000] } }) with spc := { (SP (E {})).spc with mem := [(0x2000,5),(0x200C,4),(0x2080,9)] } }
   let e : Eng := 3
   let a : Word := 0x2000
   let rest : List Cell := []
   let t : State := okSt (checkImage s e .read a) s
   let u : State := okSt (vReadRun e a [192] (okSt (vReadRun e a [0] (okSt (checkImage s e .read a) s)) s)) s
   let h : BitVec 512 := ((okVal (vReadRun e a [0] (okSt (checkImage s e .read a) s)) []).headD (0,0)).2
   let l : List (Nat × BitVec 512) := okVal (vReadRun e a [192] (okSt (vReadRun e a [0] (okSt (checkImage s e .read a) s)) s)) []
   let kept := fun (x : State) => regGet x e = regGet s e ∧ ready x e .long = true
   let t2 := okSt (vReadRun e a [0] t) t
   (readyNative s e .long = true) ∧
   ((regGet s e).sp.ctlEff.getLsbD 3 = true) ∧
   ((engGet s e).vq = []) ∧
   ((regGet s e).ds = .val a :: rest) ∧
   (rest.length ≤ 31) ∧
   (kept u) ∧
   (checkImage s e .read a = .ok t ()) ∧
   (vReadRun e a [0] t = .ok t2 [(0, h)]) ∧
   (vReadRun e a (((List.range 32).filter (fun k => h.getLsbD (96 + k))).map (64 + 64 * ·)) t2 = .ok u l)) := by
  refine ⟨?_, ?_⟩
  all_goals first | decide +kernel | (repeat' (first | decide +kernel | rfl | refine And.intro ?_ ?_ | (intro h; exact absurd h (by decide +kernel)) | (intros; rfl) | (intro _ _; exact ⟨rfl, rfl⟩) | (simp; done)))

/-- The hypotheses of `TranslationAndFills`, Line fills land. -/
theorem witness_LineFillsLand :
  (let s : State := E { m := { fills := [{ line := LineA, side := .data, prefetch := false, st := .landed 5 }], dc := [(256, { CL with line := 3 })] } }
   let e : Eng := 3
   let l : LineAddr := LineA
   let f : Fill := { line := LineA, side := .data, prefetch := false, st := .landed 5 }
   let d : LineData := 5
   let g := engGet s e
   let w : Nat := 1
   (eclkOn s = true) ∧
   (f.st = .landed d) ∧
   (g.anchor = none) ∧
   (fillOf g .data l = some f) ∧
   (wayOf g.m.dc l = none) ∧
   (w < 4) ∧
   (tfind g.m.dc (4 * setOf l + w) = none) ∧
   ((∀ v < w, (tfind g.m.dc (4 * setOf l + v)).isSome = true))) ∧
  (let s : State := E { m := { fills := [{ line := LineA, side := .instr, prefetch := false, st := .landed 5 }] } }
   let e : Eng := 3
   let l : LineAddr := LineA
   let f : Fill := { line := LineA, side := .instr, prefetch := false, st := .landed 5 }
   let d : LineData := 5
   let g := engGet s e
   let w : Nat := 0
   (eclkOn s = true) ∧
   (f.st = .landed d) ∧
   (g.anchor = none) ∧
   (fillOf g .instr l = some f) ∧
   (w < 4) ∧
   (tfind g.m.ic (4 * setOf l + w) = none) ∧
   ((∀ v < w, (tfind g.m.ic (4 * setOf l + v)).isSome = true))) := by
  refine ⟨?_, ?_⟩
  all_goals first | decide +kernel | (repeat' (first | decide +kernel | rfl | refine And.intro ?_ ?_ | (intro h; exact absurd h (by decide +kernel)) | (intros; rfl) | (intro _ _; exact ⟨rfl, rfl⟩) | (simp; done)))

/-- The hypotheses of `TranslationAndFills`, Walk outcomes. -/
theorem witness_WalkOutcomes :
  (let s : State := MP (E { r := { pc := 0x2004000, priv := 1, sp := { xctl := 1, xctlEff := 1, xlt1 := 0x2000, xlt1Eff := 0x2000 } }, walk := some (.read, 0xFFFFFFFF, 1) })
   let e : Eng := 3
   let va : Word := 0xFFFFFFFF
   let priv : BitVec 2 := 1
   let n : Nat := 0
   let k : Nat := 0
   let g := engGet s e
   let table : PAddr := fld g.r.sp.xlt1Eff 2 30 ++ (fld va 21 11 ++ (0 : BitVec 3))
   (eclkOn s = true) ∧
   (g.walk = some (.read, va, priv)) ∧
   (g.r.sp.xctlEff = 1) ∧
   (priv ≠ 0) ∧
   (inWindow s table = false) ∧
   (decodePort s table = some n) ∧
   ((∀ y ∈ s.reads, y.who ≠ .walk e)) ∧
   ((mptGet s n).en = true) ∧
   (slotFor s (portTable n) e.val false = some true) ∧
   (freeId (mptGet s n) = some k) ∧
   ((mptGet s n).reqq.length ≤ 15)) ∧
  (let s : State := { E { r := { pc := 0x2004000, priv := 1, sp := { xctl := 1, xctlEff := 1, xlt1 := 0x2000, xlt1Eff := 0x2000 } }, walk := some (.read, 0xFFFFFFFF, 1) } with mpt := [(0, { en := false, winbase := 2, winlimit := 16 })] }
   let e : Eng := 3
   let va : Word := 0xFFFFFFFF
   let priv : BitVec 2 := 1
   let n : Nat := 0
   let g := engGet s e
   let table : PAddr := fld g.r.sp.xlt1Eff 2 30 ++ (fld va 21 11 ++ (0 : BitVec 3))
   (eclkOn s = true) ∧
   (g.walk = some (.read, va, priv)) ∧
   (g.r.sp.xctlEff = 1) ∧
   (priv ≠ 0) ∧
   (inWindow s table = false) ∧
   (decodePort s table = some n) ∧
   ((∀ y ∈ s.reads, y.who ≠ .walk e)) ∧
   ((mptGet s n).en = false)) ∧
  (let s : State := { MP (E { r := { pc := 0x2004000, priv := 1, sp := { xctl := 1, xctlEff := 1, xlt1 := 0x2000, xlt1Eff := 0x2000 } }, walk := some (.read, 0xFFFFFFFF, 1) }) with reads := [⟨.walk 3, 0, some (some (0x01200005#512 <<< 448)), false⟩] }
   let e : Eng := 3
   let va : Word := 0xFFFFFFFF
   let priv : BitVec 2 := 1
   let L : LineData := (0x01200005#512 <<< 448)
   let x : PortRead := ⟨.walk 3, 0, some (some (0x01200005#512 <<< 448)), false⟩
   let g := engGet s e
   let table : PAddr := fld g.r.sp.xlt1Eff 2 30 ++ (fld va 21 11 ++ (0 : BitVec 3))
   let d : BitVec 64 := BitVec.ofNat 64 (L.toNat / 2 ^ (8 * (table.toNat % 64)))
   (eclkOn s = true) ∧
   (g.walk = some (.read, va, priv)) ∧
   (g.r.sp.xctlEff = 1) ∧
   (priv ≠ 0) ∧
   (inWindow s table = false) ∧
   (readOf s (.walk e) 0 = some x) ∧
   (x.ans = some (some L)) ∧
   (fld d 0 2 = 1) ∧
   (d.getLsbD 2 = true) ∧
   (fld d 7 5 = 0) ∧
   (fld d 44 12 = 0) ∧
   (fld d 12 9 = 0)) ∧
  (let s : State := { MP (E { r := { pc := 0x2004000, priv := 1, sp := { xctl := 1, xctlEff := 1, xlt1 := 0x2000, xlt1Eff := 0x2000 } }, walk := some (.read, 0xFFFFFFFF, 1) }) with reads := [⟨.walk 3, 0, some (some (0x01200004#512 <<< 448)), false⟩] }
   let e : Eng := 3
   let va : Word := 0xFFFFFFFF
   let priv : BitVec 2 := 1
   let L : LineData := (0x01200004#512 <<< 448)
   let x : PortRead := ⟨.walk 3, 0, some (some (0x01200004#512 <<< 448)), false⟩
   let g := engGet s e
   let table : PAddr := fld g.r.sp.xlt1Eff 2 30 ++ (fld va 21 11 ++ (0 : BitVec 3))
   let d : BitVec 64 := BitVec.ofNat 64 (L.toNat / 2 ^ (8 * (table.toNat % 64)))
   (eclkOn s = true) ∧
   (g.walk = some (.read, va, priv)) ∧
   (g.r.sp.xctlEff = 1) ∧
   (priv ≠ 0) ∧
   (inWindow s table = false) ∧
   (readOf s (.walk e) 0 = some x) ∧
   (x.ans = some (some L)) ∧
   (fld d 0 2 = 0)) ∧
  (let s : State := { MP (E { r := { pc := 0x2004000, priv := 1, sp := { xctl := 1, xctlEff := 1, xlt1 := 0x2000, xlt1Eff := 0x2000 } }, walk := some (.read, 0xFFFFFFFF, 1) }) with reads := [⟨.walk 3, 0, some (none), false⟩] }
   let e : Eng := 3
   let va : Word := 0xFFFFFFFF
   let priv : BitVec 2 := 1
   let x : PortRead := ⟨.walk 3, 0, some (none), false⟩
   let g := engGet s e
   let table : PAddr := fld g.r.sp.xlt1Eff 2 30 ++ (fld va 21 11 ++ (0 : BitVec 3))
   (eclkOn s = true) ∧
   (g.walk = some (.read, va, priv)) ∧
   (g.r.sp.xctlEff = 1) ∧
   (priv ≠ 0) ∧
   (inWindow s table = false) ∧
   (readOf s (.walk e) 0 = some x) ∧
   (x.ans = some none)) := by
  refine ⟨?_, ?_, ?_, ?_, ?_⟩
  all_goals first | decide +kernel | (repeat' (first | decide +kernel | rfl | refine And.intro ?_ ?_ | (intro h; exact absurd h (by decide +kernel)) | (intros; rfl) | (intro _ _; exact ⟨rfl, rfl⟩) | (simp; done)))

/-- The hypotheses of `TranslationAndFills`, Tlb invalidation. -/
theorem witness_TlbInvalidation :
  (let s : State := E { m := { itlb := [TLB 0x2004000 true], tlb2 := [(1, [TLB 0x2004000 true])] } }
   let e : Eng := 3
   let g := engGet s e
   (eclkOn s = true) ∧
   (engExists s e.val = true) ∧
   (g.xgo = false) ∧
   (boundaryNow s g = true) ∧
   (g.wrong = none) ∧
   (g.ra = none) ∧
   (g.m.sb = [])) := by
  first | decide +kernel | (repeat' (first | decide +kernel | rfl | refine And.intro ?_ ?_ | (intro h; exact absurd h (by decide +kernel)) | (intros; rfl) | (intro _ _; exact ⟨rfl, rfl⟩) | (simp; done)))

/-- The hypotheses of `PendingFaultsAndEvents`, Pending faults taken. -/
theorem witness_PendingFaultsTaken :
  (let s : State := E { r := { pc := 0x2004000, priv := 0, mask := 12 }, gates := [(15, GT)], mcheck := [1, 2] }
   let e : Eng := 3
   let d : BitVec 8 := 1
   let l : List (BitVec 8) := [2]
   let g := engGet s e
   (g.wrong = none) ∧
   (g.ra = none) ∧
   (g.lr = false) ∧
   (boundaryNow s g = true) ∧
   (g.mcheck = d :: l) ∧
   (g.other = none)) ∧
  (let s : State := E { r := { pc := 0x2004000, priv := 0, mask := 12 }, gates := [(1, GT)] }
   let e : Eng := 3
   let w : Word := 0xFFFFFFFF
   let c : BitVec 8 := ((wordCode w (sb1Mode s e) (s.wvl.auxsel.getLsbD e.val) false).getD 0)
   let g := engGet s e
   (g.wrong = none) ∧
   (g.ra = none) ∧
   (g.lr = false) ∧
   (canRun s g = true) ∧
   (atBoundary g.r = true) ∧
   (wordHeld s e = true) ∧
   (wordCode w (sb1Mode s e) (s.wvl.auxsel.getLsbD e.val) (g.r.sp.ctlEff.getLsbD 3) = some c)) := by
  refine ⟨?_, ?_⟩
  all_goals first | decide +kernel | (repeat' (first | decide +kernel | rfl | refine And.intro ?_ ?_ | (intro h; exact absurd h (by decide +kernel)) | (intros; rfl) | (intro _ _; exact ⟨rfl, rfl⟩) | (simp; done)))

/-- The hypotheses of `PendingFaultsAndEvents`, Late bus errors. -/
theorem witness_LateBusErrors :
  (let s : State := E { berrs := [(LineA, false)], lbeOpen := true }
   let e : Eng := 3
   let l : LineAddr := LineA
   let rest : List (LineAddr × Bool) := []
   let g := engGet s e
   (eclkOn s = true) ∧
   (g.berrs = (l, false) :: rest) ∧
   (g.lbeOpen = true) ∧
   (g.lbe = none)) ∧
  (let s : State := E { berrs := [(LineA, false)] }
   let e : Eng := 3
   let l : LineAddr := LineA
   let rest : List (LineAddr × Bool) := []
   let g := engGet s e
   (eclkOn s = true) ∧
   (g.berrs = (l, false) :: rest) ∧
   (g.lbeOpen = false)) ∧
  (let s : State := E { berrs := [(LineA, false)], lbeOpen := true, lbe := some (5, false) }
   let e : Eng := 3
   let l : LineAddr := LineA
   let rest : List (LineAddr × Bool) := []
   let g := engGet s e
   let l0 := 5
   let m := false
   (eclkOn s = true) ∧
   (g.berrs = (l, false) :: rest) ∧
   (g.lbeOpen = true) ∧
   (g.lbe = some (l0, m))) ∧
  (let s : State := E { berrs := [(LineA, true), (5, false)], mcheck := [1] }
   let e : Eng := 3
   let l : LineAddr := LineA
   let rest : List (LineAddr × Bool) := [(5, false)]
   let g := engGet s e
   (eclkOn s = true) ∧
   (g.berrs = (l, true) :: rest)) := by
  refine ⟨?_, ?_, ?_, ?_⟩
  all_goals first | decide +kernel | (repeat' (first | decide +kernel | rfl | refine And.intro ?_ ?_ | (intro h; exact absurd h (by decide +kernel)) | (intros; rfl) | (intro _ _; exact ⟨rfl, rfl⟩) | (simp; done)))

/-- The hypotheses of `PendingFaultsAndEvents`, Last resort entry. -/
theorem witness_LastResortEntry :
  (let s : State := { E { r := { pc := 0x2004000, priv := 0, mask := 12, sp := { lrvec := 0x9000 } }, other := some CX, lrPend := some { reason := 3, gate := 4, num := 4, fcause := 0x820044, faddr := 0x77, longpc := 0, lbeaddr := 0, source := 0, resume := 0x1000, syll := true, dx := 1 } } with wvl := { W0.wvl with lrbase := 0x10000 } }
   let e : Eng := 3
   let q : LrReq := { reason := 3, gate := 4, num := 4, fcause := 0x820044, faddr := 0x77, longpc := 0, lbeaddr := 0, source := 0, resume := 0x1000, syll := true, dx := 1 }
   let g := engGet s e
   let ws := wordsOf (s.wvl.lrbase.toNat + e.val * 4096) 384
   (eclkOn s = true) ∧
   (g.lrPend = some q) ∧
   (g.m.sb = []) ∧
   (g.spill = none) ∧
   ((wordsServe s e.val ws).2 = true) ∧
   (g.prods = []) ∧
   (g.refill = none) ∧
   (s.spc.bad = []) ∧
   ((∀ y ∈ s.cyc.wrote, y.word ∈ ws → y.mst = e.val))) ∧
  (let s : State := SL 3 { E { r := { pc := 0x2004000, priv := 0, mask := 12, sp := { lrvec := 0x9000 } }, other := some CX, lrPend := some { reason := 3, gate := 4, num := 4, fcause := 0x820044, faddr := 0x77, longpc := 0, lbeaddr := 0, source := 0, resume := 0x1000, syll := true, dx := 1 } } with wvl := { W0.wvl with lrbase := 0x10000 } }
   let e : Eng := 3
   let q : LrReq := { reason := 3, gate := 4, num := 4, fcause := 0x820044, faddr := 0x77, longpc := 0, lbeaddr := 0, source := 0, resume := 0x1000, syll := true, dx := 1 }
   let g := engGet s e
   let ws := wordsOf (s.wvl.lrbase.toNat + e.val * 4096) 384
   let x := (wordsServe s e.val (wordsOf (s.wvl.lrbase.toNat + e.val * 4096) 384)).1
   (eclkOn s = true) ∧
   (g.lrPend = some q) ∧
   (g.m.sb = []) ∧
   (g.spill = none) ∧
   (wordsServe s e.val ws = (x, false))) := by
  refine ⟨?_, ?_⟩
  all_goals first | decide +kernel | (repeat' (first | decide +kernel | rfl | refine And.intro ?_ ?_ | (intro h; exact absurd h (by decide +kernel)) | (intros; rfl) | (intro _ _; exact ⟨rfl, rfl⟩) | (simp; done)))

/-- The hypotheses of `PendingFaultsAndEvents`, Event entry. -/
theorem witness_EventEntry :
  (let s : State := E { r := { pc := 0x2004000, priv := 0, mask := 12, lnk := 4, ds := [.val 2], l := [(2,2)] }, gates := [(515, GT)], held := some ⟨3, 13⟩ }
   let e : Eng := 3
   let h : Held := ⟨3, 13⟩
   let d : Gate := GT
   let g := engGet s e
   (claimNow s g = true) ∧
   (g.held = some h) ∧
   (g.wrong = none) ∧
   (g.ra = none) ∧
   (g.lr = false) ∧
   (g.other = none) ∧
   (g.refill = none) ∧
   (g.prods = []) ∧
   (tfind g.gates (512 + h.src.toNat) = some d)) := by
  first | decide +kernel | (repeat' (first | decide +kernel | rfl | refine And.intro ?_ ?_ | (intro h; exact absurd h (by decide +kernel)) | (intros; rfl) | (intro _ _; exact ⟨rfl, rfl⟩) | (simp; done)))

/-- The hypotheses of `InstructionWords`. -/
theorem witness_InstructionWords :
  (let sb1 : Bool := false
   let aux : Bool := true
   let ven : Bool := false
   let w : Word := 0x75000001
   let c := 7
   (wordCode w sb1 aux ven = some c) ∧
   (w.getLsbD 31 = false)) ∧
  (let sb1 : Bool := false
   let aux : Bool := true
   let ven : Bool := false
   let w : Word := 0x81001000
   (wordCode w sb1 aux ven = none)) ∧
  (let w : Word := 0xE0008000
   (w.getLsbD 31 = true) ∧
   (w.getLsbD 15 = true ∨ shortXfer (fld w 24 7).toNat = true)) := by
  refine ⟨?_, ?_, ?_⟩
  all_goals first | decide +kernel | (repeat' (first | decide +kernel | rfl | refine And.intro ?_ ?_ | (intro h; exact absurd h (by decide +kernel)) | (intros; rfl) | (intro _ _; exact ⟨rfl, rfl⟩) | (simp; done)))

/-- The hypotheses of `FramesSpillAndRefill`. -/
theorem witness_FramesSpillAndRefill :
  (let s : State := E { spill := some ⟨CX, 0x3000, 0, 15⟩ }
   let e : Eng := 3
   let c : Ctx := CX
   let pa : PAddr := 0x3000
   let n : Nat := 15
   let g := engGet s e
   let o := winOff s pa
   (eclkOn s = true) ∧
   (s.spc.bad = []) ∧
   ((∀ y ∈ s.cyc.wrote, y.mst = e.val)) ∧
   (inWindow s pa = true) ∧
   (pa.toNat % 128 = 0) ∧
   (s.wvl.spwin.toNat % 0x1000000 = 0) ∧
   (n < 16) ∧
   (g.spill = some ⟨c, pa, 0, n⟩) ∧
   ((wordServe s e.val ((o + 8 * n) / 8)).isSome = true)) ∧
  (let s : State := { E { refill := some 2, ssp := [(2, 0x3000)] } with spc := { mem := mwrite spadDefault [] 0x3000 ((frameBytes CX).map some) } }
   let e : Eng := 3
   let c : Ctx := { CX with net := none }
   let pa : PAddr := 0x3000
   let k : BitVec 2 := 2
   let t : State := (wordsServe s e.val (wordsOf 0x3000 64)).1
   let u : State := (wordsServe t e.val (wordsOf 0x3040 64)).1
   let g := engGet s e
   let o := winOff s pa
   (eclkOn s = true) ∧
   (s.spc.bad = []) ∧
   ((∀ y ∈ s.cyc.wrote, y.mst = e.val)) ∧
   (inWindow s pa = true) ∧
   (pa.toNat % 128 = 0) ∧
   (s.wvl.spwin.toNat % 0x1000000 = 0) ∧
   (g.refill = some k) ∧
   (g.spill = none) ∧
   (g.st = .running) ∧
   (g.m.sb = []) ∧
   (tget 0 g.ssp k.toNat = pa) ∧
   (s.spc.soft = []) ∧
   (s.spc.paths = []) ∧
   (s.cyc.ecc = []) ∧
   (wordsServe s e.val (wordsOf o 64) = (t, true)) ∧
   (wordsServe t e.val (wordsOf (o + 64) 64) = (u, true)) ∧
   (frameCtx (wordsOfBytes (mread spadDefault s.spc.mem o 128)) (engineBits s e) = some c)) := by
  refine ⟨?_, ?_⟩
  all_goals first | decide +kernel | (repeat' (first | decide +kernel | rfl | refine And.intro ?_ ?_ | (intro h; exact absurd h (by decide +kernel)) | (intros; rfl) | (intro _ _; exact ⟨rfl, rfl⟩) | (simp; done)))

/-- The hypotheses of `FrameReadsBack`. -/
theorem witness_FrameReadsBack :
  (let c : Ctx := CX
   (c.priv ≠ 3) ∧
   (c.dsp.toNat % 32 = 0) ∧
   (c.rsp.toNat % 16 = 0) ∧
   (c.prevsel.toNat < 4 ∨ c.prevsel = 7) ∧
   (c.ccnt ≤ 32) ∧
   (c.rcnt ≤ 16) ∧
   (c.hw &&& ~~~ 0xF04#32 = 0)) := by
  first | decide +kernel | (repeat' (first | decide +kernel | rfl | refine And.intro ?_ ?_ | (intro h; exact absurd h (by decide +kernel)) | (intros; rfl) | (intro _ _; exact ⟨rfl, rfl⟩) | (simp; done)))

/-- The hypotheses of `EventOccurrences`, Occurrences count. -/
theorem witness_OccurrencesCount :
  (let s : State := V { latched := false, src := [(384, { en := true, count := 0xFFFE, carry := 1 })] }
   let id : BitVec 9 := 384
   (fclkOn s = true) ∧
   (257 ≤ id.toNat) ∧
   (id.toNat ≤ 384) ∧
   (id.toNat ≠ 361) ∧
   ((srcGet s id.toNat).carry ≠ 0) ∧
   ((srcGet s id.toNat).en = true) ∧
   ((srcGet s id.toNat).ccount = 0) ∧
   ((srcGet s id.toNat).count ≠ 0xFFFF#16)) ∧
  (let s : State := V { latched := false, src := [(256, { sense := 2, en := true, count := 3 })] }
   let wire : BitVec 8 := 255
   let rising : Bool := true
   let n := wire.toNat + 1
   let x := srcGet s n
   (fclkOn s = true) ∧
   (s.evg.input.getLsbD wire.toNat ≠ rising) ∧
   (s.evg.latched = false) ∧
   (x.sense = 4 ∨ (x.sense = 2 ∧ rising = true) ∨ (x.sense = 3 ∧ rising = false)) ∧
   (x.en = true) ∧
   (x.ccount = 0) ∧
   (x.count ≠ 0xFFFF#16)) ∧
  (let s : State := V { latched := false, src := [(1, { sense := 4, en := false, count := 3 })] }
   let wire : BitVec 8 := 0
   let rising : Bool := true
   let n := wire.toNat + 1
   let x := srcGet s n
   (fclkOn s = true) ∧
   (s.evg.input.getLsbD wire.toNat ≠ rising) ∧
   (s.evg.latched = false) ∧
   (x.sense = 4 ∨ (x.sense = 2 ∧ rising = true) ∨ (x.sense = 3 ∧ rising = false)) ∧
   (x.en = false)) := by
  refine ⟨?_, ?_, ?_⟩
  all_goals first | decide +kernel | (repeat' (first | decide +kernel | rfl | refine And.intro ?_ ?_ | (intro h; exact absurd h (by decide +kernel)) | (intros; rfl) | (intro _ _; exact ⟨rfl, rfl⟩) | (simp; done)))

/-- The hypotheses of `EventOccurrences`, Batches release. -/
theorem witness_BatchesRelease :
  (let s : State := V { latched := false, src := [(384, { en := true, ccount := 5, acc := 3, timer := 9, ctime := 9 })] }
   let id : BitVec 9 := 384
   let n := id.toNat
   let x := srcGet s n
   (fclkOn s = true) ∧
   (257 ≤ id.toNat) ∧
   (id.toNat ≤ 384) ∧
   (x.count ≠ 0xFFFF#16) ∧
   (x.en = true) ∧
   (x.acc ≠ 0) ∧
   (x.acc.toNat + 1 < x.ccount.toNat) ∧
   (n ∉ s.cyc.batches) ∧
   (x.ctime ≠ 0) ∧
   (x.ctime.toNat ≤ x.timer.toNat)) ∧
  (let s : State := V { latched := false, src := [(257, { en := true, ccount := 5, acc := 4, timer := 2, ctime := 9 })] }
   let id : BitVec 9 := 257
   let n := id.toNat
   let x := srcGet s n
   (fclkOn s = true) ∧
   (257 ≤ id.toNat) ∧
   (id.toNat ≤ 384) ∧
   (x.count ≠ 0xFFFF#16) ∧
   (x.en = true) ∧
   (x.ccount ≠ 0) ∧
   (x.ccount.toNat = x.acc.toNat + 1) ∧
   ((x.ccount = 1 ∨ n ∉ s.cyc.batches))) ∧
  (let s : State := { V { latched := false, src := [(257, { en := true, ccount := 5, acc := 4, timer := 2, ctime := 9 })] } with cyc := { batches := [257] } }
   let id : BitVec 9 := 257
   let n := id.toNat
   let x := srcGet s n
   (fclkOn s = true) ∧
   (257 ≤ id.toNat) ∧
   (id.toNat ≤ 384) ∧
   (x.count ≠ 0xFFFF#16) ∧
   (x.en = true) ∧
   (x.ccount ≠ 0) ∧
   (x.ccount ≠ 1) ∧
   (n ∈ s.cyc.batches)) := by
  refine ⟨?_, ?_, ?_⟩
  all_goals first | decide +kernel | (repeat' (first | decide +kernel | rfl | refine And.intro ?_ ?_ | (intro h; exact absurd h (by decide +kernel)) | (intros; rfl) | (intro _ _; exact ⟨rfl, rfl⟩) | (simp; done)))

/-- The hypotheses of `EventOccurrences`, Sources are raised. -/
theorem witness_SourcesAreRaised :
  (let s : State := V { latched := false, src := [(384, { carry := 0xFFFE })] }
   let n : Nat := 384
   let m : Nat := 383
   let x := srcGet s n
   (x.carry ≠ 0xFFFF#16) ∧
   (m ≠ n)) ∧
  (let s : State := V { latched := false, src := [(384, { carry := 0xFFFF })] }
   let n : Nat := 384
   let x := srcGet s n
   (x.carry = 0xFFFF#16)) := by
  refine ⟨?_, ?_⟩
  all_goals first | decide +kernel | (repeat' (first | decide +kernel | rfl | refine And.intro ?_ ?_ | (intro h; exact absurd h (by decide +kernel)) | (intros; rfl) | (intro _ _; exact ⟨rfl, rfl⟩) | (simp; done)))

/-- The hypotheses of `EventConfiguration`, Level sources and latches. -/
theorem witness_LevelSourcesAndLatches :
  (let s : State := V { latched := false, src := [(256, { sense := 0, en := true, insvc := true, count := 7 })], input := 1 }
   let wire : BitVec 8 := 255
   let n := wire.toNat + 1
   let x := srcGet s n
   (fclkOn s = true) ∧
   (x.sense = 0) ∧
   ((∀ e : Eng, (evgEng s e.val).pres = none))) ∧
  (let s : State := V { src := [(1, { sense := 4, en := false, count := 3, acc := 2 })] }
   (fclkOn s = true) ∧
   (s.evg.latched = true)) := by
  refine ⟨?_, ?_⟩
  all_goals first | decide +kernel | (repeat' (first | decide +kernel | rfl | refine And.intro ?_ ?_ | (intro h; exact absurd h (by decide +kernel)) | (intros; rfl) | (intro _ _; exact ⟨rfl, rfl⟩) | (simp; done)))

/-- The hypotheses of `EventConfiguration`, Source configuration. -/
theorem witness_SourceConfiguration :
  (let s : State := { W0 with wvl := { W0.wvl with enable := 0xFF }, evg := { latched := false, src := [(384, { en := true, count := 1, sense := 0, target := 0x500000000 })] } }
   let id : BitVec 9 := 384
   let v : Word := 0xFFFFFFF8
   (fclkOn s = true) ∧
   (257 ≤ id.toNat) ∧
   (id.toNat ≤ 384) ∧
   ((∀ e : Eng, (evgEng s e.val).pres = none)) ∧
   (v.getLsbD 0 = false) ∧
   (v.getLsbD 1 = false) ∧
   (v.getLsbD 2 = false) ∧
   (v &&& ~~~(s.wvl.enable.setWidth 32) ≠ 0)) ∧
  (let s : State := { W0 with wvl := { W0.wvl with enable := 0xFF }, evg := { latched := false, src := [(384, { en := true, count := 1, sense := 0, target := 0x500000000 })] } }
   let id : BitVec 9 := 384
   let v : Word := 1
   (fclkOn s = true) ∧
   (257 ≤ id.toNat) ∧
   (id.toNat ≤ 384) ∧
   ((∀ e : Eng, (evgEng s e.val).pres = none)) ∧
   (v.getLsbD 0 = true) ∧
   (v &&& ~~~(s.wvl.enable.setWidth 32) = 0)) := by
  refine ⟨?_, ?_⟩
  all_goals first | decide +kernel | (repeat' (first | decide +kernel | rfl | refine And.intro ?_ ?_ | (intro h; exact absurd h (by decide +kernel)) | (intros; rfl) | (intro _ _; exact ⟨rfl, rfl⟩) | (simp; done)))

/-- The hypotheses of `EventConfiguration`, Event outputs. -/
theorem witness_EventOutputs :
  (let s : State := V { evout := 5 }
   (fclkOn s = true) ∧
   (s.cyc.evBase = none) ∧
   (s.cyc.evSet = 0) ∧
   (s.cyc.evClr = 0)) := by
  first | decide +kernel | (repeat' (first | decide +kernel | rfl | refine And.intro ?_ ?_ | (intro h; exact absurd h (by decide +kernel)) | (intros; rfl) | (intro _ _; exact ⟨rfl, rfl⟩) | (simp; done)))

/-- The hypotheses of `EventPresentation`, Present and withdraw. -/
theorem witness_PresentAndWithdraw :
  (let s : State := { W0 with evg := { latched := false, src := [(300, { en := true, count := 2, prio := 13, target := 8 })], eng := [(3, { shadow := 12 })] }, eng := [(3, { st := .sleeping, r := { mask := 12 } })] }
   let e : Eng := 3
   let n : Nat := 300
   let q : BitVec 4 := 13
   let x := evgEng s e.val
   let g := engGet s e
   (fclkOn s = true) ∧
   (n < 512) ∧
   (best s e = some (n, q)) ∧
   (x.pres = none) ∧
   (g.held = none) ∧
   (offered s n = some e)) ∧
  (let s : State := { W0 with evg := { latched := false, src := [(300, { en := false, count := 2, prio := 13, target := 8 })], eng := [(3, { shadow := 12, pres := some (300, 13), resv := [300] })] }, eng := [(3, { st := .running, held := some ⟨300, 13⟩, r := { mask := 12 } })] }
   let e : Eng := 3
   let n : Nat := 300
   let q : BitVec 4 := 13
   let id := BitVec.ofNat 9 n
   let x := evgEng s e.val
   let g := engGet s e
   (fclkOn s = true) ∧
   (n < 512) ∧
   (x.pres = some (id, q)) ∧
   (g.held = some ⟨id, q⟩) ∧
   (staysPresented s e = false)) := by
  refine ⟨?_, ?_⟩
  all_goals first | decide +kernel | (repeat' (first | decide +kernel | rfl | refine And.intro ?_ ?_ | (intro h; exact absurd h (by decide +kernel)) | (intros; rfl) | (intro _ _; exact ⟨rfl, rfl⟩) | (simp; done)))

/-- The hypotheses of `EventPresentation`, Reports settle. -/
theorem witness_ReportsSettle :
  (let s : State := { W0 with evg := { latched := false, src := [(300, { en := true, count := 2, prio := 13, target := 8 })], eng := [(3, { shadow := 12, resv := [300] })] }, eng := [(3, { repq := [.consumed 300 14] })] }
   let e : Eng := 3
   let id : BitVec 9 := 300
   let m : BitVec 4 := 14
   let l : List Report := []
   let x := evgEng s e.val
   let y := srcGet s id.toNat
   let g := engGet s e
   (fclkOn s = true) ∧
   (x.pres = none) ∧
   (g.repq = .consumed id m :: l) ∧
   (257 ≤ id.toNat) ∧
   (y.count ≠ 0)) ∧
  (let s : State := { W0 with evg := { latched := false, src := [(300, { en := true, count := 2, prio := 13, target := 8 })], eng := [(3, { shadow := 12, resv := [300] })] }, eng := [(3, { repq := [.released 300] })] }
   let e : Eng := 3
   let id : BitVec 9 := 300
   let l : List Report := []
   let x := evgEng s e.val
   let g := engGet s e
   (fclkOn s = true) ∧
   (x.pres = none) ∧
   (g.repq = .released id :: l)) ∧
  (let s : State := { W0 with evg := { latched := false, src := [(300, { en := true, count := 2, prio := 13, target := 8 })], eng := [(3, { shadow := 12, resv := [300] })] }, eng := [(3, { repq := [.mask 14] })] }
   let e : Eng := 3
   let m : BitVec 4 := 14
   let l : List Report := []
   let x := evgEng s e.val
   let g := engGet s e
   (fclkOn s = true) ∧
   (x.pres = none) ∧
   (g.repq = .mask m :: l)) := by
  refine ⟨?_, ?_, ?_⟩
  all_goals first | decide +kernel | (repeat' (first | decide +kernel | rfl | refine And.intro ?_ ?_ | (intro h; exact absurd h (by decide +kernel)) | (intros; rfl) | (intro _ _; exact ⟨rfl, rfl⟩) | (simp; done)))

/-- The hypotheses of `TimersAndMailboxes`, Timers and watchdogs. -/
theorem witness_TimersAndWatchdogs :
  (let s : State := { E {} with tmr := { t := [(3, { period := 5 })], gtime := 0x1234567890 } }
   let e : Eng := 3
   let t := tmrGet s e.val
   (fclkOn s = true) ∧
   (t.period ≠ 0) ∧
   (t.count = 0)) ∧
  (let s : State := { E {} with tmr := { t := [(3, { wdperiod := 5 })], gtime := 0x1234567890 } }
   let e : Eng := 3
   let t := tmrGet s e.val
   let g := engGet s e
   (fclkOn s = true) ∧
   (t.wdperiod ≠ 0) ∧
   (t.wdcount = 0) ∧
   (t.wdsecond = false) ∧
   (g.st = .running)) ∧
  (let s : State := { E {} with tmr := { t := [(3, { wdperiod := 5, wdsecond := true })], gtime := 0x1234567890 } }
   let e : Eng := 3
   let t := tmrGet s e.val
   (fclkOn s = true) ∧
   (t.wdperiod ≠ 0) ∧
   (t.wdcount = 0) ∧
   (t.wdsecond = true)) := by
  refine ⟨?_, ?_, ?_⟩
  all_goals first | decide +kernel | (repeat' (first | decide +kernel | rfl | refine And.intro ?_ ?_ | (intro h; exact absurd h (by decide +kernel)) | (intros; rfl) | (intro _ _; exact ⟨rfl, rfl⟩) | (simp; done)))

/-- The hypotheses of `TimersAndMailboxes`, Time comparators mailboxes. -/
theorem witness_TimeComparatorsMailboxes :
  (let s : State := { E {} with tmr := { t := [(3, {})], due := 15, gtime := 0x123456789A } }
   let k : Fin 4 := 3
   (fclkOn s = true) ∧
   (s.tmr.due.getLsbD k.val = true)) := by
  first | decide +kernel | (repeat' (first | decide +kernel | rfl | refine And.intro ?_ ?_ | (intro h; exact absurd h (by decide +kernel)) | (intros; rfl) | (intro _ _; exact ⟨rfl, rfl⟩) | (simp; done)))

/-- The hypotheses of `WeaveLoader`, Weave load outcomes. -/
theorem witness_WeaveLoadOutcomes :
  (let s : State := { power := true, wvl := {  }, cpx := { step := 3, straps := ⟨0,0,0,0,true,false⟩ } }
   (clkOn s .mgclk = true) ∧
   (fclkOn s = true) ∧
   (s.wvl.state = 0) ∧
   (s.cpx.step = 3) ∧
   (s.cpx.testhold = false) ∧
   (s.cpx.bistfail = false) ∧
   (s.cpx.straps.safe = true)) ∧
  (let s : State := { power := true, wvl := { src := 2 }, cpx := { step := 3 } }
   (clkOn s .mgclk = true) ∧
   (fclkOn s = true) ∧
   (s.wvl.state = 0) ∧
   (s.cpx.step = 3) ∧
   (s.cpx.testhold = false) ∧
   (s.cpx.bistfail = false) ∧
   (s.cpx.straps.safe = false) ∧
   (s.wvl.src.getLsbD 1 = true)) ∧
  (let s : State := { power := true, wvl := { src := 1 }, cpx := { step := 3 } }
   (clkOn s .mgclk = true) ∧
   (fclkOn s = true) ∧
   (s.wvl.state = 0) ∧
   (s.cpx.step = 3) ∧
   (s.cpx.testhold = false) ∧
   (s.cpx.bistfail = false) ∧
   (s.cpx.straps.safe = false) ∧
   (s.wvl.src.getLsbD 1 = false) ∧
   (s.nvc.nvm = []) ∧
   (s.nvc.bad = [])) := by
  refine ⟨?_, ?_, ?_⟩
  all_goals first | decide +kernel | (repeat' (first | decide +kernel | rfl | refine And.intro ?_ ?_ | (intro h; exact absurd h (by decide +kernel)) | (intros; rfl) | (intro _ _; exact ⟨rfl, rfl⟩) | (simp; done)))

/-- The hypotheses of `WeaveLoader`, Weave loader commands. -/
theorem witness_WeaveLoaderCommands :
  (let s : State := { power := true, wvl := { state := 1, srcused := 2, timeout := 1, words := [5] }, cpx := { step := 7 }, tmr := { gtime := 1001 } }
   let v : Word := 0x56414557
   let w := s.wvl
   let u := { s with wvl := { w with words := v :: w.words, wordAt := s.tmr.gtime } }
   (fclkOn s = true) ∧
   (w.state ≠ 4) ∧
   (w.state ≠ 5) ∧
   (w.state = 1) ∧
   (w.srcused.getLsbD 1 = true) ∧
   ((wordReader u).structure_ = .more) ∧
   (w.timeout ≠ 0) ∧
   (w.timeout.toNat * 1000 < s.tmr.gtime.toNat - w.wordAt.toNat)) ∧
  (let s : State := { power := true, wvl := { state := 4 }, cpx := { step := 7 } }
   let w := s.wvl
   (fclkOn s = true) ∧
   (w.state = 4 ∨ w.state = 5) ∧
   (s.cpx.bistfail = false) ∧
   (w.state ≠ 1)) := by
  refine ⟨?_, ?_⟩
  all_goals first | decide +kernel | (repeat' (first | decide +kernel | rfl | refine And.intro ?_ ?_ | (intro h; exact absurd h (by decide +kernel)) | (intros; rfl) | (intro _ _; exact ⟨rfl, rfl⟩) | (simp; done)))

/-- The hypotheses of `WeaveCommits`, Commit groups. -/
theorem witness_CommitGroups :
  (let s : State := { power := true, wvl := { slot := 0 }, cpx := { step := 7, commitq := [(0x701, false)] } }
   let v : Word := 0xFF
   let c := s.cpx
   (fclkOn s = true) ∧
   (freshBits s 0x40 = 0) ∧
   (v = 0x0FF#32) ∧
   (s.wvl.slot = 0) ∧
   (c.commitq = [(0x701#12, false)]) ∧
   (s.wvl.routesStg.all (fun p => !routeBad (p.2.setWidth 32)) = true)) ∧
  (let s : State := { power := true, wvl := { slot := 252 }, cpx := { step := 7 } }
   let v : Word := 0x700
   let c := s.cpx
   (fclkOn s = true) ∧
   (freshBits s 0x40 = 0) ∧
   (v = 0x700#32) ∧
   ((∀ p ∈ c.commitq, p.1 ≠ 0x700#12)) ∧
   (c.commitq.length ≤ 7)) ∧
  (let s : State := { power := true, wvl := { slot := 0, routesStg := [(3, 4)] }, cpx := { step := 7, commitq := [(0x701, false)] } }
   let c := s.cpx
   (fclkOn s = true) ∧
   (freshBits s 0x40 = 0) ∧
   (s.wvl.slot = 0) ∧
   (c.commitq = [(0x701#12, false)]) ∧
   (s.wvl.routesStg.all (fun p => !routeBad (p.2.setWidth 32)) = false)) ∧
  (let s : State := { power := true, wvl := { slot := 0, poolsize := 0x400 }, cpx := { step := 7, commitq := [(0x5FF, false)] }, che := { quotaStg := [(1023, 0x40002)], quota := [(5, 0x20002),(1023, 0x40004)] } }
   let c := s.cpx
   let k : Fin 1024 := 1023
   let q := tget 0 s.che.quotaStg k.val
   let others := ((s.che.quota.filter fun p => p.1 != k.val).map fun p => p.2.toNat % 65536).sum
   (fclkOn s = true) ∧
   (freshBits s 0x40 = 0) ∧
   (s.wvl.slot = 0) ∧
   (c.commitq = [(BitVec.ofNat 12 (0x200 + k.val), false)]) ∧
   (q.toNat % 65536 ≤ q.toNat / 65536) ∧
   (q.toNat / 65536 ≤ s.wvl.poolsize.toNat / 256) ∧
   (others + q.toNat % 65536 ≤ s.wvl.poolsize.toNat / 256)) := by
  refine ⟨?_, ?_, ?_, ?_⟩
  all_goals first | decide +kernel | (repeat' (first | decide +kernel | rfl | refine And.intro ?_ ?_ | (intro h; exact absurd h (by decide +kernel)) | (intros; rfl) | (intro _ _; exact ⟨rfl, rfl⟩) | (simp; done)))

/-- The hypotheses of `WeaveCommits`, Fallback plans. -/
theorem witness_FallbackPlans :
  (let s : State := { W0 with wvl := { planRead := some 0, plans := [{ retired := [0xFF,0xFF,0xFF,0xFF], widths := 1, slots := [0x42480005], txmask := 0, frames := [], subst := [0xFF,0xFF,0xFF,0xFF], off := 0x100, len := 64 }] } }
   let i : Nat := 0
   let x : Plan := { retired := [0xFF,0xFF,0xFF,0xFF], widths := 1, slots := [0x42480005], txmask := 0, frames := [], subst := [0xFF,0xFF,0xFF,0xFF], off := 0x100, len := 64 }
   (s.wvl.planRead = some i) ∧
   (s.wvl.plans[i]? = some x) ∧
   (clkOn s .mgclk = true) ∧
   (s.hlt.noplans = false) ∧
   ((∀ w ∈ s.nvc.bad, 8 * w + 8 ≤ 0x60000 * s.wvl.srcused.toNat + x.off ∨
             0x60000 * s.wvl.srcused.toNat + x.off + x.len ≤ 8 * w))) ∧
  (let s : State := { W0 with wvl := { planRead := some 0, plans := [{ retired := [0xFF,0xFF,0xFF,0xFF], widths := 1, slots := [0x42480005], txmask := 0, frames := [], subst := [0xFF,0xFF,0xFF,0xFF], off := 0x100, len := 64 }] }, nvc := { bad := [0x20] } }
   let i : Nat := 0
   let x : Plan := { retired := [0xFF,0xFF,0xFF,0xFF], widths := 1, slots := [0x42480005], txmask := 0, frames := [], subst := [0xFF,0xFF,0xFF,0xFF], off := 0x100, len := 64 }
   (s.wvl.planRead = some i) ∧
   (s.wvl.plans[i]? = some x) ∧
   (clkOn s .mgclk = true) ∧
   ((∃ w ∈ s.nvc.bad, 0x60000 * s.wvl.srcused.toNat + x.off < 8 * w + 8 ∧
             8 * w < 0x60000 * s.wvl.srcused.toNat + x.off + x.len))) ∧
  (let s : State := { W0 with wvl := { planReady := some 0, plans := [{ retired := [0xFF,0xFF,0xFF,0xFF], widths := 1, slots := [0x42480005], txmask := 0, frames := [], subst := [0xFF,0xFF,0xFF,0xFF], off := 0x100, len := 64 }] } }
   let i : Nat := 0
   let x : Plan := { retired := [0xFF,0xFF,0xFF,0xFF], widths := 1, slots := [0x42480005], txmask := 0, frames := [], subst := [0xFF,0xFF,0xFF,0xFF], off := 0x100, len := 64 }
   (s.wvl.planReady = some i) ∧
   (s.wvl.plans[i]? = some x) ∧
   (fclkOn s = true) ∧
   (s.wvl.slot = 0) ∧
   (s.cpx.commitq = [])) := by
  refine ⟨?_, ?_, ?_⟩
  all_goals first | decide +kernel | (repeat' (first | decide +kernel | rfl | refine And.intro ?_ ?_ | (intro h; exact absurd h (by decide +kernel)) | (intros; rfl) | (intro _ _; exact ⟨rfl, rfl⟩) | (simp; done)))

/-- The hypotheses of `Scratchpad`, Scratchpad slot. -/
theorem witness_ScratchpadSlot :
  (let s : State := { W0 with wvl := { W0.wvl with warp := [(31232, 0x4203)] }, spc := { mem := [(0x3E8, 5)], reg := [(16*66, { limit := 0x1000, r := true, w := true, v := true })] } }
   let bank : Fin 64 := 61
   let q : SpReq := { mst := 66, word := 125, write := false, mask := 0xFF, data := 0x1122334455667788, chan := 0, lot := 0, ecc := .good }
   let w := q.word.toNat
   let m := q.mst.toNat
   let slot := slotAt s.wvl.warp (2 * bank.val) s.wvl.slot.toNat
   (fclkOn s = true) ∧
   (w % 64 = bank.val) ∧
   (m ≤ 73) ∧
   (slotOwner slot = m ∨ slotLend slot = m) ∧
   (w ∉ s.spc.bad) ∧
   ((m < 64 → engExists s m = true)) ∧
   (s.spc.reqs = []) ∧
   ((∀ u ∈ s.cyc.used, u.tbl / 2 ≠ bank.val)) ∧
   ((∀ x ∈ s.cyc.wrote, x.word ≠ w)) ∧
   ((bank.val, m) ∉ s.spc.paths) ∧
   (q.write = false) ∧
   (q.ecc = .good) ∧
   ((64 ≤ m → firstRefused s m (presOf s m q.chan.val) false (reqSpan q) = none))) ∧
  (let s : State := { W0 with wvl := { W0.wvl with warp := [(31232, 0xFF03)] }, spc := { mem := [(0x3EC, 5)] } }
   let bank : Fin 64 := 61
   let q : SpReq := { mst := 3, word := 125, write := true, mask := 0x0F, data := 0x1122334455667788, chan := 0, lot := 0, ecc := .good }
   let w := q.word.toNat
   let m := q.mst.toNat
   let slot := slotAt s.wvl.warp (2 * bank.val) s.wvl.slot.toNat
   (fclkOn s = true) ∧
   (w % 64 = bank.val) ∧
   (m ≤ 73) ∧
   (slotOwner slot = m ∨ slotLend slot = m) ∧
   (w ∉ s.spc.bad) ∧
   ((m < 64 → engExists s m = true)) ∧
   (s.spc.reqs = []) ∧
   ((∀ u ∈ s.cyc.used, u.tbl / 2 ≠ bank.val)) ∧
   ((∀ x ∈ s.cyc.wrote, x.word ≠ w)) ∧
   ((bank.val, m) ∉ s.spc.paths) ∧
   (q.write = true) ∧
   (q.ecc = .good) ∧
   (m < 64)) := by
  refine ⟨?_, ?_⟩
  all_goals first | decide +kernel | (repeat' (first | decide +kernel | rfl | refine And.intro ?_ ?_ | (intro h; exact absurd h (by decide +kernel)) | (intros; rfl) | (intro _ _; exact ⟨rfl, rfl⟩) | (simp; done)))

/-- The hypotheses of `Scratchpad`, Scratchpad refusal. -/
theorem witness_ScratchpadRefusal :
  (let s : State := { W0 with wvl := { W0.wvl with warp := [(31232, 0xFF49)] } }
   let bank : Fin 64 := 61
   let q : SpReq := { mst := 73, word := 125, write := false, mask := 0xFF, data := 0x1122334455667788, chan := 0, lot := 0, ecc := .good }
   let o : Nat := 0x3E8
   let w := q.word.toNat
   let m := q.mst.toNat
   (fclkOn s = true) ∧
   (w % 64 = bank.val) ∧
   (64 ≤ m) ∧
   (m ≤ 73) ∧
   (slotOwner (slotAt s.wvl.warp (2 * bank.val) s.wvl.slot.toNat) = m) ∧
   (s.spc.reqs = []) ∧
   ((∀ u ∈ s.cyc.used, u.tbl / 2 ≠ bank.val)) ∧
   (s.cyc.viols = 0) ∧
   ((q.write = true → captureFits s (s.wvl.spwin.toNat + 8 * w) (maskBytes q.data q.mask) = true)) ∧
   (firstRefused s m (presOf s m q.chan.val) q.write (reqSpan q) = some o) ∧
   (s.spc.vcnt.toNat < 2 ^ 32 - 1)) := by
  first | decide +kernel | (repeat' (first | decide +kernel | rfl | refine And.intro ?_ ?_ | (intro h; exact absurd h (by decide +kernel)) | (intros; rfl) | (intro _ _; exact ⟨rfl, rfl⟩) | (simp; done)))

/-- The hypotheses of `Scratchpad`, Scrubbing keeps data. -/
theorem witness_ScrubbingKeepsData :
  (let s : State := { W0 with spc := { mem := [(0x1E8, 5)], scrubRow := [(122, 32766)], cecnt := 0xFFFFFFFF } }
   let bank : Fin 64 := 61
   let w := 64 * scrubRowAt s bank.val false + bank.val
   let x : Nat := 61
   (fclkOn s = true) ∧
   (s.spc.scrub = true) ∧
   ((∀ u ∈ s.cyc.used, u.tbl ≠ 2 * bank.val)) ∧
   (tfind s.spc.scrubFix (2 * bank.val) = none) ∧
   (w ∉ s.spc.bad) ∧
   (scrubRowAt s bank.val false < 32767) ∧
   (w ∉ s.spc.soft) ∧
   ((∀ y ∈ s.cyc.wrote, y.word ≠ x))) ∧
  (let s : State := { W0 with spc := { mem := [(0x1E8, 5)], scrubFix := [(122, 61)] }, cyc := { wrote := [⟨61, 66, false, 0xFF, 7, 5, false, false⟩] } }
   let bank : Fin 64 := 61
   let x : Nat := 61
   (fclkOn s = true) ∧
   (s.spc.scrub = true) ∧
   ((∀ u ∈ s.cyc.used, u.tbl ≠ 2 * bank.val)) ∧
   (tfind s.spc.scrubFix (2 * bank.val) = some x) ∧
   ((∃ y ∈ s.cyc.wrote, y.word = x))) := by
  refine ⟨?_, ?_⟩
  all_goals first | decide +kernel | (repeat' (first | decide +kernel | rfl | refine And.intro ?_ ?_ | (intro h; exact absurd h (by decide +kernel)) | (intros; rfl) | (intro _ _; exact ⟨rfl, rfl⟩) | (simp; done)))

/-- The hypotheses of `BuffersAndMessages`, Messages posted and received. -/
theorem witness_MessagesPostedAndReceived :
  (let s : State := CH { chains := [(2, CHN .filling RQ [2])] }
   let buf : Half := 2
   let k : Fin 15 := 2
   let src : IoSrc := .host
   let x : Chain := CHN .filling RQ [2]
   let b := buf.toNat
   let source := fun (y : Chain) => (fld (tget 0 s.che.chcfg y.chan.val) 1 4 : BitVec 4).toNat
   (fclkOn s = true) ∧
   (chainOf s b = some x) ∧
   (x.st = .filling) ∧
   (x.dec = .post) ∧
   (srcActs s src = true) ∧
   (recvVisible s src k.val = true) ∧
   ((∀ j ∈ s.che.descq, ∀ y, chainOf s j = some y → source y ≠ k.val))) ∧
  (let s : State := { CH { chains := [(1, { CHN .queued RQ [1] with chan := 10 }), (2, CHN .queued RQ [2])], descq := [1, 2] } with eng := [(3, { r := { priv := 1 } })], evg := { src := [(323, { inst := 1 })] } }
   let buf : Half := 2
   let k : Fin 15 := 2
   let src : IoSrc := .engine 3
   let x : Chain := CHN .queued RQ [2]
   let l : List Nat := [1]
   let r : List Nat := []
   let b := buf.toNat
   let source := fun (y : Chain) => (fld (tget 0 s.che.chcfg y.chan.val) 1 4 : BitVec 4).toNat
   (fclkOn s = true) ∧
   (srcActs s src = true) ∧
   (recvVisible s src k.val = true) ∧
   (s.che.descq = l ++ b :: r) ∧
   (b ∉ l) ∧
   (b ∉ r) ∧
   (chainOf s b = some x) ∧
   (source x = k.val) ∧
   ((∀ j ∈ l, ∀ y, chainOf s j = some y → source y ≠ k.val))) := by
  refine ⟨?_, ?_⟩
  all_goals first | decide +kernel | (repeat' (first | decide +kernel | rfl | refine And.intro ?_ ?_ | (intro h; exact absurd h (by decide +kernel)) | (intros; rfl) | (intro _ _; exact ⟨rfl, rfl⟩) | (simp; done)))

/-- The hypotheses of `BuffersAndMessages`, Buffers allocated. -/
theorem witness_BuffersAllocated :
  (let s : State := CH { owner := [(0, 9)] }
   let src : IoSrc := .host
   let c : ChanNo := 9
   let q := tget 0 s.che.quota c.val
   let most := q.toNat / 65536
   let least := q.toNat % 65536
   let p := poolBefore s
   let h := heldBy p c.val
   let free := fun (n : Nat) => n < poolBufs s ∧ tfind p.che.owner n = none
   let allowed := h < most ∧ 1 ≤ poolFree p ∧ (h < least ∨ poolRsv p + 1 ≤ poolFree p) ∧
           ∀ i, instOfChan s c.val = some i → instHeld p i < (insGet s i).share.toNat
   let b : Nat := 1
   (fclkOn s = true) ∧
   (srcActs s src = true) ∧
   (chanVisible s src c.val = true) ∧
   (allowed) ∧
   (b < 65536) ∧
   (free b) ∧
   ((∀ n < b, ¬ free n))) := by
  first | decide +kernel | (repeat' (first | decide +kernel | rfl | refine And.intro ?_ ?_ | (intro h; exact absurd h (by decide +kernel)) | (intros; rfl) | (intro _ _; exact ⟨rfl, rfl⟩) | (simp; done)))

/-- The hypotheses of `BuffersAndMessages`, Chains freed. -/
theorem witness_ChainsFreed :
  (let s : State := CH { owner := [(2, 9)], chains := [(2, CHN .opened RQ [2])] }
   let src : IoSrc := .host
   let v : Word := 0xABCD0002
   let x : Chain := CHN .opened RQ [2]
   let b := v.toNat % 65536
   let walk := (linkWalk x.chan.val b (poolBufs s) b s [b] x.bufs).1
   (fclkOn s = true) ∧
   (srcActs s src = true) ∧
   (viewOf s src ≠ .empty) ∧
   (b ≠ 0xFFFF) ∧
   (chainOf s b = some x) ∧
   (chanVisible s src x.chan.val = true) ∧
   ((x.st = .owned ∨ x.st = .opened)) ∧
   (x.led = none) ∧
   ((∀ n ∈ x.bufs, n < poolBufs s)) ∧
   (s.cyc.stalled = false) ∧
   (walk.cyc.stalled = false)) ∧
  (let s : State := CH { owner := [(2, 9)], chains := [(2, CHN .owned RQ [2])] }
   let src : IoSrc := .host
   let v : Word := 0x0001
   let b := v.toNat % 65536
   (fclkOn s = true) ∧
   (srcActs s src = true) ∧
   (viewOf s src ≠ .empty) ∧
   (b ≠ 0xFFFF) ∧
   (chainOf s b = none)) ∧
  (let s : State := SL 3 (CH { owner := [(2, 9), (3, 9)], chains := [(2, CHN .opened RQ [2, 3])] })
   let src : IoSrc := .host
   let v : Word := 0xABCD0002
   let x : Chain := CHN .opened RQ [2, 3]
   let b := v.toNat % 65536
   let walk := (linkWalk x.chan.val b (poolBufs s) b s [b] x.bufs).1
   (fclkOn s = true) ∧
   (srcActs s src = true) ∧
   (viewOf s src ≠ .empty) ∧
   (b ≠ 0xFFFF) ∧
   (chainOf s b = some x) ∧
   (chanVisible s src x.chan.val = true) ∧
   ((x.st = .owned ∨ x.st = .opened)) ∧
   (x.led = none) ∧
   ((∀ n ∈ x.bufs, n < poolBufs s)) ∧
   (s.cyc.stalled = false) ∧
   (walk.cyc.stalled = true)) := by
  refine ⟨?_, ?_, ?_⟩
  all_goals first | decide +kernel | (repeat' (first | decide +kernel | rfl | refine And.intro ?_ ?_ | (intro h; exact absurd h (by decide +kernel)) | (intros; rfl) | (intro _ _; exact ⟨rfl, rfl⟩) | (simp; done)))

/-- The hypotheses of `MessagesLeave`, Messages sent. -/
theorem witness_MessagesSent :
  (let s : State := { CH { owner := [(2, 9)], chains := [(2, CHN .owned 0 [2])] } with spc := { (CH {}).spc with mem := mwrite spadDefault [] 0x100200 ((toBytes 32 ((HDR 9 0 0 6 0 3 0 0 0x44 0)).toNat).map some) } }
   let src : IoSrc := .host
   let v : Word := 0xFFFF0002
   let y : Chain := CHN .owned 0 [2]
   let bs : List Byte := toBytes 32 (HDR 9 0 0 6 0 3 0 0 0x44 0).toNat
   let b := v.toNat % 65536
   let r := v.toNat / 65536
   let h : BitVec 256 := BitVec.ofNat 256 (leNat bs)
   let room := (s.che.sendq.filter fun q => !q.reply).length < 64
   let named := b ≠ 0xFFFF ∧ chainOf s b = some y ∧ chanVisible s src y.chan.val = true ∧ y.st = .owned ∧
           (cheRead s y.chan.val (bufOff s b) 32).2 = some bs ∧ hReserved h = false
   (fclkOn s = true) ∧
   (srcActs s src = true) ∧
   (viewOf s src ≠ .empty) ∧
   (room) ∧
   (named) ∧
   (r = 0xFFFF) ∧
   (hKind h % 2 = 0) ∧
   (staleSender s src = none)) ∧
  (let s : State := { CH { owner := [(1,9),(2, 9)], chains := [(1, CHN .opened RQ [1]), (2, CHN .owned 0 [2])] } with spc := { (CH {}).spc with mem := mwrite spadDefault [] 0x100200 ((toBytes 32 ((HDR 9 0 0 6 0 3 0 0 0x44 0)).toNat).map some) } }
   let src : IoSrc := .host
   let v : Word := 0x00010002
   let y : Chain := CHN .owned 0 [2]
   let x : Chain := CHN .opened RQ [1]
   let bs : List Byte := toBytes 32 (HDR 9 0 0 6 0 3 0 0 0x44 0).toNat
   let b := v.toNat % 65536
   let r := v.toNat / 65536
   let h : BitVec 256 := BitVec.ofNat 256 (leNat bs)
   let room := (s.che.sendq.filter fun q => !q.reply).length < 64
   let named := b ≠ 0xFFFF ∧ chainOf s b = some y ∧ chanVisible s src y.chan.val = true ∧ y.st = .owned ∧
           (cheRead s y.chan.val (bufOff s b) 32).2 = some bs ∧ hReserved h = false
   let i := 1
   (fclkOn s = true) ∧
   (srcActs s src = true) ∧
   (viewOf s src ≠ .empty) ∧
   (room) ∧
   (named) ∧
   (r ≠ 0xFFFF) ∧
   (r ≠ b) ∧
   (chainOf s r = some x) ∧
   (chanVisible s src x.chan.val = true) ∧
   (x.st = .opened) ∧
   (instOfChan s x.chan.val = some i) ∧
   (x.lot = (insGet s i).lot)) ∧
  (let s : State := CH { statev := true }
   let src : IoSrc := .host
   let v : Word := 0xFFFF0002
   let b := v.toNat % 65536
   let room := (s.che.sendq.filter fun q => !q.reply).length < 64
   (fclkOn s = true) ∧
   (srcActs s src = true) ∧
   (viewOf s src ≠ .empty) ∧
   (room) ∧
   (chainOf s b = none)) ∧
  (let s : State := CH { sendq := List.replicate 64 ⟨3, false, 0, none⟩ }
   let src : IoSrc := .host
   (fclkOn s = true) ∧
   (srcActs s src = true) ∧
   (viewOf s src ≠ .empty) ∧
   (64 ≤ (s.che.sendq.filter fun q => !q.reply).length)) := by
  refine ⟨?_, ?_, ?_, ?_⟩
  all_goals first | decide +kernel | (repeat' (first | decide +kernel | rfl | refine And.intro ?_ ?_ | (intro h; exact absurd h (by decide +kernel)) | (intros; rfl) | (intro _ _; exact ⟨rfl, rfl⟩) | (simp; done)))

/-- The hypotheses of `MessagesLeave`, Messages transmitted. -/
theorem witness_MessagesTransmitted :
  (let s : State := CH { owner := [(2, 9)], sendq := [⟨2, false, 0, none⟩], chains := [(2, CHN .sending RQ [2])] }
   let q : SendReq := ⟨2, false, 0, none⟩
   let l : List SendReq := []
   let x : Chain := CHN .sending RQ [2]
   let data : List Byte := [0,0,0]
   let u : State := (readOutChain { s with che := { s.che with sendq := l } } q.buf x).1
   let flits := toFlits (toBytes 32 x.hdr.toNat ++ data) (hdrFlits x.hdr)
   let popped := { s with che := { s.che with sendq := l } }
   (fclkOn s = true) ∧
   (s.che.sendq = q :: l) ∧
   ((∀ p ∈ l, p.buf ≠ q.buf)) ∧
   (chainOf s q.buf = some x) ∧
   (x.led = none) ∧
   (s.che.out = []) ∧
   (readOutChain popped q.buf x = (u, some data)) ∧
   (q.reply = false) ∧
   (1 ≤ hdrFlits x.hdr) ∧
   (isOwn s (flitDest (laneOf x.hdr).val (flits.headD 0)) = true)) ∧
  (let s : State := CH { owner := [(2, 9)], sendq := [⟨2, true, 0, some 1⟩], chains := [(2, CHN .sending (HDR 9 0 6 5 0 3 1 0 0x44 0) [2])] }
   let q : SendReq := ⟨2, true, 0, some 1⟩
   let l : List SendReq := []
   let x : Chain := CHN .sending (HDR 9 0 6 5 0 3 1 0 0x44 0) [2]
   let data : List Byte := [0,0,0]
   let u : State := (readOutChain { s with che := { s.che with sendq := l } } q.buf x).1
   let popped := { s with che := { s.che with sendq := l } }
   (fclkOn s = true) ∧
   (s.che.sendq = q :: l) ∧
   ((∀ p ∈ l, p.buf ≠ q.buf)) ∧
   (chainOf s q.buf = some x) ∧
   (x.led = none) ∧
   (s.che.out = []) ∧
   (readOutChain popped q.buf x = (u, some data)) ∧
   (q.reply = true) ∧
   (s.twn.role = 0) ∧
   (fencedReply s q = false)) := by
  refine ⟨?_, ?_⟩
  all_goals first | decide +kernel | (repeat' (first | decide +kernel | rfl | refine And.intro ?_ ?_ | (intro h; exact absurd h (by decide +kernel)) | (intros; rfl) | (intro _ _; exact ⟨rfl, rfl⟩) | (simp; done)))

/-- The hypotheses of `MessagesArrive`. -/
theorem witness_MessagesArrive :
  (let s : State := CH { loop := [[(HDR 11 7 6 5 0x1122334455667788 3 0 0x99 0x21 0).setWidth 512]] }
   let d : LineData := (HDR 11 7 6 5 0x1122334455667788 3 0 0x99 0x21 0).setWidth 512
   let rest : List LineData := []
   let m : List (List LineData) := []
   let code : BitVec 8 := 2
   let h := hdrSet (hdrOf d) 0x1B 1 0
   let looped := s.che.loop = (d :: rest) :: m ∧ s.che.loopPart = none ∧ ∀ p v : Nat, tget [] (ibfGet s p).rx v = []
   (fclkOn s = true) ∧
   (looped) ∧
   (rest.length + 1 = hdrFlits h) ∧
   (arrivalCheck s h = some code) ∧
   (hKind h = 0)) ∧
  (let s : State := CH { loop := [[(HDR 11 7 6 5 0x1122334455667788 3 1 0x99 0x21 0).setWidth 512]] }
   let d : LineData := (HDR 11 7 6 5 0x1122334455667788 3 1 0x99 0x21 0).setWidth 512
   let rest : List LineData := []
   let m : List (List LineData) := []
   let code : BitVec 8 := 2
   let h := hdrSet (hdrOf d) 0x1B 1 0
   let looped := s.che.loop = (d :: rest) :: m ∧ s.che.loopPart = none ∧ ∀ p v : Nat, tget [] (ibfGet s p).rx v = []
   (fclkOn s = true) ∧
   (looped) ∧
   (rest.length + 1 = hdrFlits h) ∧
   (arrivalCheck s h = some code) ∧
   (hKind h ≠ 0)) ∧
  (let s : State := CH { loop := [[(HDR 9 7 6 5 0x1122334455667788 3 2 0x99 0x21 0).setWidth 512]] }
   let d : LineData := (HDR 9 7 6 5 0x1122334455667788 3 2 0x99 0x21 0).setWidth 512
   let rest : List LineData := []
   let m : List (List LineData) := []
   let b : Nat := 0
   let s3 : State := (allocBuf (pmuAdd s 566 1) 9).1
   let s4 : State := match writePart 9 7 [0] true 4 (allocBuf (pmuAdd s 566 1) 9).1 0 ((toBytes 32 (hdrSet (hdrOf d) 0x1B 1 0).toNat ++ lineBytes d 32 32).take 35) with | .done u => u | _ => s
   let h := hdrSet (hdrOf d) 0x1B 1 0
   let c := hChan h
   let lot := chanLot s c.val 0
   let bytes := toBytes 32 h.toNat ++ lineBytes d 32 32
   let looped := s.che.loop = (d :: rest) :: m ∧ s.che.loopPart = none ∧ ∀ p v : Nat, tget [] (ibfGet s p).rx v = []
   (fclkOn s = true) ∧
   (looped) ∧
   (rest = []) ∧
   (hLen h ≤ 32) ∧
   (arrivalCheck s h = none) ∧
   (filtered s h = false) ∧
   (allocBuf (pmuAdd s 566 1) c = (s3, some b)) ∧
   (writePart c.val lot [b] true 4 s3 0 (bytes.take (32 + hLen h)) = .done s4)) ∧
  (let s : State := { CH {} with ibf := [(0, { rx := [(0, [.flit ((HDR 9 7 6 5 0x1122334455667788 40 2 0x99 0x21 0).setWidth 512)])] })] }
   let d : LineData := (HDR 9 7 6 5 0x1122334455667788 40 2 0x99 0x21 0).setWidth 512
   let b : Nat := 0
   let s3 : State := (allocBuf (pmuAdd s 566 1) 9).1
   let s4 : State := match writePart 9 7 [0] false 4 (allocBuf (pmuAdd s 566 1) 9).1 0 ((toBytes 32 (hdrSet (hdrOf d) 0x1B 1 0).toNat ++ lineBytes d 32 32).take 64) with | .done u => u | _ => s
   let h := hdrSet (hdrOf d) 0x1B 1 0
   let c := hChan h
   let lot := chanLot s c.val 0
   let bytes := toBytes 32 h.toNat ++ lineBytes d 32 32
   let y := ibfGet s 0
   (fclkOn s = true) ∧
   (tget [] y.rx 0 = [.flit d]) ∧
   (tget (.drop, 0) y.rxMsg 0 = (.drop, 0)) ∧
   (tfind y.rxPart 0 = none) ∧
   (isOwn s (flitDest 0 d) = true) ∧
   (32 < hLen h) ∧
   (hLen h ≤ 16384) ∧
   (arrivalCheck s h = none) ∧
   (allocBuf (pmuAdd s 566 1) c = (s3, some b)) ∧
   (writePart c.val lot [b] false 4 s3 0 bytes = .done s4)) := by
  refine ⟨?_, ?_, ?_, ?_⟩
  all_goals first | decide +kernel | (repeat' (first | decide +kernel | rfl | refine And.intro ?_ ?_ | (intro h; exact absurd h (by decide +kernel)) | (intros; rfl) | (intro _ _; exact ⟨rfl, rfl⟩) | (simp; done)))

/-- The hypotheses of `LedgerAndTimeouts`, Ledger decides. -/
theorem witness_LedgerDecides :
  (let s : State := CH { owner := [(2, 9)], probeq := [2], ledNext := 5, ledger := [], chains := [(2, { CHN .filling RQ [2] with dec := .waiting })] }
   let buf : Half := 2
   let x : Chain := { CHN .filling RQ [2] with dec := .waiting }
   let l : List Nat := []
   let b := buf.toNat
   let g := groupOfChan s x.chan.val
   (fclkOn s = true) ∧
   (chainOf s b = some x) ∧
   (x.st = .filling) ∧
   (x.dec = .waiting) ∧
   (x.led = none) ∧
   (s.che.probeq = b :: l) ∧
   (b ∉ l) ∧
   (grpWindow s g ≠ 0) ∧
   ((∀ n ∈ x.bufs, n < poolBufs s)) ∧
   (ledgerFind s g (hKey x.hdr) = none) ∧
   (s.che.ten = false) ∧
   (s.che.ledger.length < 8192) ∧
   (x.refusal = none) ∧
   ((∀ y ∈ s.che.ledger, y.id ≠ s.che.ledNext ∧ (y.group = g → y.key = hKey x.hdr → y.old = true)))) ∧
  (let s : State := CH { owner := [(2, 9)], probeq := [2], ledNext := 5, ledger := [{ id := 4, group := 1, key := 0x1122334455667788, time := 0x123456, st := .opened, nostore := false, old := false, held := false, repeats := [⟨1,2,3⟩, ⟨1,2,3⟩], way := 0, stores := 0, failed := false }], chains := [(2, { CHN .filling RQ [2] with dec := .waiting })] }
   let buf : Half := 2
   let x : Chain := { CHN .filling RQ [2] with dec := .waiting }
   let l : List Nat := []
   let e : Ledger := { id := 4, group := 1, key := 0x1122334455667788, time := 0x123456, st := .opened, nostore := false, old := false, held := false, repeats := [⟨1,2,3⟩, ⟨1,2,3⟩], way := 0, stores := 0, failed := false }
   let b := buf.toNat
   let g := groupOfChan s x.chan.val
   (fclkOn s = true) ∧
   (chainOf s b = some x) ∧
   (x.st = .filling) ∧
   (x.dec = .waiting) ∧
   (x.led = none) ∧
   (s.che.probeq = b :: l) ∧
   (b ∉ l) ∧
   (grpWindow s g ≠ 0) ∧
   ((∀ n ∈ x.bufs, n < poolBufs s)) ∧
   (ledgerFind s g (hKey x.hdr) = some e) ∧
   (isLive s g e.time = true) ∧
   (e.st ≠ .done) ∧
   (e.held = false) ∧
   ((∀ y ∈ s.che.ledger, y.id = e.id → y = e)) ∧
   (e.repeats.length ≤ 2)) ∧
  (let s : State := CH { owner := [(2, 9)], probeq := [2], ledNext := 5, ledger := [{ id := 4, group := 1, key := 0x1122334455667788, time := 0x123456, st := .opened, nostore := false, old := false, held := false, repeats := [⟨1,2,3⟩, ⟨1,2,3⟩, ⟨1,2,3⟩], way := 0, stores := 0, failed := false }], chains := [(2, { CHN .filling RQ [2] with dec := .waiting })] }
   let buf : Half := 2
   let x : Chain := { CHN .filling RQ [2] with dec := .waiting }
   let l : List Nat := []
   let e : Ledger := { id := 4, group := 1, key := 0x1122334455667788, time := 0x123456, st := .opened, nostore := false, old := false, held := false, repeats := [⟨1,2,3⟩, ⟨1,2,3⟩, ⟨1,2,3⟩], way := 0, stores := 0, failed := false }
   let b := buf.toNat
   let g := groupOfChan s x.chan.val
   (fclkOn s = true) ∧
   (chainOf s b = some x) ∧
   (x.st = .filling) ∧
   (x.dec = .waiting) ∧
   (x.led = none) ∧
   (s.che.probeq = b :: l) ∧
   (b ∉ l) ∧
   (grpWindow s g ≠ 0) ∧
   ((∀ n ∈ x.bufs, n < poolBufs s)) ∧
   (ledgerFind s g (hKey x.hdr) = some e) ∧
   (isLive s g e.time = true) ∧
   (e.st ≠ .done) ∧
   (e.held = false) ∧
   ((∀ y ∈ s.che.ledger, y.id = e.id → y = e)) ∧
   (3 ≤ e.repeats.length)) ∧
  (let s : State := CH { owner := [(2, 9)], probeq := [2], ledNext := 5, ledger := [{ id := 4, group := 1, key := 0x1122334455667788, time := 0x123456, st := .done, nostore := false, old := false, held := false, repeats := [], way := 0, stores := 0, failed := false }], chains := [(2, { CHN .filling RQ [2] with dec := .waiting })] }
   let buf : Half := 2
   let x : Chain := { CHN .filling RQ [2] with dec := .waiting }
   let l : List Nat := []
   let e : Ledger := { id := 4, group := 1, key := 0x1122334455667788, time := 0x123456, st := .done, nostore := false, old := false, held := false, repeats := [], way := 0, stores := 0, failed := false }
   let b := buf.toNat
   let g := groupOfChan s x.chan.val
   (fclkOn s = true) ∧
   (chainOf s b = some x) ∧
   (x.st = .filling) ∧
   (x.dec = .waiting) ∧
   (x.led = none) ∧
   (s.che.probeq = b :: l) ∧
   (b ∉ l) ∧
   (grpWindow s g ≠ 0) ∧
   ((∀ n ∈ x.bufs, n < poolBufs s)) ∧
   (ledgerFind s g (hKey x.hdr) = some e) ∧
   (isLive s g e.time = true) ∧
   (e.st = .done) ∧
   (e.held = false) ∧
   ((e.nostore = true ∨ s.che.ten = false))) := by
  refine ⟨?_, ?_, ?_, ?_⟩
  all_goals first | decide +kernel | (repeat' (first | decide +kernel | rfl | refine And.intro ?_ ?_ | (intro h; exact absurd h (by decide +kernel)) | (intros; rfl) | (intro _ _; exact ⟨rfl, rfl⟩) | (simp; done)))

/-- The hypotheses of `LedgerAndTimeouts`, Requests time out. -/
theorem witness_RequestsTimeOut :
  (let s : State := CH { owner := [(2, 9)], chains := [(2, CHN .opened RQ [2])] }
   let buf : Half := 2
   let x : Chain := CHN .opened RQ [2]
   let b := buf.toNat
   let tmo := (tget 0 s.che.grp (groupOfChan s x.chan.val).toNat).toNat / 65536
   (fclkOn s = true) ∧
   (chainOf s b = some x) ∧
   (hKind x.hdr = 0) ∧
   (x.led = none) ∧
   (tmo ≠ 0) ∧
   (x.posted.toNat + tmo * 1024 ≤ s.tmr.gtime.toNat / 1024 * 1024) ∧
   ((∀ n ∈ x.bufs, n < poolBufs s)) ∧
   ((x.st = .opened ∨ x.st = .queued)) ∧
   (b ∉ s.cyc.tmos) ∧
   (x.st = .opened)) ∧
  (let s : State := CH { owner := [(2, 9)], descq := [1,2], chains := [(2, CHN .queued RQ [2])] }
   let buf : Half := 2
   let x : Chain := CHN .queued RQ [2]
   let b := buf.toNat
   let tmo := (tget 0 s.che.grp (groupOfChan s x.chan.val).toNat).toNat / 65536
   (fclkOn s = true) ∧
   (chainOf s b = some x) ∧
   (hKind x.hdr = 0) ∧
   (x.led = none) ∧
   (tmo ≠ 0) ∧
   (x.posted.toNat + tmo * 1024 ≤ s.tmr.gtime.toNat / 1024 * 1024) ∧
   ((∀ n ∈ x.bufs, n < poolBufs s)) ∧
   (x.st = .queued)) ∧
  (let s : State := CH { owner := [(2, 9)], chains := [(2, CHN .owned RQ [2])] }
   let buf : Half := 2
   let x : Chain := CHN .owned RQ [2]
   let b := buf.toNat
   let tmo := (tget 0 s.che.grp (groupOfChan s x.chan.val).toNat).toNat / 65536
   (fclkOn s = true) ∧
   (chainOf s b = some x) ∧
   (hKind x.hdr = 0) ∧
   (x.led = none) ∧
   (tmo ≠ 0) ∧
   (x.posted.toNat + tmo * 1024 ≤ s.tmr.gtime.toNat / 1024 * 1024) ∧
   ((∀ n ∈ x.bufs, n < poolBufs s)) ∧
   (x.st ≠ .opened) ∧
   (x.st ≠ .queued)) := by
  refine ⟨?_, ?_, ?_⟩
  all_goals first | decide +kernel | (repeat' (first | decide +kernel | rfl | refine And.intro ?_ ?_ | (intro h; exact absurd h (by decide +kernel)) | (intros; rfl) | (intro _ _; exact ⟨rfl, rfl⟩) | (simp; done)))

/-- The hypotheses of `FlitsAndCodewords`, Flits received. -/
theorem witness_FlitsReceived :
  (let s : State := PT { st := .active, e := 4095, rseq := 4095, prx := { flits := [⟨false, fchkOf 4095 1 7, 7⟩, ⟨true, 0, 0⟩] } }
   let p : PortNo := 1
   let f : RxFlit := ⟨false, fchkOf 4095 1 7, 7⟩
   let l : List RxFlit := [⟨true, 0, 0⟩]
   let c : Nat := 1
   let x := ibfGet s p.val
   let cls := classOfFlit x.rseq f.fchk f.data
   (portOn s p = true) ∧
   (x.st = .active) ∧
   (x.mark = none) ∧
   (x.ctl = none) ∧
   (x.naksent = false) ∧
   (x.prx.flits = f :: l) ∧
   (f.bad = false) ∧
   (cls = some c) ∧
   (c < 2) ∧
   (x.e = x.rseq)) ∧
  (let s : State := PT { st := .active, e := 5, rseq := 4, prx := { flits := [⟨false, fchkOf 4 4 7, 7⟩, ⟨true, 0, 0⟩] } }
   let p : PortNo := 1
   let f : RxFlit := ⟨false, fchkOf 4 4 7, 7⟩
   let l : List RxFlit := [⟨true, 0, 0⟩]
   let c : Nat := 4
   let x := ibfGet s p.val
   let cls := classOfFlit x.rseq f.fchk f.data
   (portOn s p = true) ∧
   (x.st = .active) ∧
   (x.mark = none) ∧
   (x.ctl = none) ∧
   (x.naksent = false) ∧
   (x.prx.flits = f :: l) ∧
   (f.bad = false) ∧
   (cls = some c) ∧
   (c < 5) ∧
   (1 ≤ (x.e - x.rseq).toNat) ∧
   ((x.e - x.rseq).toNat ≤ 511)) ∧
  (let s : State := PT { st := .active, prx := { flits := [⟨false, fchkOf 0 5 (CTL 1 0 0 0 5), CTL 1 0 0 0 5⟩, ⟨true, 0, 0⟩] } }
   let p : PortNo := 1
   let f : RxFlit := ⟨false, fchkOf 0 5 (CTL 1 0 0 0 5), CTL 1 0 0 0 5⟩
   let l : List RxFlit := [⟨true, 0, 0⟩]
   let x := ibfGet s p.val
   let cls := classOfFlit x.rseq f.fchk f.data
   (portOn s p = true) ∧
   (x.st = .active) ∧
   (x.mark = none) ∧
   (x.ctl = none) ∧
   (x.naksent = false) ∧
   (x.prx.flits = f :: l) ∧
   (f.bad = false) ∧
   (cls = some 5) ∧
   (ctlBad f.data = false)) ∧
  (let s : State := PT { st := .active, prx := { flits := [⟨false, 0, CTL 1 0 0 0 5⟩, ⟨true, 0, 0⟩] } }
   let p : PortNo := 1
   let f : RxFlit := ⟨false, 0, CTL 1 0 0 0 5⟩
   let l : List RxFlit := [⟨true, 0, 0⟩]
   let x := ibfGet s p.val
   let cls := classOfFlit x.rseq f.fchk f.data
   (portOn s p = true) ∧
   (x.st = .active) ∧
   (x.mark = none) ∧
   (x.ctl = none) ∧
   (x.naksent = false) ∧
   (x.prx.flits = f :: l) ∧
   (f.bad = true ∨ cls = none)) := by
  refine ⟨?_, ?_, ?_, ?_⟩
  all_goals first | decide +kernel | (repeat' (first | decide +kernel | rfl | refine And.intro ?_ ?_ | (intro h; exact absurd h (by decide +kernel)) | (intros; rfl) | (intro _ _; exact ⟨rfl, rfl⟩) | (simp; done)))

/-- The hypotheses of `FlitsAndCodewords`, Codewords decoded. -/
theorem witness_CodewordsDecoded :
  (let s : State := PT { st := .train }
   let p : PortNo := 1
   let x := ibfGet s p.val
   (portOn s p = true) ∧
   (x.st = .train)) := by
  first | decide +kernel | (repeat' (first | decide +kernel | rfl | refine And.intro ?_ ?_ | (intro h; exact absurd h (by decide +kernel)) | (intros; rfl) | (intro _ _; exact ⟨rfl, rfl⟩) | (simp; done)))

/-- The hypotheses of `LinkControlFlits`. -/
theorem witness_LinkControlFlits :
  (let s : State := PT { st := .active, ctl := some (CTL 1 0 4095 0 6), e := 100, retry := [⟨4094, 0, 1⟩, ⟨4095, 1, 2⟩, ⟨0, 0, 3⟩], txnext := 1 }
   let p : PortNo := 1
   let d : LineData := CTL 1 0 4095 0 6
   let k : Nat := 1
   let x := ibfGet s p.val
   let n : BitVec 12 := BitVec.ofNat 12 (flitNat d 2 2)
   let within := (n - oldest x).toNat = k ∧ k ≤ x.retry.length
   (portOn s p = true) ∧
   (x.ctl = some d) ∧
   (flitNat d 0 1 = 1) ∧
   (within) ∧
   (x.st = .active) ∧
   (x.retry ≠ []) ∧
   (x.rtmo ≠ 0) ∧
   (x.replay = none) ∧
   (x.rtmo.toNat ≤ (s.tmr.gtime - x.advAt).toNat) ∧
   (x.rtmo.toNat ≤ (s.tmr.gtime - x.replayAt).toNat) ∧
   (x.retrymax = 0 ∨ x.tries < x.retrymax.toNat)) ∧
  (let s : State := PT { st := .active, ctl := some (CTL 2 0 1 0 6), e := 100, retry := [⟨4094, 0, 1⟩, ⟨4095, 1, 2⟩, ⟨0, 0, 3⟩], txnext := 1 }
   let p : PortNo := 1
   let d : LineData := CTL 2 0 1 0 6
   let k : Nat := 3
   let x := ibfGet s p.val
   let n : BitVec 12 := BitVec.ofNat 12 (flitNat d 2 2)
   let within := (n - oldest x).toNat = k ∧ k ≤ x.retry.length
   (portOn s p = true) ∧
   (x.ctl = some d) ∧
   (flitNat d 0 1 = 2) ∧
   (within) ∧
   (x.replay = none) ∧
   (x.replayFor = none) ∧
   (x.retrymax = 0 ∨ x.tries < x.retrymax.toNat)) ∧
  (let s : State := PT { st := .active, ctl := some (CTL 3 0 4094 3684 6), e := 100, retry := [⟨4094, 0, 1⟩, ⟨4095, 1, 2⟩, ⟨0, 0, 3⟩], txnext := 1 }
   let p : PortNo := 1
   let d : LineData := CTL 3 0 4094 3684 6
   let k : Nat := 0
   let x := ibfGet s p.val
   let n : BitVec 12 := BitVec.ofNat 12 (flitNat d 2 2)
   let within := (n - oldest x).toNat = k ∧ k ≤ x.retry.length
   (portOn s p = true) ∧
   (x.ctl = some d) ∧
   (flitNat d 0 1 = 3) ∧
   (within) ∧
   ((x.e - BitVec.ofNat 12 (flitNat d 4 2)).toNat ≤ 512)) ∧
  (let s : State := PT { st := .active, ctl := some (CTL 4 1 77 0 6), e := 100, retry := [⟨4094, 0, 1⟩, ⟨4095, 1, 2⟩, ⟨0, 0, 3⟩], txnext := 1 }
   let p : PortNo := 1
   let d : LineData := CTL 4 1 77 0 6
   let x := ibfGet s p.val
   (portOn s p = true) ∧
   (x.ctl = some d) ∧
   (flitNat d 0 1 = 4) ∧
   (x.initSeen = false)) ∧
  (let s : State := PT { st := .active, ctl := some (CTL 1 0 2 0 6), e := 100, retry := [⟨4094, 0, 1⟩, ⟨4095, 1, 2⟩, ⟨0, 0, 3⟩], txnext := 1 }
   let p : PortNo := 1
   let d : LineData := CTL 1 0 2 0 6
   let x := ibfGet s p.val
   let n : BitVec 12 := BitVec.ofNat 12 (flitNat d 2 2)
   (portOn s p = true) ∧
   (x.ctl = some d) ∧
   (flitNat d 0 1 = 1) ∧
   (x.retry.length < (n - oldest x).toNat)) ∧
  (let s : State := PT { st := .active, mark := some 0x0301, rxLeft := [(3, 2)] }
   let p : PortNo := 1
   let d : LineData := 0x0301
   let x := ibfGet s p.val
   (portOn s p = true) ∧
   (x.mark = some d)) := by
  refine ⟨?_, ?_, ?_, ?_, ?_, ?_⟩
  all_goals first | decide +kernel | (repeat' (first | decide +kernel | rfl | refine And.intro ?_ ?_ | (intro h; exact absurd h (by decide +kernel)) | (intros; rfl) | (intro _ _; exact ⟨rfl, rfl⟩) | (simp; done)))

/-- The hypotheses of `SlotsAndForwarding`, Slots transmit. -/
theorem witness_SlotsTransmit :
  (let s : State := PT { st := .active, frameSlot := 1, initSeen := true, initcred := [(3, 1)], tx := [(3, [.flit 9, .flit 8])], txnext := 4095 }
   let p : PortNo := 1
   let v : Nat := 3
   let d : LineData := 9
   let r : List LaneFlit := [.flit 8]
   let x := ibfGet s p.val
   let lanes := slotLanes (tget 7#8 s.wvl.txfUse (512 * p.val + x.frameSlot.toNat))
   let room := x.ptx.fifo.length < 4
   (portOn s p = true) ∧
   (x.st = .active) ∧
   (x.frameSlot ≠ 0) ∧
   (x.txSkip = []) ∧
   (s.hlt.twinMsgs = []) ∧
   (room) ∧
   (x.initSeen = true) ∧
   (x.replay = none) ∧
   (x.resend = none) ∧
   (x.retry.length < 512) ∧
   (lanes.head? = some v) ∧
   (tget [] x.tx v = .flit d :: r) ∧
   (creditsOf x v ≠ 0)) ∧
  (let s : State := PT { st := .active, frameSlot := 511, initSeen := true, naksent := true, e := 7, freed := [(0, 4095)] }
   let p : PortNo := 1
   let v : Nat := 3
   let x := ibfGet s p.val
   let lanes := slotLanes (tget 7#8 s.wvl.txfUse (512 * p.val + x.frameSlot.toNat))
   let room := x.ptx.fifo.length < 4
   (portOn s p = true) ∧
   (x.st = .active) ∧
   (x.frameSlot ≠ 0) ∧
   (x.txSkip = []) ∧
   (s.hlt.twinMsgs = []) ∧
   (room) ∧
   (x.initSeen = true) ∧
   (x.replay = none) ∧
   (x.resend = none) ∧
   ((∀ v ∈ lanes, tget [] x.tx v = []))) ∧
  (let s : State := PT { st := .active, frameSlot := 5, initSeen := false, tx := [(3, [.flit 9, .flit 8])] }
   let p : PortNo := 1
   let x := ibfGet s p.val
   let room := x.ptx.fifo.length < 4
   (portOn s p = true) ∧
   (x.st = .active) ∧
   (x.frameSlot ≠ 0) ∧
   (x.txSkip = []) ∧
   (s.hlt.twinMsgs = []) ∧
   (room) ∧
   (x.initSeen = false)) ∧
  (let s : State := PT { st := .active, frameSlot := 5, ptx := { fifo := List.replicate 4 ⟨1, 2, false⟩ } }
   let p : PortNo := 1
   let x := ibfGet s p.val
   (portOn s p = true) ∧
   (x.st = .active) ∧
   (x.frameSlot ≠ 0) ∧
   (x.txSkip = []) ∧
   (s.hlt.twinMsgs = []) ∧
   (4 ≤ x.ptx.fifo.length)) := by
  refine ⟨?_, ?_, ?_, ?_⟩
  all_goals first | decide +kernel | (repeat' (first | decide +kernel | rfl | refine And.intro ?_ ?_ | (intro h; exact absurd h (by decide +kernel)) | (intros; rfl) | (intro _ _; exact ⟨rfl, rfl⟩) | (simp; done)))

/-- The hypotheses of `SlotsAndForwarding`, Messages forwarded. -/
theorem witness_MessagesForwarded :
  (let s : State := { PT { st := .active, rx := [(0, [.flit (((HDR 9 7 6 77 0x1122334455667788 3 0 0x99 0x21 0 ||| (2#256 <<< (8 * 0x1B))).setWidth 512))])] } with wvl := { warp := Slots, slot := 1, routes := [(77, 0x0206)] }, ibf := [(1, { st := .active, rx := [(0, [.flit ((HDR 9 7 6 77 0x1122334455667788 3 0 0x99 0x21 0 ||| (2#256 <<< (8 * 0x1B))).setWidth 512)])] }), (2, { st := .active })] }
   let p : PortNo := 1
   let lane : Fin 4 := 0
   let d : LineData := ((HDR 9 7 6 77 0x1122334455667788 3 0 0x99 0x21 0 ||| (2#256 <<< (8 * 0x1B))).setWidth 512)
   let m : Nat := 2
   let x := ibfGet s p.val
   let v := lane.val
   let hop := flitNat d (hopAt v) 1
   let z := slotAt s.wvl.warp (133 + m) s.wvl.slot.toNat
   let serves := (slotOwner z = 67 + p.val ∨ slotLend z = 67 + p.val) ∧ ∀ u ∈ s.cyc.used, u.tbl ≠ 133 + m
   (portOn s p = true) ∧
   (v ≠ 2) ∧
   (tget [] x.rx v = [.flit d]) ∧
   ((tget (RxDest.drop, 0) x.rxMsg v).2 = 0) ∧
   (flitsOf v d = 1) ∧
   (isOwn s (flitDest v d) = false) ∧
   (2 ≤ hop) ∧
   (routePort s (flitDest v d) = some m) ∧
   (serves) ∧
   ((tget [] (ibfGet s m).tx v).length < 32) ∧
   (tget 0 (ibfGet s m).txHold v = 0) ∧
   ((∀ a ∈ (tget [] (ibfGet s m).txWait v).head?, a = 67 + p.val))) ∧
  (let s : State := { PT { st := .active, rx := [(0, [.flit (((HDR 9 7 6 77 0x1122334455667788 3 0 0x99 0x21 0 ||| (1#256 <<< (8 * 0x1B))).setWidth 512))])] } with wvl := { warp := Slots, slot := 1, routes := [(77, 0x0206)] }, ibf := [(1, { st := .active, rx := [(0, [.flit ((HDR 9 7 6 77 0x1122334455667788 3 0 0x99 0x21 0 ||| (1#256 <<< (8 * 0x1B))).setWidth 512)])] }), (2, { st := .active })] }
   let p : PortNo := 1
   let lane : Fin 4 := 0
   let d : LineData := ((HDR 9 7 6 77 0x1122334455667788 3 0 0x99 0x21 0 ||| (1#256 <<< (8 * 0x1B))).setWidth 512)
   let x := ibfGet s p.val
   let v := lane.val
   let hop := flitNat d (hopAt v) 1
   (portOn s p = true) ∧
   (v ≠ 2) ∧
   (tget [] x.rx v = [.flit d]) ∧
   ((tget (RxDest.drop, 0) x.rxMsg v).2 = 0) ∧
   (flitsOf v d = 1) ∧
   (isOwn s (flitDest v d) = false) ∧
   (hop ≤ 1)) := by
  refine ⟨?_, ?_⟩
  all_goals first | decide +kernel | (repeat' (first | decide +kernel | rfl | refine And.intro ?_ ?_ | (intro h; exact absurd h (by decide +kernel)) | (intros; rfl) | (intro _ _; exact ⟨rfl, rfl⟩) | (simp; done)))

/-- The hypotheses of `TrainingAndLanes`, Training steps. -/
theorem witness_TrainingSteps :
  (let s : State := PT { st := .train, prx := { words := [(7, 14)], seen := [(7, (List.range 14).reverse)], inb := [(7, ⟨896, (MKR 2 9 0x1234).toNat + (MKR 2 10 0x1234).toNat * 2 ^ 680⟩)] } }
   let p : PortNo := 1
   let k : Fin 8 := 7
   let m1 : BitVec 120 := MKR 2 9 0x1234
   let m2 : BitVec 120 := MKR 2 10 0x1234
   let at0 : Nat := 0
   let x := ibfGet s p.val
   (portOn s p = true) ∧
   (x.st = .train) ∧
   (tfind x.phys k.val = none) ∧
   (markerOk m1 (fld m1 84 8 - 1) = true) ∧
   (markerOk m2 (fld m1 84 8) = true) ∧
   (fld m1 48 3 = (fld m2 48 3 : BitVec 3)) ∧
   (markerAt x.prx k.val at0 = some m1) ∧
   (markerAt x.prx k.val (at0 + 680) = some m2)) ∧
  (let s : State := PT { st := .train, phys := [(7, { lane := 2, amcnt := 8, next := 0, zero := 0, miss := 2, fields := 0x1234, agree := false })] }
   let p : PortNo := 1
   let k : Fin 8 := 7
   let r : LaneRx := { lane := 2, amcnt := 8, next := 0, zero := 0, miss := 2, fields := 0x1234, agree := false }
   let x := ibfGet s p.val
   (portOn s p = true) ∧
   (x.st = .train) ∧
   (tfind x.phys k.val = some r) ∧
   (2 ≤ r.miss)) ∧
  (let s : State := PT { st := .train, phys := [(7, { lane := 2, amcnt := 8, next := 0, zero := 0, miss := 0, fields := 0x1234, agree := false })], prx := { words := [(7, 14)], seen := [(7, (List.range 14).reverse)], inb := [(7, ⟨896, (MKR 2 9 0x1234).toNat + (MKR 2 10 0x1234).toNat * 2 ^ 680⟩)] } }
   let p : PortNo := 1
   let k : Fin 8 := 7
   let m1 : BitVec 120 := MKR 2 9 0x1234
   let r : LaneRx := { lane := 2, amcnt := 8, next := 0, zero := 0, miss := 0, fields := 0x1234, agree := false }
   let now : Nat := 0
   let x := ibfGet s p.val
   (portOn s p = true) ∧
   (tfind x.phys k.val = some r) ∧
   (markerAt x.prx k.val r.next = some m1) ∧
   (timeAt x.prx k.val r.next = some now) ∧
   (x.st = .train) ∧
   (x.endAm ≠ some r.amcnt) ∧
   (markerOk m1 r.amcnt = true) ∧
   ((fld m1 48 3 : BitVec 3).toNat = r.lane.val)) ∧
  (let s : State := PT { st := .active, phys := [(7, { lane := 2, amcnt := 8, next := 0, zero := 0, miss := 0, fields := 0x1234, agree := false })], prx := { words := [(7, 14)], seen := [(7, (List.range 14).reverse)], inb := [(7, ⟨896, (MKR 2 9 0x2000).toNat + (MKR 2 10 0x1234).toNat * 2 ^ 680⟩)] } }
   let p : PortNo := 1
   let k : Fin 8 := 7
   let m1 : BitVec 120 := MKR 2 9 0x2000
   let r : LaneRx := { lane := 2, amcnt := 8, next := 0, zero := 0, miss := 0, fields := 0x1234, agree := false }
   let now : Nat := 0
   let x := ibfGet s p.val
   (portOn s p = true) ∧
   (tfind x.phys k.val = some r) ∧
   (markerAt x.prx k.val r.next = some m1) ∧
   (timeAt x.prx k.val r.next = some now) ∧
   (x.st = .active) ∧
   (markerOk m1 r.amcnt = true) ∧
   ((fld m1 48 3 : BitVec 3).toNat = r.lane.val) ∧
   (m1.getLsbD 69 = true)) ∧
  (let s : State := PT { st := .active, lanes := 0xFF, phys := [(7, { lane := 2, amcnt := 20, next := 0, zero := 0, miss := 1, fields := 0x1234, agree := false })], prx := { words := [(7, 14)], seen := [(7, (List.range 14).reverse)], inb := [(7, ⟨896, (MKR 2 9 0x1234).toNat + (MKR 2 10 0x1234).toNat * 2 ^ 680⟩)] } }
   let p : PortNo := 1
   let k : Fin 8 := 7
   let m1 : BitVec 120 := MKR 2 9 0x1234
   let r : LaneRx := { lane := 2, amcnt := 20, next := 0, zero := 0, miss := 1, fields := 0x1234, agree := false }
   let now : Nat := 0
   let x := ibfGet s p.val
   (portOn s p = true) ∧
   (tfind x.phys k.val = some r) ∧
   (markerAt x.prx k.val r.next = some m1) ∧
   (timeAt x.prx k.val r.next = some now) ∧
   (x.st = .active) ∧
   (markerOk m1 r.amcnt = false) ∧
   (1 ≤ r.miss) ∧
   (x.lanes.getLsbD r.lane.val = true)) ∧
  (let s : State := PT { st := .train, ready := true, choice := 0x12, taken := some 0x5200, ptx := { live := true }, endAm := some 5 }
   let p : PortNo := 1
   let x := ibfGet s p.val
   (portOn s p = true) ∧
   (x.st = .train) ∧
   (x.ready = true) ∧
   (peerAgrees x x.choice = true) ∧
   (peerReady x = true) ∧
   (x.ptx.live = true) ∧
   (x.endAm.isSome = true)) ∧
  (let s : State := PT { st := .plan, choice := 0x12, planFor := some 2 }
   let p : PortNo := 1
   let x := ibfGet s p.val
   (portOn s p = true) ∧
   (x.st = .plan) ∧
   (x.planFor = some (fld x.choice 0 2))) ∧
  (let s : State := PT { st := .train, traintmo := 1, trainAt := some 0x1234567000 }
   let p : PortNo := 1
   let at_ : BitVec 64 := 0x1234567000
   let x := ibfGet s p.val
   (portOn s p = true) ∧
   (x.st = .train) ∧
   (x.traintmo ≠ 0) ∧
   (x.trainAt = some at_) ∧
   (x.traintmo.toNat * 1000 ≤ (s.tmr.gtime - at_).toNat)) := by
  refine ⟨?_, ?_, ?_, ?_, ?_, ?_, ?_, ?_⟩
  all_goals first | decide +kernel | (repeat' (first | decide +kernel | rfl | refine And.intro ?_ ?_ | (intro h; exact absurd h (by decide +kernel)) | (intros; rfl) | (intro _ _; exact ⟨rfl, rfl⟩) | (simp; done)))

/-- The hypotheses of `TrainingAndLanes`, Lanes and port control. -/
theorem witness_LanesAndPortControl :
  (let s : State := PT { st := .active, lanes := 0xFF, bad := 0x81 }
   let p : PortNo := 1
   let k : Fin 8 := 7
   let x := ibfGet s p.val
   (portOn s p = true) ∧
   (x.st = .active) ∧
   (x.bad.getLsbD k.val = true) ∧
   (x.retired.getLsbD k.val = false) ∧
   (x.st ≠ .off)) ∧
  (let s : State := { PT { st := .active, lanewin := 3, lanethr := 4, lanewn := [(7, 5)] } with hlt := { state := 0 } }
   let p : PortNo := 1
   let x := ibfGet s p.val
   (portOn s p = true) ∧
   (x.lanewin ≠ 0)) ∧
  (let s : State := PT { st := .off, en := false }
   let p : PortNo := 1
   let x := ibfGet s p.val
   (portOn s p = true) ∧
   (x.st = .off) ∧
   (x.dead = false)) ∧
  (let s : State := PT { st := .down, tx := [(0, [.flit 4])] }
   let p : PortNo := 1
   let x := ibfGet s p.val
   (portOn s p = true) ∧
   (x.st = .down)) ∧
  (let s : State := PT { st := .off, dead := true }
   let p : PortNo := 1
   let x := ibfGet s p.val
   (portOn s p = true) ∧
   (x.st = .off) ∧
   (x.dead = true)) := by
  refine ⟨?_, ?_, ?_, ?_, ?_⟩
  all_goals first | decide +kernel | (repeat' (first | decide +kernel | rfl | refine And.intro ?_ ?_ | (intro h; exact absurd h (by decide +kernel)) | (intros; rfl) | (intro _ _; exact ⟨rfl, rfl⟩) | (simp; done)))

/-- The hypotheses of `ManagementLane`, Management accesses. -/
theorem witness_ManagementAccesses :
  (let s : State := SL 1 { PT { mgLoop := [(mgFlit 1 0 5 0x77 9 (5#12 ++ (0x3000 : PAddr)) 33 0 [])] } with spc := { reg := [(1088, { limit := 0x1000000, r := true, w := true, v := true, inst := 1 })], mem := [(0x3000, 9)] } }
   let p : PortNo := 1
   let d : LineData := (mgFlit 1 0 5 0x77 9 (5#12 ++ (0x3000 : PAddr)) 33 0 [])
   let r : List LineData := []
   let code : Byte := 5
   let x := ibfGet s p.val
   let taken := ibfPut s p.val { x with mgLoop := r }
   (fclkOn s = true) ∧
   (x.mgLoop = d :: r) ∧
   (tget [] x.rx 3 = []) ∧
   (isOwn s (mgSrc d) = true) ∧
   (s.cyc.stalled = false) ∧
   (flitNat d 0 1 = 1) ∧
   (mgCheck taken d = some code)) ∧
  (let s : State := SL 1 { PT { mgLoop := [(mgFlit 1 0 5 0x77 9 (5#12 ++ (0x3000 : PAddr)) 2 0 [1, 2])] } with spc := { reg := [(1088, { limit := 0x1000000, r := true, w := true, v := true, inst := 1 })], mem := [(0x3000, 9)] } }
   let p : PortNo := 1
   let d : LineData := (mgFlit 1 0 5 0x77 9 (5#12 ++ (0x3000 : PAddr)) 2 0 [1, 2])
   let r : List LineData := []
   let s2 : State := match (mstWrite (ibfPut s p.val { ibfGet s p.val with mgLoop := r }) 68 (presOf (ibfPut s p.val { ibfGet s p.val with mgLoop := r }) 68 9) 0x3000 [some 1, some 2] none) with | .done u => u | _ => s
   let x := ibfGet s p.val
   let taken := ibfPut s p.val { x with mgLoop := r }
   let m := 67 + p.val
   let n := flitNat d 16 1
   let chan := flitNat d 6 2
   let a := flitNat d 8 7 % 2 ^ 44
   let o := a - s.wvl.spwin.toNat
   let pres := presOf taken m chan
   let same := s2.cpx.devid = s.cpx.devid ∧ s2.twn.alias_ = s.twn.alias_ ∧ s2.twn.peer = s.twn.peer
   let w := mstWrite taken m pres o ((lineBytes d 32 n).map some) none
   (fclkOn s = true) ∧
   (x.mgLoop = d :: r) ∧
   (tget [] x.rx 3 = []) ∧
   (isOwn s (mgSrc d) = true) ∧
   (s.cyc.stalled = false) ∧
   (flitNat d 0 1 = 1) ∧
   (mgCheck taken d = none) ∧
   (same) ∧
   (w = .done s2)) ∧
  (let s : State := SL 1 { PT { mgLoop := [(mgFlit 1 0 5 0x77 9 (5#12 ++ (0x3000 : PAddr)) 2 0 [1, 2])] } with pending := [] }
   let p : PortNo := 1
   let d : LineData := (mgFlit 1 0 5 0x77 9 (5#12 ++ (0x3000 : PAddr)) 2 0 [1, 2])
   let r : List LineData := []
   let s2 : State := match (mstWrite (ibfPut s p.val { ibfGet s p.val with mgLoop := r }) 68 (presOf (ibfPut s p.val { ibfGet s p.val with mgLoop := r }) 68 9) 0x3000 [some 1, some 2] none) with | .refused u => u | _ => s
   let x := ibfGet s p.val
   let taken := ibfPut s p.val { x with mgLoop := r }
   let m := 67 + p.val
   let n := flitNat d 16 1
   let chan := flitNat d 6 2
   let a := flitNat d 8 7 % 2 ^ 44
   let o := a - s.wvl.spwin.toNat
   let pres := presOf taken m chan
   let same := s2.cpx.devid = s.cpx.devid ∧ s2.twn.alias_ = s.twn.alias_ ∧ s2.twn.peer = s.twn.peer
   let w := mstWrite taken m pres o ((lineBytes d 32 n).map some) none
   (fclkOn s = true) ∧
   (x.mgLoop = d :: r) ∧
   (tget [] x.rx 3 = []) ∧
   (isOwn s (mgSrc d) = true) ∧
   (s.cyc.stalled = false) ∧
   (flitNat d 0 1 = 1) ∧
   (mgCheck taken d = none) ∧
   (same) ∧
   (w = .refused s2)) ∧
  (let s : State := SL 1 { PT { mgLoop := [(mgFlit 1 0 5 0x77 9 (5#12 ++ (0x3000 : PAddr)) 2 0 [1, 2])] } with spc := { bad := [0x600], reg := [(1088, { limit := 0x1000000, r := true, w := true, v := true, inst := 1 })], mem := [(0x3000, 9)] } }
   let p : PortNo := 1
   let d : LineData := (mgFlit 1 0 5 0x77 9 (5#12 ++ (0x3000 : PAddr)) 2 0 [1, 2])
   let r : List LineData := []
   let s2 : State := match (mstWrite (ibfPut s p.val { ibfGet s p.val with mgLoop := r }) 68 (presOf (ibfPut s p.val { ibfGet s p.val with mgLoop := r }) 68 9) 0x3000 [some 1, some 2] none) with | .bad u => u | _ => s
   let x := ibfGet s p.val
   let taken := ibfPut s p.val { x with mgLoop := r }
   let m := 67 + p.val
   let n := flitNat d 16 1
   let chan := flitNat d 6 2
   let a := flitNat d 8 7 % 2 ^ 44
   let o := a - s.wvl.spwin.toNat
   let pres := presOf taken m chan
   let same := s2.cpx.devid = s.cpx.devid ∧ s2.twn.alias_ = s.twn.alias_ ∧ s2.twn.peer = s.twn.peer
   let w := mstWrite taken m pres o ((lineBytes d 32 n).map some) none
   (fclkOn s = true) ∧
   (x.mgLoop = d :: r) ∧
   (tget [] x.rx 3 = []) ∧
   (isOwn s (mgSrc d) = true) ∧
   (s.cyc.stalled = false) ∧
   (flitNat d 0 1 = 1) ∧
   (mgCheck taken d = none) ∧
   (same) ∧
   (w = .bad s2)) ∧
  (let s : State := SL 0 { PT { mgLoop := [(mgFlit 1 0 5 0x77 9 (5#12 ++ (0x3000 : PAddr)) 2 0 [1, 2])] } with spc := { reg := [(1088, { limit := 0x1000000, r := true, w := true, v := true, inst := 1 })], mem := [(0x3000, 9)] } }
   let p : PortNo := 1
   let d : LineData := (mgFlit 1 0 5 0x77 9 (5#12 ++ (0x3000 : PAddr)) 2 0 [1, 2])
   let r : List LineData := []
   let s2 : State := match (mstWrite (ibfPut s p.val { ibfGet s p.val with mgLoop := r }) 68 (presOf (ibfPut s p.val { ibfGet s p.val with mgLoop := r }) 68 9) 0x3000 [some 1, some 2] none) with | .held u => u | _ => s
   let x := ibfGet s p.val
   let taken := ibfPut s p.val { x with mgLoop := r }
   let m := 67 + p.val
   let n := flitNat d 16 1
   let chan := flitNat d 6 2
   let a := flitNat d 8 7 % 2 ^ 44
   let o := a - s.wvl.spwin.toNat
   let pres := presOf taken m chan
   let w := mstWrite taken m pres o ((lineBytes d 32 n).map some) none
   (fclkOn s = true) ∧
   (x.mgLoop = d :: r) ∧
   (tget [] x.rx 3 = []) ∧
   (isOwn s (mgSrc d) = true) ∧
   (s.cyc.stalled = false) ∧
   (flitNat d 0 1 = 1) ∧
   (mgCheck taken d = none) ∧
   (w = .held s2) ∧
   (s2.cyc.stalled = true)) ∧
  (let s : State := SL 1 { PT { mgLoop := [(mgFlit 3 0 5 0x77 700 (5#12 ++ (0x3000 : PAddr)) 2 0 [])] } with spc := { reg := [(1088, { limit := 0x1000000, r := true, w := true, v := true, inst := 1 })], mem := [(0x3000, 9)] } }
   let p : PortNo := 1
   let d : LineData := (mgFlit 3 0 5 0x77 700 (5#12 ++ (0x3000 : PAddr)) 2 0 [])
   let r : List LineData := []
   let code : Byte := 2
   let x := ibfGet s p.val
   let taken := ibfPut s p.val { x with mgLoop := r }
   (fclkOn s = true) ∧
   (x.mgLoop = d :: r) ∧
   (tget [] x.rx 3 = []) ∧
   (isOwn s (mgSrc d) = true) ∧
   (s.cyc.stalled = false) ∧
   (flitNat d 0 1 = 3) ∧
   (mgCheck taken d = some code)) ∧
  (let s : State := SL 1 { PT { mgLoop := [(mgFlit 3 0 5 0x77 9 (5#12 ++ (0x3000 : PAddr)) 32 0 [])] } with spc := { reg := [(1088, { limit := 0x1000000, r := true, w := true, v := true, inst := 1 })], mem := [(0x3000, 9)] } }
   let p : PortNo := 1
   let d : LineData := (mgFlit 3 0 5 0x77 9 (5#12 ++ (0x3000 : PAddr)) 32 0 [])
   let r : List LineData := []
   let bs : List Byte := 9 :: List.replicate 31 0
   let s2 : State := (spRead (wordsServe (ibfPut s p.val { ibfGet s p.val with mgLoop := r }) 68 (wordsOf 0x3000 32)).1 68 0x3000 32).1
   let x := ibfGet s p.val
   let taken := ibfPut s p.val { x with mgLoop := r }
   let m := 67 + p.val
   let n := flitNat d 16 1
   let chan := flitNat d 6 2
   let a := flitNat d 8 7 % 2 ^ 44
   let o := a - s.wvl.spwin.toNat
   let pres := presOf taken m chan
   let same := s2.cpx.devid = s.cpx.devid ∧ s2.twn.alias_ = s.twn.alias_ ∧ s2.twn.peer = s.twn.peer
   let u := (wordsServe taken m (wordsOf o n)).1
   (fclkOn s = true) ∧
   (x.mgLoop = d :: r) ∧
   (tget [] x.rx 3 = []) ∧
   (isOwn s (mgSrc d) = true) ∧
   (s.cyc.stalled = false) ∧
   (flitNat d 0 1 = 3) ∧
   (mgCheck taken d = none) ∧
   ((wordsServe taken m (wordsOf o n)).2 = true) ∧
   (same) ∧
   (firstRefused u m pres false ((List.range n).map (· + o)) = none) ∧
   (spRead u m o n = (s2, some bs))) ∧
  (let s : State := SL 1 { PT { mgLoop := [(mgFlit 3 0 5 0x77 9 (5#12 ++ (0x3000 : PAddr)) 32 0 [])] } with spc := { bad := [0x600], reg := [(1088, { limit := 0x1000000, r := true, w := true, v := true, inst := 1 })], mem := [(0x3000, 9)] } }
   let p : PortNo := 1
   let d : LineData := (mgFlit 3 0 5 0x77 9 (5#12 ++ (0x3000 : PAddr)) 32 0 [])
   let r : List LineData := []
   let s2 : State := (spRead (wordsServe (ibfPut s p.val { ibfGet s p.val with mgLoop := r }) 68 (wordsOf 0x3000 32)).1 68 0x3000 32).1
   let x := ibfGet s p.val
   let taken := ibfPut s p.val { x with mgLoop := r }
   let m := 67 + p.val
   let n := flitNat d 16 1
   let chan := flitNat d 6 2
   let a := flitNat d 8 7 % 2 ^ 44
   let o := a - s.wvl.spwin.toNat
   let pres := presOf taken m chan
   let same := s2.cpx.devid = s.cpx.devid ∧ s2.twn.alias_ = s.twn.alias_ ∧ s2.twn.peer = s.twn.peer
   let u := (wordsServe taken m (wordsOf o n)).1
   (fclkOn s = true) ∧
   (x.mgLoop = d :: r) ∧
   (tget [] x.rx 3 = []) ∧
   (isOwn s (mgSrc d) = true) ∧
   (s.cyc.stalled = false) ∧
   (flitNat d 0 1 = 3) ∧
   (mgCheck taken d = none) ∧
   ((wordsServe taken m (wordsOf o n)).2 = true) ∧
   (same) ∧
   (firstRefused u m pres false ((List.range n).map (· + o)) = none) ∧
   (spRead u m o n = (s2, none))) ∧
  (let s : State := SL 1 { PT { mgLoop := [(mgFlit 3 0 5 0x77 9 (5#12 ++ (0x3000 : PAddr)) 32 0 [])] } with pending := [] }
   let p : PortNo := 1
   let d : LineData := (mgFlit 3 0 5 0x77 9 (5#12 ++ (0x3000 : PAddr)) 32 0 [])
   let r : List LineData := []
   let s2 : State := violation (wordsServe (ibfPut s p.val { ibfGet s p.val with mgLoop := r }) 68 (wordsOf 0x3000 32)).1 68 0x3000 false (presInst (presOf (ibfPut s p.val { ibfGet s p.val with mgLoop := r }) 68 9))
   let x := ibfGet s p.val
   let taken := ibfPut s p.val { x with mgLoop := r }
   let m := 67 + p.val
   let n := flitNat d 16 1
   let chan := flitNat d 6 2
   let a := flitNat d 8 7 % 2 ^ 44
   let o := a - s.wvl.spwin.toNat
   let pres := presOf taken m chan
   let same := s2.cpx.devid = s.cpx.devid ∧ s2.twn.alias_ = s.twn.alias_ ∧ s2.twn.peer = s.twn.peer
   let u := (wordsServe taken m (wordsOf o n)).1
   let b := 0x3000
   (fclkOn s = true) ∧
   (x.mgLoop = d :: r) ∧
   (tget [] x.rx 3 = []) ∧
   (isOwn s (mgSrc d) = true) ∧
   (s.cyc.stalled = false) ∧
   (flitNat d 0 1 = 3) ∧
   (mgCheck taken d = none) ∧
   ((wordsServe taken m (wordsOf o n)).2 = true) ∧
   (same) ∧
   (firstRefused u m pres false ((List.range n).map (· + o)) = some b) ∧
   (s2 = violation u m b false (presInst pres))) ∧
  (let s : State := SL 0 { PT { mgLoop := [(mgFlit 3 0 5 0x77 9 (5#12 ++ (0x3000 : PAddr)) 32 0 [])] } with spc := { reg := [(1088, { limit := 0x1000000, r := true, w := true, v := true, inst := 1 })], mem := [(0x3000, 9)] } }
   let p : PortNo := 1
   let d : LineData := (mgFlit 3 0 5 0x77 9 (5#12 ++ (0x3000 : PAddr)) 32 0 [])
   let r : List LineData := []
   let x := ibfGet s p.val
   let taken := ibfPut s p.val { x with mgLoop := r }
   let m := 67 + p.val
   let n := flitNat d 16 1
   let a := flitNat d 8 7 % 2 ^ 44
   let o := a - s.wvl.spwin.toNat
   (fclkOn s = true) ∧
   (x.mgLoop = d :: r) ∧
   (tget [] x.rx 3 = []) ∧
   (isOwn s (mgSrc d) = true) ∧
   (s.cyc.stalled = false) ∧
   (flitNat d 0 1 = 3) ∧
   (mgCheck taken d = none) ∧
   ((wordsServe taken m (wordsOf o n)).2 = false)) := by
  refine ⟨?_, ?_, ?_, ?_, ?_, ?_, ?_, ?_, ?_, ?_⟩
  all_goals first | decide +kernel | (repeat' (first | decide +kernel | rfl | refine And.intro ?_ ?_ | (intro h; exact absurd h (by decide +kernel)) | (intros; rfl) | (intro _ _; exact ⟨rfl, rfl⟩) | (simp; done)))

/-- The hypotheses of `ManagementLane`, Management messages. -/
theorem witness_ManagementMessages :
  (let s : State := SL 1 { PT { mgLoop := [(mgFlit 6 0 5 0x77 0 (5#12 ++ (0 : PAddr)) 0 0 [])], mgrx := List.replicate 8 1, mgtx := [(3, 0x0004D000)] } with wvl := { warp := Slots, slot := 1, routes := [(77, 0x0206)] }, ibf := [(1, { mgLoop := [(mgFlit 6 0 5 0x77 0 (5#12 ++ (0 : PAddr)) 0 0 [])], mgrx := List.replicate 8 1, mgtx := [(3, 0x0004D000)] }), (2, { st := .active })] }
   let p : PortNo := 1
   let d : LineData := (mgFlit 6 0 5 0x77 0 (5#12 ++ (0 : PAddr)) 0 0 [])
   let r : List LineData := []
   let x := ibfGet s p.val
   let mop := flitNat d 0 1
   let taken := ibfPut s p.val { x with mgLoop := r }
   let serves := fun (k : Nat) =>
           let z := slotAt s.wvl.warp k s.wvl.slot.toNat
           (slotOwner z = 67 + p.val ∨ slotLend z = 67 + p.val) ∧ ∀ u ∈ s.cyc.used, u.tbl ≠ k
   let u := optD (outServe (ibfPut s p.val { ibfGet s p.val with mgLoop := r }) 137 68 true) s
   let q : Nat := 2
   let f := mgtxFlit s p.val
   (fclkOn s = true) ∧
   (x.mgLoop = d :: r) ∧
   (tget [] x.rx 3 = []) ∧
   ((mop = 2 ∨ mop = 4 ∨ mop = 6)) ∧
   (8 ≤ x.mgrx.length) ∧
   (outServe taken 137 (67 + p.val) true = some u) ∧
   (serves 137) ∧
   (isOwn s (flitDest 3 f) = false) ∧
   (routePort s (flitDest 3 f) = some q) ∧
   (serves (133 + q)) ∧
   ((tget [] (ibfGet s q).tx 3).length < 32) ∧
   (tget 0 (ibfGet s q).txHold 3 = 0) ∧
   ((∀ a ∈ (tget [] (ibfGet s q).txWait 3).head?, a = 67 + p.val + 128))) ∧
  (let s : State := SL 1 { PT { mgLoop := [(mgFlit 2 0 5 0x77 0 (5#12 ++ (0 : PAddr)) 0 0 [])], mgrx := List.replicate 7 1 } with pending := [] }
   let p : PortNo := 1
   let d : LineData := (mgFlit 2 0 5 0x77 0 (5#12 ++ (0 : PAddr)) 0 0 [])
   let r : List LineData := []
   let x := ibfGet s p.val
   let mop := flitNat d 0 1
   (fclkOn s = true) ∧
   (x.mgLoop = d :: r) ∧
   (tget [] x.rx 3 = []) ∧
   ((mop = 2 ∨ mop = 4 ∨ mop = 6)) ∧
   (x.mgrx.length ≤ 7)) ∧
  (let s : State := SL 1 { PT { mgLoop := [(mgFlit 5 0 5 0x77 0 (5#12 ++ (0 : PAddr)) 4 0 [1,2,3,4])] } with wvl := { warp := Slots, slot := 1, state := 1, srcused := 2 } }
   let p : PortNo := 1
   let d : LineData := (mgFlit 5 0 5 0x77 0 (5#12 ++ (0 : PAddr)) 4 0 [1,2,3,4])
   let r : List LineData := []
   let x := ibfGet s p.val
   let mop := flitNat d 0 1
   let taken := ibfPut s p.val { x with mgLoop := r }
   let u := optD (outServe (ibfPut s p.val { ibfGet s p.val with mgLoop := r }) 137 68 true) s
   (fclkOn s = true) ∧
   (x.mgLoop = d :: r) ∧
   (tget [] x.rx 3 = []) ∧
   (outServe taken 137 (67 + p.val) true = some u) ∧
   (mop = 5) ∧
   (flitNat d 16 1 = 4)) ∧
  (let s : State := SL 1 { PT { mgLoop := [(mgFlit 5 0 5 0x77 0 (5#12 ++ (0 : PAddr)) 3 0 [1,2,3])] } with pending := [] }
   let p : PortNo := 1
   let d : LineData := (mgFlit 5 0 5 0x77 0 (5#12 ++ (0 : PAddr)) 3 0 [1,2,3])
   let r : List LineData := []
   let x := ibfGet s p.val
   let mop := flitNat d 0 1
   (fclkOn s = true) ∧
   (x.mgLoop = d :: r) ∧
   (tget [] x.rx 3 = []) ∧
   (mop = 5) ∧
   (flitNat d 16 1 % 4 ≠ 0)) ∧
  (let s : State := SL 1 { PT { mgLoop := [(mgFlit 7 0 5 0x77 0 (5#12 ++ (0 : PAddr)) 4 0 [6,0,0,0])], peer := 5, peerv := true } with wvl := { warp := Slots, slot := 1, state := 4 } }
   let p : PortNo := 1
   let d : LineData := (mgFlit 7 0 5 0x77 0 (5#12 ++ (0 : PAddr)) 4 0 [6,0,0,0])
   let r : List LineData := []
   let x := ibfGet s p.val
   let mop := flitNat d 0 1
   let taken := ibfPut s p.val { x with mgLoop := r }
   let u := optD (outServe (ibfPut s p.val { ibfGet s p.val with mgLoop := r }) 137 68 true) s
   (fclkOn s = true) ∧
   (x.mgLoop = d :: r) ∧
   (tget [] x.rx 3 = []) ∧
   (outServe taken 137 (67 + p.val) true = some u) ∧
   (mop = 7) ∧
   (x.peerv = true) ∧
   (mgSrc d = x.peer) ∧
   (flitNat d 16 1 = 4) ∧
   ((s.wvl.state = 4 ∨ s.wvl.state = 5))) ∧
  (let s : State := SL 1 { PT { mgLoop := [(mgFlit 7 0 5 0x77 0 (5#12 ++ (0 : PAddr)) 4 0 [6,0,0,0])], peer := 6, peerv := true } with wvl := { warp := Slots, slot := 1, state := 4 } }
   let p : PortNo := 1
   let d : LineData := (mgFlit 7 0 5 0x77 0 (5#12 ++ (0 : PAddr)) 4 0 [6,0,0,0])
   let r : List LineData := []
   let x := ibfGet s p.val
   let mop := flitNat d 0 1
   (fclkOn s = true) ∧
   (x.mgLoop = d :: r) ∧
   (tget [] x.rx 3 = []) ∧
   (mop = 7) ∧
   (mgSrc d ≠ x.peer)) := by
  refine ⟨?_, ?_, ?_, ?_, ?_, ?_⟩
  all_goals first | decide +kernel | (repeat' (first | decide +kernel | rfl | refine And.intro ?_ ?_ | (intro h; exact absurd h (by decide +kernel)) | (intros; rfl) | (intro _ _; exact ⟨rfl, rfl⟩) | (simp; done)))

/-- The hypotheses of `JournalLinks`, Journal sent. -/
theorem witness_JournalSent :
  (let s : State := SL 4 <| TW { st := .sync, role := 1, jbuf := [{ kind := .copy, seq := 1, addr := 0, mask := 1, data := 0 }, { kind := .record, seq := 0xFFFFFFFFFFFF, addr := 0x500000003000, mask := 0x81, data := 0x1122334455667788 }], unsent := 1, begin_ := true } { st := .active }
   let x : JEntry := { kind := .record, seq := 0xFFFFFFFFFFFF, addr := 0x500000003000, mask := 0x81, data := 0x1122334455667788 }
   let old : List JEntry := [{ kind := .copy, seq := 1, addr := 0, mask := 1, data := 0 }]
   let t := s.twn
   let p := t.port.val
   let q := tget [] (ibfGet s p).tx 2
   let z := slotAt s.wvl.warp (133 + p) s.wvl.slot.toNat
   (fclkOn s = true) ∧
   ((slotOwner z = 65 ∨ slotLend z = 65)) ∧
   ((∀ u ∈ s.cyc.used, u.tbl ≠ 133 + p)) ∧
   (q.length < 32) ∧
   (tget 0 (ibfGet s p).txHold 2 = 0) ∧
   ((∀ a ∈ (tget [] (ibfGet s p).txWait 2).head?, a = 65)) ∧
   (t.st = .sync ∨ t.st = .paired) ∧
   (t.jbuf = old ++ [x]) ∧
   (t.unsent = 1)) ∧
  (let s : State := SL 4 { TW { st := .fenced, role := 3, own := 2, txsync := true } { st := .active } with tmr := { gtime := 5000 } }
   let t := s.twn
   let p := t.port.val
   let q := tget [] (ibfGet s p).tx 2
   let z := slotAt s.wvl.warp (133 + p) s.wvl.slot.toNat
   (fclkOn s = true) ∧
   ((slotOwner z = 65 ∨ slotLend z = 65)) ∧
   ((∀ u ∈ s.cyc.used, u.tbl ≠ 133 + p)) ∧
   (q.length < 32) ∧
   (tget 0 (ibfGet s p).txHold 2 = 0) ∧
   ((∀ a ∈ (tget [] (ibfGet s p).txWait 2).head?, a = 65)) ∧
   (t.st = .sync ∨ t.st = .paired ∨ t.st = .wait ∨ t.st = .fenced) ∧
   (s.tmr.gtime.toNat % 1000 = 0)) ∧
  (let s : State := SL 4 <| TW { st := .paired, role := 2, ackDue := true, rxnext := 0xFFFFFFFFFFFF, applyerrcnt := 0xFFFFFFFF } { st := .active }
   let t := s.twn
   let p := t.port.val
   let q := tget [] (ibfGet s p).tx 2
   let z := slotAt s.wvl.warp (133 + p) s.wvl.slot.toNat
   (fclkOn s = true) ∧
   ((slotOwner z = 65 ∨ slotLend z = 65)) ∧
   ((∀ u ∈ s.cyc.used, u.tbl ≠ 133 + p)) ∧
   (q.length < 32) ∧
   (tget 0 (ibfGet s p).txHold 2 = 0) ∧
   ((∀ a ∈ (tget [] (ibfGet s p).txWait 2).head?, a = 65)) ∧
   (t.st = .sync ∨ t.st = .paired) ∧
   (t.ackDue = true) ∧
   (t.lastAck = none)) := by
  refine ⟨?_, ?_, ?_⟩
  all_goals first | decide +kernel | (repeat' (first | decide +kernel | rfl | refine And.intro ?_ ?_ | (intro h; exact absurd h (by decide +kernel)) | (intros; rfl) | (intro _ _; exact ⟨rfl, rfl⟩) | (simp; done)))

/-- The hypotheses of `JournalLinks`, Journal received. -/
theorem witness_JournalReceived :
  (let s : State := TW { st := .sync, role := 2, rxnext := 0xFFFFFFFFFFFF } { st := .active, rx := [(2, [.flit (JFL 1 1 0 0xFFFFFFFFFFFF 6 (List.replicate 16 (0x11 : Byte))), .flit 5])] }
   let d : LineData := JFL 1 1 0 0xFFFFFFFFFFFF 6 (List.replicate 16 (0x11 : Byte))
   let l : List LaneFlit := [.flit 5]
   let k : Fin 3 := 0
   let t := s.twn
   let p := t.port.val
   let n := flitNat d 1 1
   let seq := BitVec.ofNat 48 (flitNat d 4 6)
   (fclkOn s = true) ∧
   (tget [] (ibfGet s p).rx 2 = .flit d :: l) ∧
   (t.st = .sync) ∧
   (flitNat d 0 1 = (if k.val = 0 then 1 else if k.val = 1 then 4 else 5)) ∧
   (flitNat d 2 1 = 0) ∧
   (t.applyq.length + n ≤ 128) ∧
   (seq = t.rxnext)) ∧
  (let s : State := TW { st := .sync, role := 2, rxnext := 7, rxsync := true } { st := .active, rx := [(2, [.flit (JFL 4 1 0 9 6 (List.replicate 16 (0x11 : Byte))), .flit 5])] }
   let d : LineData := JFL 4 1 0 9 6 (List.replicate 16 (0x11 : Byte))
   let l : List LaneFlit := [.flit 5]
   let k : Fin 3 := 1
   let t := s.twn
   let p := t.port.val
   let n := flitNat d 1 1
   let seq := BitVec.ofNat 48 (flitNat d 4 6)
   (fclkOn s = true) ∧
   (tget [] (ibfGet s p).rx 2 = .flit d :: l) ∧
   (t.st = .sync) ∧
   (flitNat d 0 1 = (if k.val = 0 then 1 else if k.val = 1 then 4 else 5)) ∧
   (flitNat d 2 1 = 0) ∧
   (t.applyq.length + n ≤ 128) ∧
   (seq ≠ t.rxnext)) ∧
  (let s : State := TW { st := .paired, role := 1, acknext := 0xFFFFFFFFFFFF, txseq := 3, jbuf := [{ kind := .copy, seq := 0, addr := 0, mask := 1, data := 0 }, { kind := .copy, seq := 1, addr := 0, mask := 1, data := 0 }] } { st := .active, rx := [(2, [.flit (JFL 2 0 0 1 6 []), .flit 5])] }
   let d : LineData := JFL 2 0 0 1 6 []
   let l : List LaneFlit := [.flit 5]
   let t := s.twn
   let p := t.port.val
   let seq := BitVec.ofNat 48 (flitNat d 4 6)
   (fclkOn s = true) ∧
   (tget [] (ibfGet s p).rx 2 = .flit d :: l) ∧
   (t.st = .sync ∨ t.st = .paired) ∧
   (flitNat d 0 1 = 2) ∧
   (seqBefore t.acknext seq = true) ∧
   (seq = t.txseq ∨ seqBefore seq t.txseq = true)) ∧
  (let s : State := TW { st := .paired, role := 1, acknext := 5, txseq := 9 } { st := .active, rx := [(2, [.flit (JFL 2 0 0 5 6 []), .flit 5])] }
   let d : LineData := JFL 2 0 0 5 6 []
   let l : List LaneFlit := [.flit 5]
   let t := s.twn
   let p := t.port.val
   let seq := BitVec.ofNat 48 (flitNat d 4 6)
   (fclkOn s = true) ∧
   (tget [] (ibfGet s p).rx 2 = .flit d :: l) ∧
   (t.st = .sync ∨ t.st = .paired) ∧
   (flitNat d 0 1 = 2) ∧
   (seqBefore t.acknext seq = false)) ∧
  (let s : State := TW { st := .wait, role := 1 } { st := .active, rx := [(2, [.flit (JFL 3 0 4 0 6 []), .flit 5])] }
   let d : LineData := JFL 3 0 4 0 6 []
   let l : List LaneFlit := [.flit 5]
   let t := s.twn
   let p := t.port.val
   (fclkOn s = true) ∧
   (tget [] (ibfGet s p).rx 2 = .flit d :: l) ∧
   (flitNat d 0 1 = 3)) := by
  refine ⟨?_, ?_, ?_, ?_, ?_⟩
  all_goals first | decide +kernel | (repeat' (first | decide +kernel | rfl | refine And.intro ?_ ?_ | (intro h; exact absurd h (by decide +kernel)) | (intros; rfl) | (intro _ _; exact ⟨rfl, rfl⟩) | (simp; done)))

/-- The hypotheses of `TwinStates`, Journal applied. -/
theorem witness_JournalApplied :
  (let s : State := SL 4 { TW { st := .sync, role := 2, peer := 5, applyq := [{ kind := .record, seq := 0x10, addr := 0x500000003000, mask := 0x81, data := 0x1122334455667788 }], mr := [(0, { base := 0x2000, limit := 0x4000, en := true, dir := false })] } {} with spc := { reg := [(1040, { limit := 0x1000000, r := true, w := true, v := true })], mem := [(0x3001, 7)] } }
   let x : JEntry := { kind := .record, seq := 0x10, addr := 0x500000003000, mask := 0x81, data := 0x1122334455667788 }
   let r : List JEntry := []
   let k : Nat := 0
   let a := x.addr.toNat % 2 ^ 44
   let pa : PAddr := BitVec.ofNat 44 a
   let o := winOff s pa
   let w := o / 8
   let z := slotAt s.wvl.warp (2 * (w % 64)) s.wvl.slot.toNat
   (fclkOn s = true) ∧
   (s.twn.applyq = x :: r) ∧
   (x.kind ≠ .lot) ∧
   (x.addr.toNat / 2 ^ 44 = s.twn.peer.toNat) ∧
   (inWindow s pa = true) ∧
   (o % 8 = 0) ∧
   ((∀ k < 8, x.mask.getLsbD k = true → (mapBit (mirrorRegs s false) (a + k) 0).isSome = true)) ∧
   (s.spc.bad = []) ∧
   ((slotOwner z = 65 ∨ slotLend z = 65)) ∧
   ((∀ u ∈ s.cyc.used, u.tbl / 2 ≠ w % 64)) ∧
   ((∀ y ∈ s.cyc.wrote, y.word ≠ w)) ∧
   (x.kind = .record) ∧
   (s.twn.mapUse = false) ∧
   ((∀ y ∈ r, y.kind ≠ .copy))) ∧
  (let s : State := SL 4 { TW { st := .sync, role := 2, peer := 5, applyq := [{ kind := .lot, seq := 0x10, addr := 1, mask := 0, data := 0x12345 }], mr := [(0, { base := 0x2000, limit := 0x4000, en := true, dir := false })] } {} with spc := { reg := [(1040, { limit := 0x1000000, r := true, w := true, v := true })], mem := [(0x3001, 7)] } }
   let x : JEntry := { kind := .lot, seq := 0x10, addr := 1, mask := 0, data := 0x12345 }
   let r : List JEntry := []
   let i := x.addr.toNat
   (fclkOn s = true) ∧
   (s.twn.applyq = x :: r) ∧
   (x.kind = .lot) ∧
   ((insGet s i).en = true) ∧
   (ownsInst s i = false)) ∧
  (let s : State := SL 4 { TW { st := .sync, role := 1, peer := 5, applyq := [{ kind := .lot, seq := 0x10, addr := 1, mask := 0, data := 0x12345 }], mr := [(0, { base := 0x2000, limit := 0x4000, en := true, dir := false })] } {} with spc := { reg := [(1040, { limit := 0x1000000, r := true, w := true, v := true })], mem := [(0x3001, 7)] } }
   let x : JEntry := { kind := .lot, seq := 0x10, addr := 1, mask := 0, data := 0x12345 }
   let r : List JEntry := []
   let i := x.addr.toNat
   (fclkOn s = true) ∧
   (s.twn.applyq = x :: r) ∧
   (x.kind = .lot) ∧
   ((insGet s i).en = true) ∧
   (ownsInst s i = true)) ∧
  (let s : State := SL 4 { TW { st := .sync, role := 2, peer := 5, applyq := [{ kind := .lot, seq := 0x10, addr := 2, mask := 0, data := 0x12345 }], mr := [(0, { base := 0x2000, limit := 0x4000, en := true, dir := false })] } {} with spc := { reg := [(1040, { limit := 0x1000000, r := true, w := true, v := true })], mem := [(0x3001, 7)] } }
   let x : JEntry := { kind := .lot, seq := 0x10, addr := 2, mask := 0, data := 0x12345 }
   let r : List JEntry := []
   let i := x.addr.toNat
   (fclkOn s = true) ∧
   (s.twn.applyq = x :: r) ∧
   (x.kind = .lot) ∧
   ((insGet s i).en = false)) ∧
  (let s : State := SL 4 { TW { st := .sync, role := 2, rsmap := 0x2000000, mapUse := true, peer := 5, applyq := [{ kind := .copy, seq := 0x10, addr := 0x500000003000, mask := 0x81, data := 0x1122334455667788 }], mr := [(0, { base := 0x2000, limit := 0x4000, en := true, dir := false })] } {} with spc := { reg := [(1040, { limit := 0x1000000, r := true, w := true, v := true })], mem := [(0x3001, 7)] }, reads := [⟨.map, 0, some (some 7), false⟩] }
   let x : JEntry := { kind := .copy, seq := 0x10, addr := 0x500000003000, mask := 0x81, data := 0x1122334455667788 }
   let r : List JEntry := []
   let q : PortRead := ⟨.map, 0, some (some 7), false⟩
   let line : LineData := 7
   let k : Nat := (mapBit (mirrorRegs s false) 0x3000 0).getD 0
   let a := x.addr.toNat % 2 ^ 44
   let pa : PAddr := BitVec.ofNat 44 a
   let o := winOff s pa
   let w := o / 8
   let z := slotAt s.wvl.warp (2 * (w % 64)) s.wvl.slot.toNat
   let mapPA := s.twn.rsmap + BitVec.ofNat 44 (k / 8)
   (fclkOn s = true) ∧
   (s.twn.applyq = x :: r) ∧
   (x.kind ≠ .lot) ∧
   (x.addr.toNat / 2 ^ 44 = s.twn.peer.toNat) ∧
   (inWindow s pa = true) ∧
   (o % 8 = 0) ∧
   ((∀ k < 8, x.mask.getLsbD k = true → (mapBit (mirrorRegs s false) (a + k) 0).isSome = true)) ∧
   (s.spc.bad = []) ∧
   ((slotOwner z = 65 ∨ slotLend z = 65)) ∧
   ((∀ u ∈ s.cyc.used, u.tbl / 2 ≠ w % 64)) ∧
   ((∀ y ∈ s.cyc.wrote, y.word ≠ w)) ∧
   (x.kind = .copy) ∧
   (mapBit (mirrorRegs s false) a 0 = some k) ∧
   (inWindow s mapPA = false) ∧
   (readOf s .map 0 = some q) ∧
   (q.ans = some (some line))) := by
  refine ⟨?_, ?_, ?_, ?_, ?_⟩
  all_goals first | decide +kernel | (repeat' (first | decide +kernel | rfl | refine And.intro ?_ ?_ | (intro h; exact absurd h (by decide +kernel)) | (intros; rfl) | (intro _ _; exact ⟨rfl, rfl⟩) | (simp; done)))

/-- The hypotheses of `TwinStates`, Partner loss handled. -/
theorem witness_PartnerLossHandled :
  (let s : State := { TW { st := .paired, role := 1, accepted := true, miss := 5 } {} with tmr := { gtime := 7000 } }
   let t := s.twn
   (fclkOn s = true) ∧
   (s.tmr.gtime.toNat % 1000 = 0) ∧
   ((t.st = .paired ∨ t.st = .sync ∨ t.st = .wait)) ∧
   (t.accepted = true)) ∧
  (let s : State := { TW { st := .sync, role := 1, miss := 6 } {} with tmr := { gtime := 7000 } }
   let t := s.twn
   (fclkOn s = true) ∧
   ((t.st = .paired ∨ t.st = .sync ∨ t.st = .wait)) ∧
   (t.accepted = false) ∧
   (t.miss.toNat ≤ 6)) ∧
  (let s : State := { TW { st := .paired, role := 1, miss := 7, capture := true, jbuf := [{ kind := .copy, seq := 1, addr := 0, mask := 1, data := 0 }] } {} with tmr := { gtime := 7000 } }
   let t := s.twn
   (fclkOn s = true) ∧
   ((t.st = .paired ∨ t.st = .sync ∨ t.st = .wait ∨ t.st = .fenced)) ∧
   (t.accepted = false) ∧
   (t.miss = 7) ∧
   (t.role = 1)) ∧
  (let s : State := { TW { st := .paired, role := 2, miss := 7, rxsync := true } {} with tmr := { gtime := 7000 } }
   let t := s.twn
   (fclkOn s = true) ∧
   ((t.st = .paired ∨ t.st = .sync ∨ t.st = .wait)) ∧
   (t.accepted = false) ∧
   (t.miss = 7) ∧
   (t.role = 2) ∧
   (t.rxsync = true)) ∧
  (let s : State := { TW { st := .sync, role := 2, miss := 7 } {} with tmr := { gtime := 7000 } }
   let t := s.twn
   (fclkOn s = true) ∧
   ((t.st = .paired ∨ t.st = .sync ∨ t.st = .wait)) ∧
   (t.accepted = false) ∧
   (t.miss = 7) ∧
   (t.role = 2) ∧
   (t.rxsync = false)) ∧
  (let s : State := { TW { st := .promoting, role := 2, peer := 6, peerv := true } {} with tmr := { gtime := 7000 } }
   let t := s.twn
   (fclkOn s = true) ∧
   (t.st = .promoting) ∧
   (t.applyq = []) ∧
   (t.fenceNext = none)) := by
  refine ⟨?_, ?_, ?_, ?_, ?_, ?_⟩
  all_goals first | decide +kernel | (repeat' (first | decide +kernel | rfl | refine And.intro ?_ ?_ | (intro h; exact absurd h (by decide +kernel)) | (intros; rfl) | (intro _ _; exact ⟨rfl, rfl⟩) | (simp; done)))

/-- The hypotheses of `TwinStates`, Twin controls. -/
theorem witness_TwinControls :
  (let s : State := TW { st := .wait, role := 1, hbRole := 2, hbAge := 1 } {}
   let t := s.twn
   (fclkOn s = true) ∧
   (t.start = false) ∧
   (t.st = .wait) ∧
   (t.role = 1) ∧
   (t.hbRole = 2) ∧
   (t.hbAge.toNat ≤ 1) ∧
   (t.st = .none_ ∨ t.st = .wait) ∧
   (t.st = .fenced ∨ t.st = .wait)) ∧
  (let s : State := { TW { st := .sync, role := 1, capture := true, copyAt := some 0x2000000, mr := [(0, { base := 0x2000000, limit := 0x2000010, en := true, dir := true })] } {} with reads := [⟨.copy, 0, some (some 7), false⟩] }
   let a : Nat := 0x2000000
   let q : PortRead := ⟨.copy, 0, some (some 7), false⟩
   let line : LineData := 7
   let t := s.twn
   (fclkOn s = true) ∧
   (t.st = .sync ∨ t.st = .paired ∨ t.st = .promoting) ∧
   (t.st = .sync ∧ t.capture = true) ∧
   (t.copyAt = some a) ∧
   (t.jbuf.length < 4096) ∧
   (outgoing s a = true) ∧
   (inWindow s (BitVec.ofNat 44 a) = false) ∧
   (readOf s .copy 0 = some q) ∧
   (q.ans = some (some line)) ∧
   (s.cyc.jrn = [])) ∧
  (let s : State := TW { st := .none_, role := 0 } {}
   let t := s.twn
   (fclkOn s = true) ∧
   (t.start = false) ∧
   (t.st = .none_)) := by
  refine ⟨?_, ?_, ?_⟩
  all_goals first | decide +kernel | (repeat' (first | decide +kernel | rfl | refine And.intro ?_ ?_ | (intro h; exact absurd h (by decide +kernel)) | (intros; rfl) | (intro _ _; exact ⟨rfl, rfl⟩) | (simp; done)))

/-- The hypotheses of `InstancesAndMarks`, Instance commands. -/
theorem witness_InstanceCommands :
  (let s : State := { CH { owner := [(2, 9)], chains := [(2, { CHN .owned RQ [2] with lot := 6 })], descq := [] } with ins := { i := [(1, { en := true, eng := 8, first := 8, chans := 8, share := 4, lot := 0xFFFF, reset := true })] }, evg := { src := [(384, { inst := 1, count := 3, acc := 2 })] } }
   let i : InstNo := 1
   let x := insGet s i.val
   let boundary := s.wvl.slot = 0 ∧ s.cpx.commitq = []
   (fclkOn s = true) ∧
   (x.en = true) ∧
   (x.reset = true) ∧
   (x.sweep = false) ∧
   (x.switch_ = false) ∧
   (boundary) ∧
   (x.late = 0) ∧
   (s.twn.jbuf.length < 4096)) ∧
  (let s : State := { CH { owner := [(2, 9)], chains := [(2, { CHN .owned RQ [2] with lot := 6 })], descq := [] } with ins := { i := [(1, { en := true, eng := 8, first := 8, chans := 8, share := 4, lot := 0xFFFF, sweep := true })] }, evg := { src := [(384, { inst := 1, count := 3, acc := 2 })] } }
   let i : InstNo := 1
   let x := insGet s i.val
   let boundary := s.wvl.slot = 0 ∧ s.cpx.commitq = []
   (fclkOn s = true) ∧
   (x.en = true) ∧
   (x.reset = false) ∧
   (ownsInst s i.val = true) ∧
   (boundary) ∧
   (x.sweep = true) ∧
   (x.late = 0) ∧
   ((sweepNow s i.val).cyc.stalled = false)) ∧
  (let s : State := { CH { owner := [(2, 9)], chains := [(2, { CHN .owned RQ [2] with lot := 6 })], descq := [] } with ins := { i := [(1, { en := true, eng := 8, first := 8, chans := 8, share := 4, lot := 0xFFFF, dmap := 0 })] }, evg := { src := [(384, { inst := 1, count := 3, acc := 2 })] }, twn := { role := 2, st := .sync } }
   let i : InstNo := 1
   let x := insGet s i.val
   (fclkOn s = true) ∧
   (x.en = true) ∧
   (x.reset = false) ∧
   (ownsInst s i.val = false)) ∧
  (let s : State := { CH { owner := [(2, 9)], chains := [(2, { CHN .owned RQ [2] with lot := 6 })], descq := [] } with ins := { i := [(1, { en := true, eng := 8, first := 8, chans := 8, share := 4, lot := 0xFFFF, switch_ := true })] }, evg := { src := [(384, { inst := 1, count := 3, acc := 2 })] } }
   let i : InstNo := 1
   let x := insGet s i.val
   let boundary := s.wvl.slot = 0 ∧ s.cpx.commitq = []
   (fclkOn s = true) ∧
   (x.en = true) ∧
   (boundary) ∧
   (x.switch_ = true) ∧
   (x.late = 0) ∧
   (x.drain = none) ∧
   ((∀ m ∈ s.ins.marks, m.inst ≠ i))) ∧
  (let s : State := { CH { owner := [(2, 9), (3, 9)], chains := [(2, { CHN .owned RQ [2, 3] with lot := 6 })] } with wvl := { (CH {}).wvl with warp := (List.range 138).map fun t => (256 * t, 0xFF03) }, ins := { i := [(1, { en := true, eng := 8, first := 8, chans := 8, share := 4, lot := 0xFFFF, sweep := true })] } }
   let i : InstNo := 1
   let x := insGet s i.val
   let boundary := s.wvl.slot = 0 ∧ s.cpx.commitq = []
   (fclkOn s = true) ∧
   (x.en = true) ∧
   (boundary) ∧
   (x.sweep = true) ∧
   (x.late = 0) ∧
   (s.cyc.stalled = false) ∧
   ((sweepNow s i.val).cyc.stalled = true)) := by
  refine ⟨?_, ?_, ?_, ?_, ?_⟩
  all_goals first | decide +kernel | (repeat' (first | decide +kernel | rfl | refine And.intro ?_ ?_ | (intro h; exact absurd h (by decide +kernel)) | (intros; rfl) | (intro _ _; exact ⟨rfl, rfl⟩) | (simp; done)))

/-- The hypotheses of `InstancesAndMarks`, Dirty marks set. -/
theorem witness_DirtyMarksSet :
  (let s : State := { W0 with wvl := { W0.wvl with warp := (List.range 138).map fun t => (256 * t, 0xFF49) }, spc := { reg := [(1168, { limit := 0x1000000, r := true, w := true, v := true })], mem := [(0x3047, 0x80)] }, ins := { i := [(1, { en := true, dmap := 0x3000, trk := 4, trklen := 1, ring := 0x4000 })], marks := [{ inst := 1, n := 63, frame := 63, sel := true }] } }
   let m : Mark := { inst := 1, n := 63, frame := 63, sel := true }
   let r : List Mark := []
   let rd : Ecc := .good
   let x := insGet s m.inst.val
   let pa := x.dmap + BitVec.ofNat 44 ((if m.sel then x.trklen.toNat * 64 else 0) + m.n / 64 * 8)
   let o := winOff s pa
   let w := o / 8
   let word := leNat (mread spadDefault s.spc.mem o 8)
   let mine := (List.range 8).map (· + o)
   let serves := slotOwner (slotAt s.wvl.warp (2 * (w % 64)) s.wvl.slot.toNat) = 73 ∧ ∀ u ∈ s.cyc.used, u.tbl / 2 ≠ w % 64
   (fclkOn s = true) ∧
   (s.ins.marks = m :: r) ∧
   (inWindow s pa = true) ∧
   (pa.toNat % 8 = 0) ∧
   (s.wvl.spwin.toNat % 8 = 0) ∧
   (s.spc.bad = []) ∧
   (rd ≠ .uncorrectable) ∧
   ((w % 64, 73) ∉ s.spc.paths) ∧
   ((∀ y ∈ s.cyc.wrote, y.word ≠ w)) ∧
   (firstRefused s 73 .every false mine = none) ∧
   (word.testBit (m.n % 64) = true) ∧
   ((serves ∨ (73, w) ∈ s.spc.prog))) ∧
  (let s : State := { W0 with wvl := { W0.wvl with warp := (List.range 138).map fun t => (256 * t, 0xFF49) }, spc := { reg := [(1168, { limit := 0x1000000, r := true, w := true, v := true })], mem := [(0x3047, 0x40)] }, ins := { i := [(1, { en := true, dmap := 0x3000, trk := 4, trklen := 1, ring := 0x4000 })], marks := [{ inst := 1, n := 63, frame := 63, sel := true }] } }
   let m : Mark := { inst := 1, n := 63, frame := 63, sel := true }
   let r : List Mark := []
   let rd : Ecc := .good
   let x := insGet s m.inst.val
   let pa := x.dmap + BitVec.ofNat 44 ((if m.sel then x.trklen.toNat * 64 else 0) + m.n / 64 * 8)
   let o := winOff s pa
   let w := o / 8
   let word := leNat (mread spadDefault s.spc.mem o 8)
   let mine := (List.range 8).map (· + o)
   let serves := slotOwner (slotAt s.wvl.warp (2 * (w % 64)) s.wvl.slot.toNat) = 73 ∧ ∀ u ∈ s.cyc.used, u.tbl / 2 ≠ w % 64
   (fclkOn s = true) ∧
   (s.ins.marks = m :: r) ∧
   (inWindow s pa = true) ∧
   (pa.toNat % 8 = 0) ∧
   (s.wvl.spwin.toNat % 8 = 0) ∧
   (s.spc.bad = []) ∧
   (rd ≠ .uncorrectable) ∧
   ((w % 64, 73) ∉ s.spc.paths) ∧
   ((∀ y ∈ s.cyc.wrote, y.word ≠ w)) ∧
   (firstRefused s 73 .every false mine = none) ∧
   (word.testBit (m.n % 64) = false) ∧
   (serves) ∧
   ((73, w) ∉ s.spc.prog) ∧
   (s.cyc.stalled = false) ∧
   (s.cyc.base = none)) ∧
  (let s : State := { W0 with wvl := { W0.wvl with warp := (List.range 138).map fun t => (256 * t, 0xFF49) }, spc := { prog := [(73, 1544)], reg := [(1168, { limit := 0x1000000, r := true, w := true, v := true })], mem := [(0x3047, 0x40)] }, ins := { i := [(1, { en := true, dmap := 0x3000, trk := 4, trklen := 1, ring := 0x4000 })], marks := [{ inst := 1, n := 63, frame := 63, sel := true }] } }
   let m : Mark := { inst := 1, n := 63, frame := 63, sel := true }
   let r : List Mark := []
   let rd : Ecc := .good
   let x := insGet s m.inst.val
   let pa := x.dmap + BitVec.ofNat 44 ((if m.sel then x.trklen.toNat * 64 else 0) + m.n / 64 * 8)
   let o := winOff s pa
   let w := o / 8
   let word := leNat (mread spadDefault s.spc.mem o 8)
   let mine := (List.range 8).map (· + o)
   let serves := slotOwner (slotAt s.wvl.warp (2 * (w % 64)) s.wvl.slot.toNat) = 73 ∧ ∀ u ∈ s.cyc.used, u.tbl / 2 ≠ w % 64
   (fclkOn s = true) ∧
   (s.ins.marks = m :: r) ∧
   (inWindow s pa = true) ∧
   (pa.toNat % 8 = 0) ∧
   (s.wvl.spwin.toNat % 8 = 0) ∧
   (s.spc.bad = []) ∧
   (rd ≠ .uncorrectable) ∧
   ((w % 64, 73) ∉ s.spc.paths) ∧
   ((∀ y ∈ s.cyc.wrote, y.word ≠ w)) ∧
   (firstRefused s 73 .every false mine = none) ∧
   (word.testBit (m.n % 64) = false) ∧
   (serves) ∧
   ((73, w) ∈ s.spc.prog) ∧
   (firstRefused s 73 .every true mine = none) ∧
   (x.rlog = 0)) := by
  refine ⟨?_, ?_, ?_⟩
  all_goals first | decide +kernel | (repeat' (first | decide +kernel | rfl | refine And.intro ?_ ?_ | (intro h; exact absurd h (by decide +kernel)) | (intros; rfl) | (intro _ _; exact ⟨rfl, rfl⟩) | (simp; done)))

/-- The hypotheses of `NvmAndHealthLog`, Nvm commands begin. -/
theorem witness_NvmCommandsBegin :
  (let s : State := SL 5 { W0 with nvc := { treqen := true, treqbase := 0x3000, taggrant := 0x20 }, spc := { mem := [(0x3640, 0x78), (0x3641, 4), (0x3643, 0x80)] } }
   let w : Fin 1024 := 3
   let i : InstNo := 5
   let bs : List Byte := [0x78, 4, 0, 0x80]
   let n := s.nvc
   (clkOn s .mgclk = true) ∧
   (w.val < 4) ∧
   (fclkOn s = true) ∧
   (n.busy = false) ∧
   (n.treqen = true) ∧
   (n.taggrant = BitVec.ofNat 64 (2 ^ i.val)) ∧
   ((mstRead s 72 .every (n.treqbase.toNat + 320 * i.val) 4).2 = some bs) ∧
   ((leNat bs).testBit 31 = true) ∧
   (leNat bs % 256 = 0x78)) ∧
  (let s : State := NV { busy := true }
   let w : Fin 1024 := 4
   (clkOn s .mgclk = true) ∧
   (4 ≤ w.val)) := by
  refine ⟨?_, ?_⟩
  all_goals first | decide +kernel | (repeat' (first | decide +kernel | rfl | refine And.intro ?_ ?_ | (intro h; exact absurd h (by decide +kernel)) | (intros; rfl) | (intro _ _; exact ⟨rfl, rfl⟩) | (simp; done)))

/-- The hypotheses of `NvmAndHealthLog`, Nvm commands complete. -/
theorem witness_NvmCommandsComplete :
  (let s : State := SL 5 <| NV { busy := true, cmd := some ({ op := .program, addr := 0, len := 0, spoff := 0, tagsel := 0, slot := none, image := [], err := 3 }), setseq := 0 }
   let c : NvmCmd := { op := .program, addr := 0, len := 0, spoff := 0, tagsel := 0, slot := none, image := [], err := 3 }
   (clkOn s .mgclk = true) ∧
   (fclkOn s = true) ∧
   (s.nvc.cmd = some c) ∧
   (c.slot = none) ∧
   (Memory.wf nvmDefault s.nvc.nvm = true) ∧
   (c.err ≠ 0)) ∧
  (let s : State := SL 5 <| NV { busy := true, cmd := some ({ op := .erase, addr := 0x1000, len := 0, spoff := 0, tagsel := 0, slot := none, image := [], err := 0 }), setseq := 0 }
   let c : NvmCmd := { op := .erase, addr := 0x1000, len := 0, spoff := 0, tagsel := 0, slot := none, image := [], err := 0 }
   (clkOn s .mgclk = true) ∧
   (fclkOn s = true) ∧
   (s.nvc.cmd = some c) ∧
   (c.slot = none) ∧
   (Memory.wf nvmDefault s.nvc.nvm = true) ∧
   (c.err = 0) ∧
   (c.len = 0) ∧
   (c.op = .erase ∨ c.op = .program ∨ c.op = .read)) ∧
  (let s : State := SL 5 <| NV { busy := true, cmd := some ({ op := .erase, addr := 0x1000, len := 4, spoff := 0, tagsel := 0, slot := none, image := [], err := 0 }), nvm := [(0xFFF, 1), (0x1000, 1), (0x1FFF, 2), (0x2000, 3)] }
   let c : NvmCmd := { op := .erase, addr := 0x1000, len := 4, spoff := 0, tagsel := 0, slot := none, image := [], err := 0 }
   (clkOn s .mgclk = true) ∧
   (fclkOn s = true) ∧
   (s.nvc.cmd = some c) ∧
   (c.slot = none) ∧
   (Memory.wf nvmDefault s.nvc.nvm = true) ∧
   (c.err = 0) ∧
   (c.op = .erase) ∧
   (c.len ≠ 0)) ∧
  (let s : State := SL 5 <| NV { busy := true, cmd := some ({ op := .program, addr := 0x1004, len := 4, spoff := 0x3000, tagsel := 0, slot := none, image := [], err := 0 }), setseq := 0 }
   let c : NvmCmd := { op := .program, addr := 0x1004, len := 4, spoff := 0x3000, tagsel := 0, slot := none, image := [], err := 0 }
   let bs : List Byte := [0,7,0,0]
   let u : State := (nvcGet s 0x3000 4).1
   (clkOn s .mgclk = true) ∧
   (fclkOn s = true) ∧
   (s.nvc.cmd = some c) ∧
   (c.slot = none) ∧
   (Memory.wf nvmDefault s.nvc.nvm = true) ∧
   (c.err = 0) ∧
   (c.op = .program) ∧
   (c.len ≠ 0) ∧
   (nvcGet s c.spoff c.len = (u, bs, true)) ∧
   (bs.length = c.len) ∧
   (u.nvc = s.nvc)) ∧
  (let s : State := SL 5 <| NV { busy := true, cmd := some ({ op := .read, addr := 0x1004, len := 4, spoff := 0x3000, tagsel := 0, slot := none, image := [], err := 0 }), nvm := [(0x1004, 9)] }
   let c : NvmCmd := { op := .read, addr := 0x1004, len := 4, spoff := 0x3000, tagsel := 0, slot := none, image := [], err := 0 }
   let s1 : State := (nvcSet s 0x3000 [9, 0xFF, 0xFF, 0xFF]).1
   (clkOn s .mgclk = true) ∧
   (fclkOn s = true) ∧
   (s.nvc.cmd = some c) ∧
   (c.slot = none) ∧
   (Memory.wf nvmDefault s.nvc.nvm = true) ∧
   (c.err = 0) ∧
   (c.op = .read) ∧
   (s.nvc.bad = []) ∧
   (nvcSet s c.spoff (mslice nvmDefault s.nvc.nvm c.addr c.len) = (s1, true)) ∧
   (c.len ≠ 0) ∧
   (s1.nvc = s.nvc)) ∧
  (let s : State := SL 5 <| NV { busy := true, cmd := some ({ op := .store, addr := 0, len := 0, spoff := 0, tagsel := 0, slot := none, image := [(4, 5)], err := 0 }), setcur := true, setseq := 0xFFFFFFFF, rot0 := 7 }
   let c : NvmCmd := { op := .store, addr := 0, len := 0, spoff := 0, tagsel := 0, slot := none, image := [(4, 5)], err := 0 }
   (clkOn s .mgclk = true) ∧
   (fclkOn s = true) ∧
   (s.nvc.cmd = some c) ∧
   (c.slot = none) ∧
   (Memory.wf nvmDefault s.nvc.nvm = true) ∧
   (c.err = 0) ∧
   (c.op = .store) ∧
   (s.nvc.setcur = true) ∧
   (s.nvc.rot0 < 8)) ∧
  (let s : State := SL 5 <| NV { busy := true, cmd := some ({ op := .tagw, addr := 0, len := 0, spoff := 0x3000, tagsel := 73, slot := none, image := [], err := 0 }), tagvalid := true, tagcur := false }
   let c : NvmCmd := { op := .tagw, addr := 0, len := 0, spoff := 0x3000, tagsel := 73, slot := none, image := [], err := 0 }
   let bs : List Byte := [0, 7] ++ List.replicate 62 0
   let o : Nat := 0x1310
   let k : Nat := 64
   let u : State := (nvcGet s 0x3000 64).1
   let b : List Byte := (tagBody s).getD []
   (clkOn s .mgclk = true) ∧
   (fclkOn s = true) ∧
   (s.nvc.cmd = some c) ∧
   (c.slot = none) ∧
   (Memory.wf nvmDefault s.nvc.nvm = true) ∧
   (c.err = 0) ∧
   (c.op = .tagw) ∧
   (tagBody s = some b) ∧
   (tagEntry c.tagsel = some (o, k)) ∧
   (nvcGet s c.spoff k = (u, bs, true)) ∧
   (u.nvc = s.nvc) ∧
   (s.nvc.tagvalid = true) ∧
   (s.nvc.tagcur = false)) ∧
  (let s : State := SL 5 <| NV { busy := true, cmd := some ({ op := .lock, addr := 0, len := 0, spoff := 0, tagsel := 0, slot := none, image := [], err := 0 }), setseq := 0 }
   let c : NvmCmd := { op := .lock, addr := 0, len := 0, spoff := 0, tagsel := 0, slot := none, image := [], err := 0 }
   (clkOn s .mgclk = true) ∧
   (fclkOn s = true) ∧
   (s.nvc.cmd = some c) ∧
   (c.slot = none) ∧
   (Memory.wf nvmDefault s.nvc.nvm = true) ∧
   (c.err = 0) ∧
   (c.op = .lock) ∧
   (nvmRead s 0xF4080 4 = some [0xFF, 0xFF, 0xFF, 0xFF])) := by
  refine ⟨?_, ?_, ?_, ?_, ?_, ?_, ?_, ?_⟩
  all_goals first | decide +kernel | (repeat' (first | decide +kernel | rfl | refine And.intro ?_ ?_ | (intro h; exact absurd h (by decide +kernel)) | (intros; rfl) | (intro _ _; exact ⟨rfl, rfl⟩) | (simp; done)))

/-- The hypotheses of `NvmAndHealthLog`, Health log written. -/
theorem witness_HealthLogWritten :
  (let s : State := { NV { nvm := [(0xF3F7F, 3), (0xF3000, 2)] } with hlt := { lognum := 4095, logq := [{ time := 5, code := 9, unit := 3, state := 1, detail := 7 }] } }
   let x : LogRec := { time := 5, code := 9, unit := 3, state := 1, detail := 7 }
   let r : List LogRec := []
   (clkOn s .mgclk = true) ∧
   (s.nvc.busy = false) ∧
   (s.hlt.logq = x :: r)) := by
  first | decide +kernel | (repeat' (first | decide +kernel | rfl | refine And.intro ?_ ?_ | (intro h; exact absurd h (by decide +kernel)) | (intros; rfl) | (intro _ _; exact ⟨rfl, rfl⟩) | (simp; done)))

/-- The hypotheses of `ErrorsAndRetirement`, Corrected errors counted. -/
theorem witness_CorrectedErrorsCounted :
  (let s : State := { W0 with hlt := { state := 1 }, cyc := { clear := true } }
   let e : Eng := 3
   let b : Fin 64 := 63
   let h := s.hlt
   (clkOn s .mgclk = true) ∧
   (h.cewin ≠ 0) ∧
   (h.cethr = 0 ∨ (tget 0 h.cecnt e.val).toNat < h.cethr.toNat) ∧
   (h.retthr = 0 ∨ (tget 0 h.cecnt e.val).toNat < h.retthr.toNat) ∧
   (h.cethr = 0 ∨ (tget 0 h.bank b.val).toNat < h.cethr.toNat) ∧
   (h.state = 1) ∧
   (s.cyc.clear = true) ∧
   (s.cyc.crossed = false)) ∧
  (let s : State := { W0 with hlt := { state := 0, bank := [(63, 64)] } }
   let b : Fin 64 := 63
   let h := s.hlt
   (clkOn s .mgclk = true) ∧
   (h.cewin ≠ 0) ∧
   (h.cethr ≠ 0) ∧
   (h.cethr ≠ 0xFFFF#16) ∧
   (tget 0 h.bank b.val = h.cethr) ∧
   (h.state = 0) ∧
   ((srcGet s 364).carry ≠ 0xFFFF#16) ∧
   (h.state ≠ 1)) ∧
  (let s : State := { W0 with hlt := { state := 1 }, cyc := { clear := true, crossed := true } }
   (clkOn s .mgclk = true) ∧
   (s.cyc.clear = true) ∧
   (s.cyc.crossed = true)) := by
  refine ⟨?_, ?_, ?_⟩
  all_goals first | decide +kernel | (repeat' (first | decide +kernel | rfl | refine And.intro ?_ ?_ | (intro h; exact absurd h (by decide +kernel)) | (intros; rfl) | (intro _ _; exact ⟨rfl, rfl⟩) | (simp; done)))

/-- The hypotheses of `ErrorsAndRetirement`, Uncorrectable error outcomes. -/
theorem witness_UncorrectableErrorOutcomes :
  (let s : State := { E { m := { ic := [(258, CL)], dc := [(258, CL)] }, mcheck := [3] } with hlt := { cewin := 0 }, ibf := [(3, { st := .active })], che := { ledger := [{ id := 4, group := 1, key := 0x1122334455667788, time := 0x123456, st := .opened, nostore := false, old := false, held := false, repeats := [], way := 0, stores := 0, failed := false }] } }
   let e : Eng := 3
   let f : Fin 512 := 258
   let c : CLine := CL
   let p : PortNo := 3
   let x : Ledger := { id := 4, group := 1, key := 0x1122334455667788, time := 0x123456, st := .opened, nostore := false, old := false, held := false, repeats := [], way := 0, stores := 0, failed := false }
   let m : BitVec 8 := 66
   let g := engGet s e
   (eclkOn s = true) ∧
   (s.hlt.cewin = 0) ∧
   (tfind g.m.ic f.val = some c) ∧
   (tfind g.m.dc f.val = some c) ∧
   (c.dirty = 0) ∧
   (engExists s e.val = true) ∧
   (fclkOn s = true) ∧
   (m ∉ s.spc.served.map (·.1)) ∧
   (portOn s p = true) ∧
   ((ibfGet s p.val).st = .active) ∧
   (ledgerFind s x.group x.key = some x)) ∧
  (let s : State := { W0 with hlt := { cewin := 0 }, spc := { served := [(66, none)], paths := [(63, 66)] } }
   let m : BitVec 8 := 66
   let v : Nat := 127
   (eclkOn s = true) ∧
   (s.hlt.cewin = 0) ∧
   (fclkOn s = true) ∧
   (m ∈ s.spc.served.map (·.1)) ∧
   ((v % 64, m.toNat) ∈ s.spc.paths)) ∧
  (let s : State := { E { m := { dc := [(258, { CL with dirty := 0xFF#64 })] } } with hlt := { cewin := 0 }, ibf := [(3, { st := .active })], che := { ledger := [{ id := 4, group := 1, key := 0x1122334455667788, time := 0x123456, st := .opened, nostore := false, old := false, held := false, repeats := [], way := 0, stores := 0, failed := false }] } }
   let e : Eng := 3
   let f : Fin 512 := 258
   let c : CLine := { CL with dirty := 0xFF#64 }
   let g := engGet s e
   (eclkOn s = true) ∧
   (s.hlt.cewin = 0) ∧
   (tfind g.m.dc f.val = some c) ∧
   (c.dirty ≠ 0)) := by
  refine ⟨?_, ?_, ?_⟩
  all_goals first | decide +kernel | (repeat' (first | decide +kernel | rfl | refine And.intro ?_ ?_ | (intro h; exact absurd h (by decide +kernel)) | (intros; rfl) | (intro _ _; exact ⟨rfl, rfl⟩) | (simp; done)))

/-- The hypotheses of `ErrorsAndRetirement`, Retirements. -/
theorem witness_Retirements :
  (let s : State := { E {} with hlt := { cecnt := [(3, 1025)], state := 0 } }
   let e : Eng := 3
   (clkOn s .mgclk = true) ∧
   (engExists s e.val = true) ∧
   (s.hlt.retired.getLsbD e.val = false) ∧
   (fclkOn s = true) ∧
   (s.hlt.retthr ≠ 0) ∧
   (s.hlt.retthr.toNat < (tget 0 s.hlt.cecnt e.val).toNat)) ∧
  (let s : State := { W0 with wvl := { W0.wvl with enable := 7 }, spc := { scrubTwo := [63] }, hlt := { spares := [(63, 15)], state := 0 } }
   let e : Eng := 3
   let w : BitVec 21 := 63
   (clkOn s .mgclk = true) ∧
   (engExists s e.val = false) ∧
   (fclkOn s = true) ∧
   (w.toNat ∈ s.spc.scrubTwo) ∧
   ((tget 0 s.hlt.spares (w.toNat % 64)).toNat < 16)) ∧
  (let s : State := { W0 with spc := { scrubTwo := [63] }, hlt := { spares := [(63, 16)] } }
   let w : BitVec 21 := 63
   (clkOn s .mgclk = true) ∧
   (fclkOn s = true) ∧
   (w.toNat ∈ s.spc.scrubTwo) ∧
   (16 ≤ (tget 0 s.hlt.spares (w.toNat % 64)).toNat)) ∧
  (let s : State := { W0 with wvl := { W0.wvl with plans := [{ ({ retired := [0xFF,0xFF,0xFF,0xFF], widths := 1, slots := [0x42480005], txmask := 0, frames := [], subst := [0xFF,0xFF,0xFF,0xFF], off := 0x100, len := 64 } : Plan) with widths := (keyOf W0).2 }] }, cyc := { key := true } }
   let i := 0
   (clkOn s .mgclk = true) ∧
   (s.cyc.key = true) ∧
   ((bitsOf s.hlt.retired).length ≤ 4) ∧
   (s.hlt.noplans = false) ∧
   (findPlan s (keyOf s) = some i)) := by
  refine ⟨?_, ?_, ?_, ?_⟩
  all_goals first | decide +kernel | (repeat' (first | decide +kernel | rfl | refine And.intro ?_ ?_ | (intro h; exact absurd h (by decide +kernel)) | (intros; rfl) | (intro _ _; exact ⟨rfl, rfl⟩) | (simp; done)))

/-- The hypotheses of `PerformanceMonitor`, Counters read and written. -/
theorem witness_CountersReadAndWritten :
  (let s : State := { W0 with pmu := { cnt := [(599, 0x123456789ABC)] } }
   let src : IoSrc := .host
   let c : Fin 640 := 599
   let m := masterOf src
   (fclkOn s = true) ∧
   (srcActs s src = true) ∧
   (viewOf s src = .manager) ∧
   (c.val < 600) ∧
   ((∀ q, tfind s.cyc.pmuSet c.val = some q → q.1 ≤ m))) ∧
  (let s : State := W0
   let src : IoSrc := .tap
   let c : Fin 640 := 600
   (fclkOn s = true) ∧
   (srcActs s src = true) ∧
   (viewOf s src = .manager) ∧
   (600 ≤ c.val)) ∧
  (let s : State := { W0 with cyc := { pmuSet := [(599, (67, 7))] } }
   let src : IoSrc := .host
   let c : Fin 640 := 599
   let m := masterOf src
   let q := (67, 7)
   (fclkOn s = true) ∧
   (srcActs s src = true) ∧
   (viewOf s src = .manager) ∧
   (c.val < 600) ∧
   (tfind s.cyc.pmuSet c.val = some q) ∧
   (m < q.1)) := by
  refine ⟨?_, ?_, ?_⟩
  all_goals first | decide +kernel | (repeat' (first | decide +kernel | rfl | refine And.intro ?_ ?_ | (intro h; exact absurd h (by decide +kernel)) | (intros; rfl) | (intro _ _; exact ⟨rfl, rfl⟩) | (simp; done)))

/-- The hypotheses of `PerformanceMonitor`, Windows and swatches. -/
theorem witness_WindowsAndSwatches :
  (let s : State := SL 3 { MP W0 with pmu := { k := 4, rlog := 2, shadow := some ({ cnt := [], ovf := 0, num := 3, drops := 0, time := 5, k := 4, line := 3, wait := 0, bad := false }), drops := 0xFFFFFFFF }, tmr := { gtime := 32 } }
   let x : Swatch := { cnt := [], ovf := 0, num := 3, drops := 0, time := 5, k := 4, line := 3, wait := 0, bad := false }
   let p := s.pmu
   let due := p.k ≠ 0 ∧ p.rlog ≠ 0 ∧ s.tmr.gtime.toNat % 2 ^ p.k.toNat = 0
   let size := 2 ^ p.rlog.toNat
   let full := (p.head.toNat + 4096 - p.tail.toNat) % size = size - 1
   (fclkOn s = true) ∧
   (due) ∧
   ((p.shadow.isSome = true ∨ full)) ∧
   (p.shadow = some x) ∧
   (s.cyc.frozen = false) ∧
   (x.wait = 0)) ∧
  (let s : State := SL 3 { MP W0 with pmu := { win := 2, meter := [(3, 7), (4, 9)], bwpeak := [(3, 8), (4, 8)] }, tmr := { gtime := 2048 } }
   let p := s.pmu
   (fclkOn s = true) ∧
   (p.winNext = none) ∧
   (p.win ≠ 0) ∧
   (s.tmr.gtime.toNat % (p.win.toNat * 1024) = 0)) ∧
  (let s : State := SL 3 { MP W0 with pmu := { k := 4, rlog := 2, cnt := [(3, 5)], ring := 0x2000000 }, tmr := { gtime := 16 } }
   let p := s.pmu
   let due := p.k ≠ 0 ∧ p.rlog ≠ 0 ∧ s.tmr.gtime.toNat % 2 ^ p.k.toNat = 0
   (fclkOn s = true) ∧
   (due) ∧
   (p.shadow = none)) ∧
  (let s : State := SL 3 { MP W0 with pmu := { k := 4, rlog := 2, head := 3, shadow := some ({ cnt := [], ovf := 0, num := 3, drops := 0, time := 5, k := 4, line := 81, wait := 0, bad := false }) }, tmr := { gtime := 33 } }
   let x : Swatch := { cnt := [], ovf := 0, num := 3, drops := 0, time := 5, k := 4, line := 81, wait := 0, bad := false }
   let p := s.pmu
   let n := x.line
   (fclkOn s = true) ∧
   (p.shadow = some x) ∧
   (s.cyc.frozen = false) ∧
   (x.bad = false) ∧
   (x.wait = 0) ∧
   (n = 81)) ∧
  (let s : State := SL 3 { MP W0 with pmu := { k := 4, rlog := 2, ring := 0x2000000, shadow := some ({ cnt := [], ovf := 0, num := 3, drops := 0, time := 5, k := 4, line := 3, wait := 0, bad := false }) }, tmr := { gtime := 33 } }
   let x : Swatch := { cnt := [], ovf := 0, num := 3, drops := 0, time := 5, k := 4, line := 3, wait := 0, bad := false }
   let port : Nat := 0
   let id : Nat := 0
   let p := s.pmu
   let n := x.line
   let pa := p.ring + BitVec.ofNat 44 (5184 * p.head.toNat + 64 * n)
   let next := p.ring + BitVec.ofNat 44 (5184 * p.head.toNat + 64 * (n + 1))
   let y := mptGet s port
   let z := slotAt s.wvl.warp (128 + port) s.wvl.slot.toNat
   (fclkOn s = true) ∧
   (p.shadow = some x) ∧
   (s.cyc.frozen = false) ∧
   (x.bad = false) ∧
   (n ≤ 80) ∧
   (inWindow s pa = false) ∧
   (inWindow s next = false) ∧
   (decodePort s pa = some port) ∧
   (decodePort s next = some port) ∧
   (y.en = true) ∧
   (freeId y = some id) ∧
   (y.reqq.length < 16) ∧
   ((slotOwner z = 71 ∨ slotLend z = 71)) ∧
   ((∀ u ∈ s.cyc.used, u.tbl ≠ 128 + port))) ∧
  (let s : State := { MP W0 with pmu := { shadow := some ({ cnt := [], ovf := 0, num := 3, drops := 0, time := 5, k := 4, line := 0, wait := 0, bad := false }) }, cyc := { frozen := true } }
   let x : Swatch := { cnt := [], ovf := 0, num := 3, drops := 0, time := 5, k := 4, line := 0, wait := 0, bad := false }
   let p := s.pmu
   (fclkOn s = true) ∧
   (s.cyc.frozen = true) ∧
   (p.shadow = some x)) := by
  refine ⟨?_, ?_, ?_, ?_, ?_, ?_⟩
  all_goals first | decide +kernel | (repeat' (first | decide +kernel | rfl | refine And.intro ?_ ?_ | (intro h; exact absurd h (by decide +kernel)) | (intros; rfl) | (intro _ _; exact ⟨rfl, rfl⟩) | (simp; done)))

/-- The hypotheses of `ResetAndStartUp`, Resets and power. -/
theorem witness_ResetsAndPower :
  (let s : State := { SP (E { r := { pc := 9 } }) with nvc := { nvm := [(3, 7)] }, spc := { mem := [(0x3001, 7)] }, tmr := { gtime := 77 }, hlt := { state := 0 } }
   (s.power = true) ∧
   (s.nvc.cmd = none)) ∧
  (let s : State := { SP (E { r := { pc := 9 } }) with power := false, stopped := [.aonclk] }
   (s.power = false)) := by
  refine ⟨?_, ?_⟩
  all_goals first | decide +kernel | (repeat' (first | decide +kernel | rfl | refine And.intro ?_ ?_ | (intro h; exact absurd h (by decide +kernel)) | (intros; rfl) | (intro _ _; exact ⟨rfl, rfl⟩) | (simp; done)))

/-- The hypotheses of `ResetAndStartUp`, Start up steps. -/
theorem witness_StartUpSteps :
  (let s : State := { W0 with cpx := { step := 2 }, spc := { mem := [(3, 4)] }, ibf := [(2, { en := false })], hlt := { spares := [(7, 15)] } }
   let w : BitVec 21 := 7
   (fclkOn s = true) ∧
   (s.cpx.step = 2) ∧
   (s.cpx.warm = false) ∧
   ((tget 0 s.hlt.spares (w.toNat % 64)).toNat < 16)) ∧
  (let s : State := { W0 with cpx := { step := 1 } }
   (clkOn s .mgclk = true) ∧
   (s.cpx.step = 1) ∧
   (bestRecord s (List.range 16) = none)) ∧
  (let s : State := { W0 with cpx := { step := 2, warm := true, bistDone := true }, spc := { mem := [(3, 4)] } }
   (fclkOn s = true) ∧
   (s.cpx.step = 2) ∧
   (s.cpx.warm = true) ∧
   (s.cpx.bistDone = true) ∧
   (s.cpx.wbist = false)) := by
  refine ⟨?_, ?_, ?_⟩
  all_goals first | decide +kernel | (repeat' (first | decide +kernel | rfl | refine And.intro ?_ ?_ | (intro h; exact absurd h (by decide +kernel)) | (intros; rfl) | (intro _ _; exact ⟨rfl, rfl⟩) | (simp; done)))

/-- The hypotheses of `EngineControlAndIdle`, Engines released and controlled. -/
theorem witness_EnginesReleasedAndControlled :
  (let s : State := E { r := { pc := 0x2000, ds := [.val 3, .val 4] } }
   let e : Eng := 3
   let g := engGet s e
   (eclkOn s = true) ∧
   (g.st = .running ∨ g.st = .sleeping) ∧
   (g.retired = false) ∧
   (g.wrong = none) ∧
   (g.ra = none) ∧
   (g.st = .running)) ∧
  (let s : State := { E { r := { pc := 0x2000, ds := [.val 3, .val 4] }, restartpc := 0x6000, m := { dc := [(258, CL)] } } with eng := [(3, { st := .stopped, r := { ds := [.val 3] }, restartpc := 0x6000, m := { dc := [(258, CL)], dtlb := [TLB 0x2000 true] } })] }
   let e : Eng := 3
   let g := engGet s e
   (eclkOn s = true) ∧
   (g.st = .stopped) ∧
   (g.retired = false)) ∧
  (let s : State := { W0 with wvl := { W0.wvl with enable := 0xFFFFFFFFFFFFFFF7#64, frame := 5, boot := [(3, 0x4000)] }, cpx := { step := 6, releaseDue := true } }
   (eclkOn s = true) ∧
   (fclkOn s = true) ∧
   (s.cpx.releaseDue = true) ∧
   (s.wvl.slot = 0) ∧
   (s.wvl.frame ≠ 0)) := by
  refine ⟨?_, ?_, ?_⟩
  all_goals first | decide +kernel | (repeat' (first | decide +kernel | rfl | refine And.intro ?_ ?_ | (intro h; exact absurd h (by decide +kernel)) | (intros; rfl) | (intro _ _; exact ⟨rfl, rfl⟩) | (simp; done)))

/-- The hypotheses of `EngineControlAndIdle`, Deep idle. -/
theorem witness_DeepIdle :
  (let s : State := { W0 with wvl := { W0.wvl with enable := 8 }, eng := [(3, { st := .stopped })], cpx := { step := 7, idleReq := true, deepIdle := true, wakeReq := true }, evg := { src := [(8, { en := true, sense := 2 })] }, ibf := [(0, { st := .down })] }
   let w : BitVec 8 := 7
   (clkOn s .aonclk = true) ∧
   (s.cpx.deepIdle = true) ∧
   ((srcGet s (w.toNat + 1)).en = true) ∧
   ((srcGet s (w.toNat + 1)).sense = 2) ∧
   (s.evg.input.getLsbD w.toNat = false) ∧
   (s.evg.retNow.getLsbD w.toNat = false) ∧
   (clkOn s .fclk = true) ∧
   (s.cpx.wakeReq = true)) ∧
  (let s : State := { W0 with wvl := { W0.wvl with enable := 8 }, eng := [(3, { st := .stopped })], cpx := { step := 7, idleReq := true, deepIdle := false, wakeReq := false }, evg := { src := [(8, { en := true, sense := 0 })] }, ibf := [(0, { st := .down })] }
   (fclkOn s = true) ∧
   (s.cpx.idleReq = true) ∧
   (idleReady s = true)) ∧
  (let s : State := { W0 with wvl := { W0.wvl with enable := 8 }, eng := [(3, { st := .stopped })], cpx := { step := 7, idleReq := true, deepIdle := true, wakeReq := false }, evg := { src := [(8, { en := true, sense := 0 })] }, ibf := [(0, { st := .down })] }
   let w : BitVec 8 := 7
   (clkOn s .aonclk = true) ∧
   (s.cpx.deepIdle = true) ∧
   ((srcGet s (w.toNat + 1)).en = true) ∧
   ((srcGet s (w.toNat + 1)).sense = 0)) := by
  refine ⟨?_, ?_, ?_⟩
  all_goals first | decide +kernel | (repeat' (first | decide +kernel | rfl | refine And.intro ?_ ?_ | (intro h; exact absurd h (by decide +kernel)) | (intros; rfl) | (intro _ _; exact ⟨rfl, rfl⟩) | (simp; done)))

/-- The hypotheses of `PortTransactions`, Memory port transactions. -/
theorem witness_MemoryPortTransactions :
  (let s : State := { W0 with eng := [(3, { st := .running, m := { fills := [{ line := LineA, side := .data, prefetch := false, st := .waiting }] } })], mpt := [(2, { out := [{ id := 7, write := false, line := LineA, mst := 3, data := 0, mask := 0, owner := .fill 3 .data, timedOut := false }] })] }
   let p : PortNo := 2
   let q : MpReq := { id := 7, write := false, line := LineA, mst := 3, data := 0, mask := 0, owner := .fill 3 .data, timedOut := false }
   let e : Eng := 3
   let side : CacheSide := .data
   let f : Fill := { line := LineA, side := .data, prefetch := false, st := .waiting }
   let err : BitVec 2 := 3
   let x := mptGet s p.val
   (clkOn s (.mpclk p) = true) ∧
   (fclkOn s = true) ∧
   (x.rspq = []) ∧
   (outstanding x q.id = some q) ∧
   (q.write = false) ∧
   (q.timedOut = false) ∧
   (q.owner = .fill e side) ∧
   (fillOf (engGet s e) side q.line = some f) ∧
   (err ≠ 0) ∧
   (x.reqq = []) ∧
   (x.tmoLim ≠ 0) ∧
   (x.out = [q])) ∧
  (let s : State := { W0 with eng := [(3, { st := .running, m := { fills := [{ line := LineA, side := .data, prefetch := false, st := .waiting }] } })], mpt := [(2, { out := [] })] }
   let p : PortNo := 2
   let q : MpReq := { id := 7, write := false, line := LineA, mst := 3, data := 0, mask := 0, owner := .fill 3 .data, timedOut := false }
   let x := mptGet s p.val
   (clkOn s (.mpclk p) = true) ∧
   (fclkOn s = true) ∧
   (x.rspq = []) ∧
   (outstanding x q.id = none)) ∧
  (let s : State := { W0 with stopped := [.fclk] }
   let p : PortNo := 2
   (clkOn s (.mpclk p) = true) ∧
   (fclkOn s = false)) := by
  refine ⟨?_, ?_, ?_⟩
  all_goals first | decide +kernel | (repeat' (first | decide +kernel | rfl | refine And.intro ?_ ?_ | (intro h; exact absurd h (by decide +kernel)) | (intros; rfl) | (intro _ _; exact ⟨rfl, rfl⟩) | (simp; done)))

/-- The hypotheses of `PortTransactions`, Host initiator. -/
theorem witness_HostInitiator :
  (let s : State := { W0 with eng := [(3, { st := .running, m := { fills := [{ line := LineA, side := .data, prefetch := false, st := .waiting }] } })], hpt := { ini := { out := [{ id := 7, write := true, line := LineA, mst := 3, data := 0, mask := 0, owner := .other, timedOut := false }] } } }
   let q : MpReq := { id := 7, write := true, line := LineA, mst := 3, data := 0, mask := 0, owner := .other, timedOut := false }
   let x := mptGet s 4
   (clkOn s .hpclk = true) ∧
   (fclkOn s = true) ∧
   (x.rspq = []) ∧
   (s.hpt.beat = none) ∧
   (outstanding x q.id = some q) ∧
   (q.write = true) ∧
   (q.timedOut = false) ∧
   (q.owner = .other) ∧
   (x.reqq = []) ∧
   (x.tmoLim ≠ 0) ∧
   (x.out = [q])) ∧
  (let s : State := { W0 with eng := [(3, { st := .running, m := { fills := [{ line := LineA, side := .data, prefetch := false, st := .waiting }] } })], hpt := { ini := { out := [{ id := 7, write := false, line := LineA, mst := 3, data := 0, mask := 0, owner := .fill 3 .data, timedOut := false }] } } }
   let q : MpReq := { id := 7, write := false, line := LineA, mst := 3, data := 0, mask := 0, owner := .fill 3 .data, timedOut := false }
   let e : Eng := 3
   let f : Fill := { line := LineA, side := .data, prefetch := false, st := .waiting }
   let x := mptGet s 4
   (clkOn s .hpclk = true) ∧
   (fclkOn s = true) ∧
   (x.rspq = []) ∧
   (outstanding x q.id = some q) ∧
   (q.write = false) ∧
   (q.timedOut = false) ∧
   (q.owner = .fill e .data) ∧
   (fillOf (engGet s e) .data q.line = some f) ∧
   (s.hpt.beat = none)) ∧
  (let s : State := { W0 with eng := [(3, { st := .running, m := { fills := [{ line := LineA, side := .data, prefetch := false, st := .waiting }] } })], hpt := { ini := { out := [{ id := 7, write := false, line := LineA, mst := 3, data := 0, mask := 0, owner := .fill 3 .data, timedOut := false }] }, beat := some (7, 0x11, 0) } }
   let q : MpReq := { id := 7, write := false, line := LineA, mst := 3, data := 0, mask := 0, owner := .fill 3 .data, timedOut := false }
   let e : Eng := 3
   let f : Fill := { line := LineA, side := .data, prefetch := false, st := .waiting }
   let lo : BitVec 256 := 0x11
   let x := mptGet s 4
   (clkOn s .hpclk = true) ∧
   (fclkOn s = true) ∧
   (x.rspq = []) ∧
   (outstanding x q.id = some q) ∧
   (q.write = false) ∧
   (q.timedOut = false) ∧
   (q.owner = .fill e .data) ∧
   (fillOf (engGet s e) .data q.line = some f) ∧
   (s.hpt.beat = some (q.id, lo, 0))) := by
  refine ⟨?_, ?_, ?_⟩
  all_goals first | decide +kernel | (repeat' (first | decide +kernel | rfl | refine And.intro ?_ ?_ | (intro h; exact absurd h (by decide +kernel)) | (intros; rfl) | (intro _ _; exact ⟨rfl, rfl⟩) | (simp; done)))

/-- The hypotheses of `HostTargetServed`. -/
theorem witness_HostTargetServed :
  (let s : State := SL 5 <| { W0 with spc := { mem := [(0x3001, 7)], reg := [(1056, { limit := 0x1000000, r := true, w := true, v := true })] } }
   let addr : BitVec 20 := 0x80180
   let mask : Word := 0xF0F0F0F3
   let id : BitVec 4 := 6
   let data : BitVec 256 := 0x0102030405060708090A0B0C0D0E0F101112131415161718191A1B1C1D1E1F20
   let u : State := (wordsServe (busJoin s (.host false addr mask id data .good)) 66 ((maskWords mask).map ((addr.toNat % 2 ^ 19) * 32 / 8 + ·))).1
   let o := (addr.toNat % 2 ^ 19) * 32
   let os := ((List.range 32).filter fun k => mask.getLsbD k).map (· + o)
   let ws := (maskWords mask).map (o / 8 + ·)
   let s0 := fun (w : Bool) => busJoin s (.host w addr mask id data .good)
   (clkOn s .hpclk = true) ∧
   (fclkOn s = true) ∧
   (3 ≤ s.cpx.step.toNat) ∧
   (s.hpt.reqs = []) ∧
   (s.hpt.rsp.length ≤ 15) ∧
   (addr.getLsbD 19 = true) ∧
   (s.hpt.ten = true) ∧
   (mask ≠ 0) ∧
   (s.spc.bad = []) ∧
   ((∀ x ∈ s.cyc.wrote, x.word ∉ ws)) ∧
   ((∀ w ∈ ws, (w % 64, 66) ∉ s.spc.paths)) ∧
   (wordsServe (s0 false) 66 ws = (u, true)) ∧
   (firstRefused u 66 .every false os = none)) ∧
  (let s : State := SL 5 <| { W0 with spc := { mem := [(0x3001, 7)], reg := [(1056, { limit := 0x1000000, r := true, w := true, v := true })] } }
   let addr : BitVec 20 := 0x80180
   let mask : Word := 0xF0F0F0F3
   let id : BitVec 4 := 6
   let data : BitVec 256 := 0x0102030405060708090A0B0C0D0E0F101112131415161718191A1B1C1D1E1F20
   let u : State := (wordsServe (busJoin s (.host true addr mask id data .good)) 66 (((((List.range 32).filter fun k => mask.getLsbD k).map (· + (addr.toNat % 2 ^ 19) * 32)).map (· / 8)).eraseDups)).1
   let o := (addr.toNat % 2 ^ 19) * 32
   let os := ((List.range 32).filter fun k => mask.getLsbD k).map (· + o)
   let ws := (maskWords mask).map (o / 8 + ·)
   let s0 := fun (w : Bool) => busJoin s (.host w addr mask id data .good)
   (clkOn s .hpclk = true) ∧
   (fclkOn s = true) ∧
   (3 ≤ s.cpx.step.toNat) ∧
   (s.hpt.reqs = []) ∧
   (s.hpt.rsp.length ≤ 15) ∧
   (addr.getLsbD 19 = true) ∧
   (s.hpt.ten = true) ∧
   (mask ≠ 0) ∧
   (s.spc.bad = []) ∧
   ((∀ x ∈ s.cyc.wrote, x.word ∉ ws)) ∧
   ((∀ w ∈ ws, (w % 64, 66) ∉ s.spc.paths)) ∧
   (wordsServe (s0 true) 66 (os.map (· / 8)).eraseDups = (u, true)) ∧
   (firstRefused u 66 .every true os = none) ∧
   (capturing s = false)) ∧
  (let s : State := SL 5 <| { W0 with spc := { reg := [] } }
   let addr : BitVec 20 := 0x80180
   let mask : Word := 0xF0F0F0F3
   let id : BitVec 4 := 6
   let data : BitVec 256 := 0x0102030405060708090A0B0C0D0E0F101112131415161718191A1B1C1D1E1F20
   let u : State := (wordsServe (busJoin s (.host false addr mask id data .good)) 66 ((maskWords mask).map ((addr.toNat % 2 ^ 19) * 32 / 8 + ·))).1
   let o := (addr.toNat % 2 ^ 19) * 32
   let os := ((List.range 32).filter fun k => mask.getLsbD k).map (· + o)
   let ws := (maskWords mask).map (o / 8 + ·)
   let s0 := fun (w : Bool) => busJoin s (.host w addr mask id data .good)
   let r0 := 0x3000
   (clkOn s .hpclk = true) ∧
   (fclkOn s = true) ∧
   (3 ≤ s.cpx.step.toNat) ∧
   (s.hpt.reqs = []) ∧
   (s.hpt.rsp.length ≤ 15) ∧
   (addr.getLsbD 19 = true) ∧
   (s.hpt.ten = true) ∧
   (mask ≠ 0) ∧
   (s.spc.bad = []) ∧
   ((∀ x ∈ s.cyc.wrote, x.word ∉ ws)) ∧
   ((∀ w ∈ ws, (w % 64, 66) ∉ s.spc.paths)) ∧
   (wordsServe (s0 false) 66 ws = (u, true)) ∧
   (firstRefused u 66 .every false os = some r0)) ∧
  (let s : State := SL 5 <| { W0 with spc := { mem := [(0x3001, 7)], reg := [(1056, { limit := 0x1000000, r := true, w := true, v := true })] } }
   let addr : BitVec 20 := 0x0
   let mask : Word := 0x000000F0
   let id : BitVec 4 := 6
   let data : BitVec 256 := 0x0102030405060708090A0B0C0D0E0F101112131415161718191A1B1C1D1E1F20
   let g : Fin 8 := 1
   let s1 : State := (optD (ioGet (busJoin s (.host false addr mask id data .good)) .host 0x4) (s, 0)).1
   let v : Word := (optD (ioGet (busJoin s (.host false addr mask id data .good)) .host 0x4) (s, 0)).2
   let reg : BitVec 24 := BitVec.ofNat 24 (addr.toNat * 32 + 4 * g.val)
   let s0 := fun (w : Bool) => busJoin s (.host w addr mask id data .good)
   (clkOn s .hpclk = true) ∧
   (fclkOn s = true) ∧
   (3 ≤ s.cpx.step.toNat) ∧
   (s.hpt.reqs = []) ∧
   (s.hpt.rsp.length ≤ 15) ∧
   (addr.getLsbD 19 = false) ∧
   (mask = BitVec.ofNat 32 (15 * 16 ^ g.val)) ∧
   (ioGet (s0 false) .host reg = some (s1, v)) ∧
   (s1.hpt.rsp = s.hpt.rsp)) ∧
  (let s : State := SL 5 <| { W0 with spc := { mem := [(0x3001, 7)], reg := [(1056, { limit := 0x1000000, r := true, w := true, v := true })] } }
   let addr : BitVec 20 := 0x0
   let mask : Word := 0x000000F0
   let id : BitVec 4 := 6
   let data : BitVec 256 := 0x0102030405060708090A0B0C0D0E0F101112131415161718191A1B1C1D1E1F20
   let g : Fin 8 := 1
   let s1 : State := optD (ioSet (busJoin s (.host true addr mask id data .good)) .host 0x4 (fld data 32 32)) s
   let reg : BitVec 24 := BitVec.ofNat 24 (addr.toNat * 32 + 4 * g.val)
   let s0 := fun (w : Bool) => busJoin s (.host w addr mask id data .good)
   (clkOn s .hpclk = true) ∧
   (fclkOn s = true) ∧
   (3 ≤ s.cpx.step.toNat) ∧
   (s.hpt.reqs = []) ∧
   (s.hpt.rsp.length ≤ 15) ∧
   (addr.getLsbD 19 = false) ∧
   (mask = BitVec.ofNat 32 (15 * 16 ^ g.val)) ∧
   (ioSet (s0 true) .host reg (fld data (32 * g.val) 32) = some s1) ∧
   (s1.hpt.rsp = s.hpt.rsp)) ∧
  (let s : State := SL 2 W0
   let addr : BitVec 20 := 0x0
   let mask : Word := 0x000000F0
   let id : BitVec 4 := 6
   let data : BitVec 256 := 0x0102030405060708090A0B0C0D0E0F101112131415161718191A1B1C1D1E1F20
   let g : Fin 8 := 1
   let reg : BitVec 24 := BitVec.ofNat 24 (addr.toNat * 32 + 4 * g.val)
   let s0 := fun (w : Bool) => busJoin s (.host w addr mask id data .good)
   (clkOn s .hpclk = true) ∧
   (fclkOn s = true) ∧
   (3 ≤ s.cpx.step.toNat) ∧
   (s.hpt.reqs = []) ∧
   (s.hpt.rsp.length ≤ 15) ∧
   (addr.getLsbD 19 = false) ∧
   (mask = BitVec.ofNat 32 (15 * 16 ^ g.val)) ∧
   (ioGet (s0 false) .host reg = none)) ∧
  (let s : State := SL 5 <| { W0 with spc := { mem := [(0x3001, 7)], reg := [(1056, { limit := 0x1000000, r := true, w := true, v := true })] } }
   let addr : BitVec 20 := 0x60
   let mask : Word := 0x000000F1
   (clkOn s .hpclk = true) ∧
   (fclkOn s = true) ∧
   (3 ≤ s.cpx.step.toNat) ∧
   (s.hpt.reqs = []) ∧
   (s.hpt.rsp.length ≤ 15) ∧
   (addr.getLsbD 19 = false) ∧
   ((∀ k < 8, mask ≠ BitVec.ofNat 32 (15 * 16 ^ k)))) ∧
  (let s : State := SL 5 <| { W0 with cpx := { step := 7, deepIdle := true } }
   (clkOn s .hpclk = true) ∧
   (s.cpx.deepIdle = true) ∧
   (hostOut s < 16)) ∧
  (let s : State := SL 5 <| { W0 with hpt := { rsp := List.replicate 16 ⟨1, 2, 0⟩ } }
   (clkOn s .hpclk = true) ∧
   (16 ≤ hostOut s)) := by
  refine ⟨?_, ?_, ?_, ?_, ?_, ?_, ?_, ?_, ?_⟩
  all_goals first | decide +kernel | (repeat' (first | decide +kernel | rfl | refine And.intro ?_ ?_ | (intro h; exact absurd h (by decide +kernel)) | (intros; rfl) | (intro _ _; exact ⟨rfl, rfl⟩) | (simp; done)))

/-- The hypotheses of `RegistersAndClocks`, Register accesses. -/
theorem witness_RegisterAccesses :
  (let s : State := { W0 with cpx := { step := 7, taplock := true } }
   (clkOn s .tck = true) ∧
   (s.tap.busy = false) ∧
   (tapLocked s = true) ∧
   (fclkOn s = true)) ∧
  (let s : State := W0
   let addr : BitVec 24 := 0x11
   (clkOn s .tck = true) ∧
   (s.tap.busy = false) ∧
   (tapLocked s = false) ∧
   (addr.toNat % 4 ≠ 0)) ∧
  (let s : State := SL 5 W0
   let addr : BitVec 24 := 0xC00010
   let v : Word := 5
   let t : State := optD (ioSet (busJoin { s with tap := { s.tap with ir := 3, addr := addr, write := true, din := v, busy := true, done := false, err := false } } .tap) .tap addr v) s
   let tap := fun (w : Bool) => { s.tap with ir := 3, addr := addr, write := w, din := v }
   let u := fun (w : Bool) => busJoin { s with tap := { tap w with busy := true, done := false, err := false } } .tap
   (clkOn s .tck = true) ∧
   (s.tap.busy = false) ∧
   (tapLocked s = false) ∧
   (addr.toNat % 4 = 0) ∧
   (busOn s = true) ∧
   (s.hpt.reqs = []) ∧
   (clkOn s .mgclk = true) ∧
   (ioSet (u true) .tap addr v = some t)) ∧
  (let s : State := SL 5 W0
   let addr : BitVec 24 := 0x10
   let v : Word := 5
   let t : State := (optD (ioGet (busJoin { s with tap := { s.tap with ir := 3, addr := addr, write := false, din := v, busy := true, done := false, err := false } } .tap) .tap addr) (s,0)).1
   let x : Word := (optD (ioGet (busJoin { s with tap := { s.tap with ir := 3, addr := addr, write := false, din := v, busy := true, done := false, err := false } } .tap) .tap addr) (s,0)).2
   let tap := fun (w : Bool) => { s.tap with ir := 3, addr := addr, write := w, din := v }
   let u := fun (w : Bool) => busJoin { s with tap := { tap w with busy := true, done := false, err := false } } .tap
   (clkOn s .tck = true) ∧
   (s.tap.busy = false) ∧
   (tapLocked s = false) ∧
   (addr.toNat % 4 = 0) ∧
   (busOn s = true) ∧
   (s.hpt.reqs = []) ∧
   (clkOn s .mgclk = true) ∧
   (ioGet (u false) .tap addr = some (t, x))) ∧
  (let s : State := { W0 with stopped := [.mgclk] }
   let addr : BitVec 24 := 0x10
   (clkOn s .tck = true) ∧
   (s.tap.busy = false) ∧
   (tapLocked s = false) ∧
   (addr.toNat % 4 = 0) ∧
   (busOn s = true) ∧
   (s.hpt.reqs = []) ∧
   (clkOn s .mgclk = false)) ∧
  (let s : State := SL 5 W0
   let src : IoSrc := .host
   let addr : BitVec 24 := 0x10
   let v : Word := 5
   let t : State := optD (ioSet s src addr v) s
   (ioMade s src addr = true) ∧
   (ioSet s src addr v = some t)) ∧
  (let s : State := SL 5 W0
   let src : IoSrc := .host
   let addr : BitVec 24 := 0x7FFFFC
   let s0 : State := optD (ioTry s src) s
   (ioMade s src addr = true) ∧
   (ioRead s src addr = .unmapped) ∧
   (ioTry s src = some s0) ∧
   (s.cpx.unmapped = false)) ∧
  (let s : State := { E { r := { priv := 1 } } with cpx := { step := 7, unmapped := true } }
   let src : IoSrc := .engine 3
   let addr : BitVec 24 := 0x7FFFFC
   let s0 : State := optD (ioTry s src) s
   (ioMade s src addr = true) ∧
   (ioRead s src addr = .unmapped) ∧
   (ioTry s src = some s0) ∧
   (s.cpx.unmapped = true)) := by
  refine ⟨?_, ?_, ?_, ?_, ?_, ?_, ?_, ?_⟩
  all_goals first | decide +kernel | (repeat' (first | decide +kernel | rfl | refine And.intro ?_ ?_ | (intro h; exact absurd h (by decide +kernel)) | (intros; rfl) | (intro _ _; exact ⟨rfl, rfl⟩) | (simp; done)))

/-- The hypotheses of `RegistersAndClocks`, Register fields. -/
theorem witness_RegisterFields :
  (let s : State := SL 5 { W0 with cpx := { step := 7, unmapped := true }, mpt := [(0, { err := true, winbase := 2, winlimit := 16 })], cyc := { fresh := [(0x50000, 1)] } }
   let v : Word := 0xFF80
   let s0 : State := optD (ioTry s .host) s
   (ioTry s .host = some s0) ∧
   (freshBits s0 0x1024 = 0) ∧
   (freshBits s0 0x70008 = 0) ∧
   (clkOn s0 .mgclk = true) ∧
   (freshBits s0 0x60010 = 0) ∧
   ((fld v 0 5 = 0#5 ∨ 10 ≤ (fld v 0 5).toNat ∧ (fld v 0 5).toNat ≤ 30)) ∧
   (freshBits s0 0x1034 = 0) ∧
   (74 ≤ (fld v 0 8).toNat) ∧
   ((fld v 0 8).toNat ≤ 0xFE) ∧
   (fld v 8 8 = 0xFF#8) ∧
   (freshBits s0 0x50024 = 0) ∧
   (s0.cyc.sets = [])) ∧
  (let s : State := SL 5 { W0 with cpx := { step := 7, unmapped := true }, mpt := [(0, { err := true, winbase := 2, winlimit := 16 })], cyc := { fresh := [(0x50000, 1)] } }
   let v : Word := 0xFFFFFFFF
   let s0 : State := optD (ioTry s .host) s
   (ioTry s .host = some s0) ∧
   (freshBits s0 0x60010 = 0) ∧
   ((1 ≤ (fld v 0 5).toNat ∧ (fld v 0 5).toNat ≤ 9 ∨ fld v 0 5 = 31#5)) ∧
   (freshBits s0 0x2018 = 0) ∧
   (clkOn s0 .mgclk = true) ∧
   (74 ≤ (fld v 0 7).toNat)) := by
  refine ⟨?_, ?_⟩
  all_goals first | decide +kernel | (repeat' (first | decide +kernel | rfl | refine And.intro ?_ ?_ | (intro h; exact absurd h (by decide +kernel)) | (intros; rfl) | (intro _ _; exact ⟨rfl, rfl⟩) | (simp; done)))

/-- The hypotheses of `RegistersAndClocks`, Clocks and transfers. -/
theorem witness_ClocksAndTransfers :
  (let s : State := { W0 with tap := { ir := 3, data := 7 } }
   let c : ClockName := .mgclk
   let p : PortNo := 2
   (clkOn s (.mpclk p) = true) ∧
   (clkOn s .hpclk = true) ∧
   (c ∉ s.stopped) ∧
   (s.tap.ir = 3)) ∧
  (let s : State := { W0 with stopped := [.mgclk, .mpclk 2] }
   let c : ClockName := .mgclk
   let p : PortNo := 2
   (clkOn s (.mpclk p) = false) ∧
   (c ∈ s.stopped) ∧
   (s.cpx.step ≠ 0)) ∧
  (let s : State := { W0 with tap := { ir := 4, busy := true } }
   (s.tap.ir = 4)) := by
  refine ⟨?_, ?_, ?_⟩
  all_goals first | decide +kernel | (repeat' (first | decide +kernel | rfl | refine And.intro ?_ ?_ | (intro h; exact absurd h (by decide +kernel)) | (intros; rfl) | (intro _ _; exact ⟨rfl, rfl⟩) | (simp; done)))

end Sys2Proof.Tests
end

section
/-! What the shared operations of counters, sources, logs, messages, queues and ports leave alone: the Weave's registers, the registers of
`CPX`, the scratchpad, the NVM, whether the start-up latches are armed, and whether an access of the cycle waits. -/

namespace Sys2Proof.Machine

open Sys2Proof

/-- From s to t nothing has changed of the Weave, the `CPX` registers, the scratchpad, the NVM and the arming of the start-up latches, and
no further access waits for a slot. -/
structure KeepsWeave (s t : State) : Prop where
  wvl : t.wvl = s.wvl
  cpx : t.cpx = s.cpx
  spc : t.spc = s.spc
  nvc : t.nvc = s.nvc
  latched : t.evg.latched = s.evg.latched
  stalled : t.cyc.stalled = s.cyc.stalled

namespace KeepsWeave

theorem refl (s : State) : KeepsWeave s s := ⟨rfl, rfl, rfl, rfl, rfl, rfl⟩

theorem trans {s t u : State} (h : KeepsWeave s t) (k : KeepsWeave t u) : KeepsWeave s u :=
  ⟨k.wvl.trans h.wvl, k.cpx.trans h.cpx, k.spc.trans h.spc, k.nvc.trans h.nvc, k.latched.trans h.latched, k.stalled.trans h.stalled⟩

theorem ite {s t u : State} {c : Prop} [Decidable c] (h : KeepsWeave s t) (k : KeepsWeave s u) : KeepsWeave s (if c then t else u) := by
  split
  · exact h
  · exact k

/-- A run of steps each of which keeps the Weave keeps it. -/
theorem foldl {α : Type} {f : State → α → State} (h : ∀ s a, KeepsWeave s (f s a)) (l : List α) (s : State) :
    KeepsWeave s (l.foldl f s) := by
  induction l generalizing s with
  | nil => exact refl s
  | cons a l ih => exact (h s a).trans (ih (f s a))

/-! ### Parts of the state -/

theorem engPut (s : State) (e : Eng) (g : Engine) : KeepsWeave s (engPut s e g) := ⟨rfl, rfl, rfl, rfl, rfl, rfl⟩
theorem srcPut (s : State) (n : Nat) (x : Source) : KeepsWeave s (srcPut s n x) := ⟨rfl, rfl, rfl, rfl, rfl, rfl⟩
theorem ibfPut (s : State) (p : Nat) (x : Ibf) : KeepsWeave s (ibfPut s p x) := ⟨rfl, rfl, rfl, rfl, rfl, rfl⟩
theorem insPut (s : State) (i : Nat) (x : Inst) : KeepsWeave s (insPut s i x) := ⟨rfl, rfl, rfl, rfl, rfl, rfl⟩
theorem mptPut (s : State) (n : Nat) (x : Mpt) : KeepsWeave s (mptPut s n x) :=
  ite ⟨rfl, rfl, rfl, rfl, rfl, rfl⟩ ⟨rfl, rfl, rfl, rfl, rfl, rfl⟩
theorem hltPut (s : State) (x : Hlt) : KeepsWeave s { s with hlt := x } := ⟨rfl, rfl, rfl, rfl, rfl, rfl⟩
theorem pmuPut (s : State) (x : Pmu) : KeepsWeave s { s with pmu := x } := ⟨rfl, rfl, rfl, rfl, rfl, rfl⟩
theorem chePut (s : State) (x : Che) : KeepsWeave s { s with che := x } := ⟨rfl, rfl, rfl, rfl, rfl, rfl⟩

/-! ### Bits, sources, counters and the log -/

theorem fresh (s : State) (a k : Nat) : KeepsWeave s (fresh s a k) := ite (refl s) ⟨rfl, rfl, rfl, rfl, rfl, rfl⟩

theorem raiseSrc (s : State) (n : Nat) : KeepsWeave s (raiseSrc s n) := ite ((srcPut s n _).trans (fresh _ _ _)) (srcPut s n _)

theorem raiseIf (b : Bool) (s : State) (n : Nat) : KeepsWeave s (raiseIf b s n) := ite (raiseSrc s n) (refl s)

theorem cntKeep (s : State) (c : Nat) : KeepsWeave s (cntKeep s c) := ite (refl s) ⟨rfl, rfl, rfl, rfl, rfl, rfl⟩

theorem cntAdd (s : State) (c n : Nat) : KeepsWeave s (cntAdd s c n) := by
  refine (cntKeep s c).trans ?_
  unfold Machine.cntAdd
  dsimp only
  split <;> exact ⟨rfl, rfl, rfl, rfl, rfl, rfl⟩

theorem cntWrap (s : State) (c : Nat) : KeepsWeave s (cntWrap s c) :=
  (pmuPut s _).trans ((fresh _ _ _).trans (raiseIf _ _ _))

theorem pmuAdd (s : State) (c n : Nat) : KeepsWeave s (pmuAdd s c n) := ite (cntAdd s c n) ((cntAdd s c n).trans (cntWrap _ c))

theorem meterAdd (s : State) (m n : Nat) : KeepsWeave s (meterAdd s m n) := ite (refl s) ⟨rfl, rfl, rfl, rfl, rfl, rfl⟩

theorem takeFree (s : State) (n : Nat) : KeepsWeave s (takeFree s n).1 := ⟨rfl, rfl, rfl, rfl, rfl, rfl⟩

theorem logPut (s : State) (code : BitVec 8) (unit detail : Option Nat) : KeepsWeave s (logPut s code unit detail) := by
  unfold Machine.logPut
  refine ite ?_ ((hltPut s _).trans (fresh _ _ _))
  cases unit <;> cases detail <;> exact ⟨rfl, rfl, rfl, rfl, rfl, rfl⟩

/-! ### Slots of the crossbar -/

theorem slotTake (s : State) (u : SlotUse) : KeepsWeave s (slotTake s u) :=
  have h : KeepsWeave s { s with cyc := { s.cyc with used := u :: s.cyc.used } } := ⟨rfl, rfl, rfl, rfl, rfl, rfl⟩
  ite (h.trans (pmuAdd _ _ _)) h

theorem outServe {s u : State} {t m : Nat} {lend : Bool} (h : outServe s t m lend = some u) : KeepsWeave s u := by
  obtain ⟨own, -, rfl⟩ := Option.map_eq_some_iff.1 h
  exact slotTake s _

theorem txServe {s u : State} {p v m : Nat} (h : txServe s p v m = some u) : KeepsWeave s u := by
  unfold Machine.txServe at h
  split at h
  · exact outServe h
  · cases h

/-! ### Transmit queues -/

theorem txPush (s : State) (p v : Nat) (l : List LaneFlit) : KeepsWeave s (txPush s p v l) := ibfPut s p _

theorem txHeld (s : State) (p v m : Nat) : KeepsWeave s (txHeld s p v m) := ibfPut s p _

theorem txForget (s : State) (v m : Nat) : KeepsWeave s (txForget s v m) := foldl (fun s p => ibfPut s p _) _ s

theorem txJoin (s : State) (p v m : Nat) : KeepsWeave s (txJoin s p v m) := ite (refl s) ((txForget s v m).trans (ibfPut _ p _))

theorem ibfErr (s : State) (p k : Nat) : KeepsWeave s (ibfErr s p k) := (ibfPut s p _).trans ((fresh _ _ _).trans (raiseIf _ _ _))

theorem portState (s : State) (p : Nat) (st : PortSt) : KeepsWeave s (portState s p st) := (ibfPut s p _).trans (raiseIf _ _ _)

theorem countLost (s : State) (p n : Nat) : KeepsWeave s (countLost s p n) := ite (refl s) ((ibfPut s p _).trans (ibfErr _ p _))

/-! ### Health messages and states -/

theorem putAt {s u : State} {p v m : Nat} {d : LineData} (h : putAt s p v m d = .done u) : KeepsWeave s u := by
  unfold Machine.putAt at h
  split at h
  next s1 h1 =>
    cases h
    split at h1
    · exact (txServe h1).trans ((txPush s1 p v _).trans (txForget _ v m))
    · cases h1
  next => cases h

theorem twinFlush (s : State) : KeepsWeave s (twinFlush s) := by
  unfold Machine.twinFlush
  split
  · exact refl s
  · split
    next h => exact (putAt h).trans (hltPut _ _)
    next => exact txJoin s _ _ _

theorem portError (s : State) (n : Nat) (line : LineAddr) (err : BitVec 2) : KeepsWeave s (portError s n line err) :=
  (mptPut s n _).trans ((fresh _ _ _).trans (raiseIf _ _ _))

theorem mpPut (s : State) (n : Nat) (write : Bool) (line : LineAddr) (mst : Nat) (data : LineData) (mask : BitVec 64)
    (owner : MpOwner) (k : Nat) : KeepsWeave s (mpPut s n write line mst data mask owner k) :=
  ite ((mptPut s n _).trans ((pmuAdd _ _ _).trans (meterAdd _ _ _))) (mptPut s n _)

theorem mpSlot {s u : State} {n mst : Nat} {owner : MpOwner} (h : mpSlot s n mst owner = some u) : KeepsWeave s u := by
  unfold Machine.mpSlot at h
  split at h
  · cases h; exact refl s
  · split at h
    · exact outServe h
    · cases h
  · exact outServe h

theorem mpSendTo_sent {s u : State} {n mst : Nat} {write : Bool} {line : LineAddr} {data : LineData} {mask : BitVec 64}
    {owner : MpOwner} (h : mpSendTo s n write line mst data mask owner = .sent u) : KeepsWeave s u := by
  unfold Machine.mpSendTo at h
  dsimp only at h
  repeat' split at h
  all_goals cases h
  next hs => exact (mpSlot hs).trans (mpPut _ _ _ _ _ _ _ _ _)

theorem mpSendTo_refused {s u : State} {n mst : Nat} {write : Bool} {line : LineAddr} {data : LineData} {mask : BitVec 64}
    {owner : MpOwner} (h : mpSendTo s n write line mst data mask owner = .refused u) : KeepsWeave s u := by
  unfold Machine.mpSendTo at h
  dsimp only at h
  repeat' split at h
  all_goals cases h
  exact portError s _ _ _

theorem hostFlush (s : State) : KeepsWeave s (hostFlush s) := by
  unfold Machine.hostFlush
  split
  · exact refl s
  · dsimp only
    split
    next h => exact (mpSendTo_sent h).trans (hltPut _ _)
    next h => exact (mpSendTo_refused h).trans (hltPut _ _)
    next => exact refl s

theorem healthMsg (s : State) (code unit : Byte) : KeepsWeave s (healthMsg s code unit) := by
  have h := ite (c := (s.hlt.twinen && (ibfGet s s.twn.port.val).st == .active) = true)
    ((hltPut s { s.hlt with twinMsgs := s.hlt.twinMsgs ++ [healthFlit s (healthData s code unit)] }).trans (twinFlush _)) (refl s)
  exact ite (h.trans ((hltPut _ _).trans (hostFlush _))) h

theorem stateChange (s : State) (st : BitVec 2) (unit detail : Option Nat) : KeepsWeave s (stateChange s st unit detail) :=
  ite (refl s) ((hltPut s _).trans ((raiseSrc _ _).trans (logPut _ _ _ _)))

theorem setHealth (s : State) (st : BitVec 2) : KeepsWeave s (setHealth s st) :=
  ite (refl s) ((takeFree s 1).trans ((stateChange _ _ _ _).trans (healthMsg _ _ _)))

/-! ### Occurrences -/

theorem release (s : State) (n : Nat) : KeepsWeave s (release s n) :=
  ite ((srcPut s n _).trans ((fresh _ _ _).trans (pmuAdd _ _ _))) ((srcPut s n _).trans (pmuAdd _ _ _))

theorem endBatch (s : State) (n : Nat) : KeepsWeave s (endBatch s n) :=
  have h : KeepsWeave s { Machine.srcPut s n { srcGet s n with acc := 0, timer := 0 } with
      cyc := { s.cyc with batches := n :: s.cyc.batches } } := ⟨rfl, rfl, rfl, rfl, rfl, rfl⟩
  h.trans (release _ n)

theorem occur (s : State) (n : Nat) : KeepsWeave s (occur s n) :=
  ite (refl s) (ite (release s n) (ite (refl s) (ite (endBatch s n) (srcPut s n _))))

/-! ### Ports that go down, and retirements without a plan -/

theorem freeBuf (s : State) (b : Nat) : KeepsWeave s (freeBuf s b) := by
  unfold Machine.freeBuf
  split
  · exact ite ⟨rfl, rfl, rfl, rfl, rfl, rfl⟩ ((chePut s _).trans (fresh _ _ _))
  · exact (chePut s _).trans (fresh _ _ _)

theorem freePart (s : State) (a : Option PartMsg) : KeepsWeave s (freePart s a) := foldl freeBuf _ s

theorem abortOut (s : State) (m v : Nat) : KeepsWeave s (abortOut s m v) := (txPush s m v _).trans (txHeld _ m v 0)

theorem rxCut (s : State) (p v : Nat) : KeepsWeave s (rxCut s p v) := by
  unfold Machine.rxCut
  dsimp only
  refine ite (ibfPut s p _) ?_
  have h := (txForget s v (67 + p)).trans (freePart _ (tfind (ibfGet s p).rxPart v))
  split
  · exact h.trans ((ibfPut _ p _).trans (abortOut _ _ v))
  · exact h.trans (ibfPut _ p _)

theorem loseRoutes (s : State) (p : Nat) : KeepsWeave s (loseRoutes s p) :=
  (foldl (fun s q => ibfPut s q _) (List.range 4) s).trans (chePut _ _)

theorem leaveActive (s : State) (p : Nat) : KeepsWeave s (leaveActive s p) := ibfPut s p _

theorem portDown (s : State) (p : Nat) (st : PortSt) : KeepsWeave s (portDown s p st) := by
  refine .trans ?_ (loseRoutes _ p)
  refine .trans ?_ (foldl (fun s v => rxCut s p v) _ _)
  refine .trans ?_ (ibfPut _ p _)
  exact (leaveActive s p).trans ((portState _ p st).trans (countLost _ p _))

theorem leaveSets (s : State) (e : Nat) (sub : Option Nat) : KeepsWeave s (leaveSets s e sub) := by
  refine .trans ?_ (foldl (fun s (p : Nat × Inst) => insPut s p.1 _) _ _)
  exact foldl (fun s (p : Nat × Source) => srcPut s p.1 _) _ s

theorem noPlan (s : State) (detail : Option Nat) : KeepsWeave s (noPlan s detail) := by
  refine .trans ?_ ((raiseSrc _ 367).trans (logPut _ 6 none detail))
  refine .trans ?_ (foldl (fun s p => ite (portDown s p .down) (refl s)) _ _)
  exact foldl (fun s e => leaveSets s e none) _ s

end KeepsWeave

/-! ### Outcomes -/

/-- A command of which no access waits comes to its effect. -/
theorem served_eq {s t : State} (h : t.cyc.stalled = s.cyc.stalled) : served s t = t := by
  simp [served, h]

theorem happens_eq {s t : State} (h : t.cyc.stalled = s.cyc.stalled) : happens s t = .next t := by
  rw [happens, served_eq h]

theorem when_eq {b : Bool} {s t : State} (hb : b = true) (h : t.cyc.stalled = s.cyc.stalled) : when b s t = .next t := by
  rw [when, if_pos hb, served_eq h]

end Sys2Proof.Machine
end

section
/-! What the loader's operations do to the Weave (02 R34-R38, R53): plans and Weaves put in force, images that fail, blank slots. -/

namespace Sys2Proof.Machine

open Sys2Proof

/-! ### Plans and the hand-over -/

theorem planPorts_keeps (s : State) : KeepsWeave s (planPorts s) :=
  .foldl (fun s p => .ite (.ibfPut s p _) (.refl s)) (List.range 4) s

/-- The registers of the Weave under plan x, which has number i. -/
def planWeave (s : State) (i : Nat) (x : Plan) : Wvl :=
  { s.wvl with
    warp := overlay s.wvl.warpBase x.slots, warpStg := overlay s.wvl.warpBase x.slots
    txf := planFrames s x s.wvl.txf, txfStg := planFrames s x s.wvl.txfStg, plan := BitVec.ofNat 8 i, planReady := none }

/-- A plan that takes effect puts its registers in force and changes no others (02 R44). -/
theorem applyPlan_keeps {s : State} {i : Nat} {x : Plan} (h : s.wvl.plans[i]? = some x) :
    KeepsWeave { s with wvl := planWeave s i x } (applyPlan s i) := by
  unfold applyPlan
  rw [h]
  refine .trans ?_ ((KeepsWeave.raiseSrc _ 367).trans (.logPut _ 5 none (some i)))
  exact .foldl (fun s p => .ite (.leaveSets s _ _) (.refl s)) _ _

theorem cycleA_keeps {s t : State} (h : KeepsWeave s t) : KeepsWeave (cycleA s) (cycleA t) := by
  obtain ⟨hw, hc, hs, hn, hl, ht⟩ := h
  exact ⟨by simp only [cycleA, hw], by simp only [cycleA, hc], hs, hn, hl, ht⟩

/-- The start-up latches are armed or disarmed. -/
def latchPut (s : State) (b : Bool) : State := { s with evg := { s.evg with latched := b } }

theorem latchPut_keeps {s t : State} (h : KeepsWeave s t) (b : Bool) : KeepsWeave (latchPut s b) (latchPut t b) :=
  ⟨h.wvl, h.cpx, h.spc, h.nvc, rfl, h.stalled⟩

/-- The hand-over disarms the start-up latches and changes the sources alone (10 R241). -/
theorem handOver_keeps {s t : State} (h : KeepsWeave s t) : KeepsWeave (latchPut s false) (handOver t) := by
  have once (b : Bool) (s : State) (n : Nat) : KeepsWeave s (if b then occur s n else s) := .ite (.occur s n) (.refl s)
  refine (latchPut_keeps h false).trans ?_
  unfold handOver
  refine .trans ?_ (.foldl (fun s w => ?_) _ _)
  · exact ⟨rfl, rfl, rfl, rfl, rfl, rfl⟩
  · exact (once _ s (w + 1)).trans (once _ _ (w + 1))

/-! ### The minimal Weave -/

/-- The registers that the minimal Weave writes (02 R34, R38), before sources and engine sets are cleared. -/
def minimalRegisters (s : State) : State :=
  { s with
    wvl := { s.wvl with
      enable := 0, auxsel := 0, vecen := 0, boot := [], spwin := 0, lrbase := 0, poolbase := 0, poolsize := 0
      warpBase := [], warp := [], warpStg := [], txfBase := [], txf := [], txfStg := [], routes := [], routesStg := []
      plans := [], full := false, buildid := 0, target := 0, len := 0, plan := 0xFF, state := 5 }
    spc := { s.spc with reg := minRegions, regStg := minRegions, regCopy := minRegions }
    che := { s.che with quota := [], quotaStg := [] } }

/-- The minimal Weave is in force, the warp starts again, and the start-up latches stay armed (02 R38, 10 R241). -/
theorem applyMinimal_keeps (s : State) : KeepsWeave (latchPut (cycleA (minimalRegisters s)) true) (applyMinimal s) := by
  unfold applyMinimal
  refine .trans ?_ (.setHealth _ 3)
  refine latchPut_keeps (s := latchPut (cycleA (minimalRegisters s)) false) (handOver_keeps (cycleA_keeps ?_)) true
  refine .trans ?_ (.foldl (fun s i => .insPut s i _) _ _)
  exact .foldl (fun s k => .srcPut s (k + 1) _) _ (minimalRegisters s)

/-! ### A full image -/

/-- Of a full image written: it is full, its engines exist, and no byte of the scratchpad changes (02 R25-R31). -/
theorem writeImage_facts (s : State) (i : Verified) :
    (writeImage s i).wvl.full = true ∧ (writeImage s i).wvl.enable = i.r.enable i.secs ∧ (writeImage s i).spc.mem = s.spc.mem := by
  have keeps {u t : State} (h : KeepsWeave u t)
      (f : u.wvl.full = true ∧ u.wvl.enable = i.r.enable i.secs ∧ u.spc.mem = s.spc.mem) :
      t.wvl.full = true ∧ t.wvl.enable = i.r.enable i.secs ∧ t.spc.mem = s.spc.mem := by rwa [h.wvl, h.spc]
  unfold writeImage
  refine keeps (.foldl (fun s e => .engPut s e _) _ _) ?_
  refine keeps (.foldl (fun s k => .ite (.insPut s k _) (.insPut s k _)) _ _) ?_
  refine keeps (.foldl (fun s k => .srcPut s (k + 1) _) _ _) ?_
  exact ⟨rfl, rfl, rfl⟩

/-- The plan of the application, or its absence, changes the Weave's warp, frames, plan and key alone (19 R426, 02 R44, R45). -/
theorem bootPlan_keeps (s : State) : ∃ w : Wvl, KeepsWeave { s with wvl := w } (bootPlan s) ∧
    w.state = s.wvl.state ∧ w.full = s.wvl.full ∧ w.enable = s.wvl.enable ∧ w.slot = s.wvl.slot ∧ w.frame = s.wvl.frame := by
  unfold bootPlan
  split
  · exact ⟨s.wvl, .refl s, rfl, rfl, rfl, rfl, rfl⟩
  · split
    next i _ =>
      cases h : s.wvl.plans[i]? with
      | some x => exact ⟨planWeave s i x, applyPlan_keeps h, rfl, rfl, rfl, rfl, rfl⟩
      | none => exact ⟨s.wvl, by rw [applyPlan, h]; exact .refl s, rfl, rfl, rfl, rfl, rfl⟩
    next =>
      refine ⟨{ s.wvl with planKey := (bootKey s).2 }, (KeepsWeave.noPlan _ none).trans ?_, rfl, rfl, rfl, rfl, rfl⟩
      exact .ite ((KeepsWeave.hltPut _ _).trans (.fresh _ _ _)) (.refl _)

/-- The outcome of a load whose image's registers are written (02 R34 step 6). -/
def loadDone (s : State) (src : BitVec 2) : State :=
  { s with
    wvl := { s.wvl with state := 3, err := 0, section_ := 0, erraddr := 0 }
    hlt := { s.hlt with noplans := s.hlt.noplans || src.getLsbD 1 }
    cpx := { s.cpx with releaseDue := true } }

/-- Cycle A and what follows it, up to step 7 in health state h (19 R420, R426). -/
def stepSeven (s : State) (h : BitVec 2) : State :=
  let t := handOver (bootPlan (cycleA s))
  setHealth { t with cpx := { t.cpx with step := 7 } } h

theorem applyImage_eq (s : State) (i : Verified) (src : BitVec 2) :
    applyImage s i src = stepSeven (loadDone (writeImage s i) src) (loadedHealth (loadDone (writeImage s i) src)) := rfl

/-- In step 7 the Weave is the one written, the warp stands at its start, and the latches are disarmed. -/
theorem stepSeven_facts (s : State) (h : BitVec 2) :
    (∃ w : Wvl, (stepSeven s h).wvl = w ∧ w.state = s.wvl.state ∧ w.full = s.wvl.full ∧ w.enable = s.wvl.enable ∧ w.slot = 0 ∧
      w.frame = 0) ∧ (stepSeven s h).cpx = { s.cpx with commitq := [], step := 7 } ∧ (stepSeven s h).evg.latched = false ∧
      (stepSeven s h).spc = s.spc := by
  obtain ⟨w, boot, facts⟩ := bootPlan_keeps (cycleA s)
  have hand := handOver_keeps boot
  unfold stepSeven
  generalize handOver (bootPlan (cycleA s)) = t at hand
  have last := KeepsWeave.setHealth { t with cpx := { t.cpx with step := 7 } } h
  have cpx := congrArg (fun c : Cpx => { c with step := 7 }) hand.cpx
  exact ⟨⟨w, last.wvl.trans hand.wvl, facts⟩, last.cpx.trans cpx, last.latched.trans hand.latched, last.spc.trans hand.spc⟩

/-- A load that is done, in step 7: its Weave is in force, and the engines' release is due. -/
theorem stepSeven_loadDone (s : State) (src h : BitVec 2) :
    let u := stepSeven (loadDone s src) h
    u.wvl.state = 3 ∧ u.wvl.full = s.wvl.full ∧ u.wvl.enable = s.wvl.enable ∧ u.wvl.slot = 0 ∧ u.wvl.frame = 0 ∧ u.cpx.step = 7 ∧
      u.cpx.releaseDue = true ∧ u.evg.latched = false ∧ u.spc.mem = s.spc.mem := by
  obtain ⟨⟨w, hw, state, full, enable, slot, frame⟩, hc, latched, hs⟩ := stepSeven_facts (loadDone s src) h
  dsimp only
  rw [hw, hc, hs]
  exact ⟨state, full, enable, slot, frame, rfl, rfl, latched, rfl⟩

/-- An image applied puts its Weave in force (02 R34 step 6, 19 R426). -/
theorem applyImage_facts (s : State) (i : Verified) (src : BitVec 2) :
    let u := applyImage s i src
    u.wvl.state = 3 ∧ u.wvl.full = true ∧ u.wvl.enable = i.r.enable i.secs ∧ u.wvl.slot = 0 ∧ u.wvl.frame = 0 ∧ u.cpx.step = 7 ∧
      u.cpx.releaseDue = true ∧ u.evg.latched = false ∧ u.spc.mem = s.spc.mem := by
  obtain ⟨full, enable, mem⟩ := writeImage_facts s i
  obtain ⟨state, wfull, wenable, facts⟩ := stepSeven_loadDone (writeImage s i) src (loadedHealth (loadDone (writeImage s i) src))
  rw [full] at wfull
  rw [enable] at wenable
  rw [mem] at facts
  rw [applyImage_eq]
  exact ⟨state, wfull, wenable, facts⟩

/-! ### Failures -/

/-- A failed attempt leaves its outcome in `WVL.STAT` and `WVL.ERRADDR`, what the manual states of it as stated (02 R36). -/
theorem loadFail_keeps (s : State) (err : BitVec 4) (sec addr : Option Nat) : ∃ (x : BitVec 4) (y : BitVec 19),
    (∀ k, sec = some k → x = BitVec.ofNat 4 k) ∧ (∀ k, addr = some k → y = BitVec.ofNat 19 k) ∧
      KeepsWeave { s with wvl := { s.wvl with err := err, section_ := x, erraddr := y } } (loadFail s err sec addr) := by
  have out (t : State) (ht : KeepsWeave s t) (x : BitVec 4) (y : BitVec 19) :
      KeepsWeave { s with wvl := { s.wvl with err := err, section_ := x, erraddr := y } }
        (logPut { t with wvl := { t.wvl with err := err, section_ := x, erraddr := y } } 10 none (some err.toNat)) := by
    refine .trans ?_ (.logPut _ _ _ _)
    exact ⟨by simp only [ht.wvl], ht.cpx, ht.spc, ht.nvc, ht.latched, ht.stalled⟩
  cases sec with
  | some k =>
    cases addr with
    | some j => exact ⟨_, _, fun _ h => by cases h; rfl, fun _ h => by cases h; rfl, out s (.refl s) _ _⟩
    | none => exact ⟨_, _, fun _ h => by cases h; rfl, nofun, out _ (.takeFree s 3) _ _⟩
  | none =>
    cases addr with
    | some j => exact ⟨_, _, nofun, fun _ h => by cases h; rfl, out _ (.takeFree s 1) _ _⟩
    | none => exact ⟨_, _, nofun, nofun, out _ ((KeepsWeave.takeFree s 1).trans (.takeFree _ 3)) _ _⟩

/-- The loader waits for a new attempt (02 R37). -/
theorem toWait_keeps (s : State) : KeepsWeave { s with wvl := { s.wvl with state := 4, load := false, words := [] } } (toWait s) :=
  .setHealth _ 3

/-! ### Blank slots -/

/-- A slot that nothing has been written into holds 0xFF in every byte, and no uncorrectable word. -/
theorem slotReader_blank {s : State} (hn : s.nvc.nvm = []) (hb : s.nvc.bad = []) (src : BitVec 2) :
    slotReader s src = ⟨Array.replicate 393216 nvmDefault, []⟩ := by
  simp only [slotReader, hn, hb, mslice, List.filter_nil, List.map_nil, List.toArray_replicate]

/-- An image of blank bytes fails on MAGIC (02 R34 step 2): error 1, section 0, offset 0. -/
theorem structure_blank {n : Nat} (h : 64 ≤ n) :
    (Reader.structure_ ⟨Array.replicate n nvmDefault, []⟩) = .fail 1 (some 0) (some 0) := by
  have size : ¬ n < 0 + 64 := by omega
  have magic : (Reader.bytes ⟨Array.replicate n nvmDefault, []⟩ 0 4 == [0x57, 0x45, 0x41, 0x56]) = false := by
    have byte (k : Nat) (hk : k < 4) : ((Array.replicate n nvmDefault)[k]?).getD 0 = nvmDefault := by
      rw [Array.getElem?_replicate, if_pos (by omega)]; rfl
    simp only [Reader.bytes, List.range, List.range.loop, List.map_cons, Nat.zero_add, byte, Nat.reduceLT]
    rfl
  simp only [Reader.structure_, Reader.header, Reader.need, Reader.spoilt, List.filter_nil, List.min?_nil, Array.size_replicate, size,
    magic, Chk.must, Chk.bind, if_false, Bool.false_eq_true]

/-- An attempt from a blank slot fails on the header. -/
theorem trySlot_blank {s : State} (hn : s.nvc.nvm = []) (hb : s.nvc.bad = []) (src : BitVec 2) : ∃ u, trySlot s src = (u, none) ∧
    KeepsWeave { s with wvl := { s.wvl with srcused := src, unpinned := false, err := 1, section_ := 0, erraddr := 0 } } u := by
  obtain ⟨x, y, hx, hy, keeps⟩ := loadFail_keeps { s with wvl := { s.wvl with srcused := src, unpinned := false } } 1 (some 0) (some 0)
  rw [hx 0 rfl, hy 0 rfl] at keeps
  refine ⟨_, ?_, keeps⟩
  simp only [trySlot, slotReader_blank hn hb, structure_blank (n := 393216) (by omega)]

/-- A load from the NVM whose slots are both blank comes to the minimal Weave (02 R37). -/
theorem loadNvm_blank {s : State} (hn : s.nvc.nvm = []) (hb : s.nvc.bad = []) (src : BitVec 2) : ∃ u, loadNvm s src = applyMinimal u ∧
    KeepsWeave { s with wvl := { s.wvl with
      retried := true, srcused := src ^^^ 1, unpinned := false, err := 1, section_ := 0, erraddr := 0 } } u := by
  obtain ⟨u1, h1, k1⟩ := trySlot_blank (s := { s with wvl := { s.wvl with retried := false } }) hn hb src
  obtain ⟨u2, h2, k2⟩ := trySlot_blank (s := { u1 with wvl := { u1.wvl with retried := true } })
    (by rw [← hn, k1.nvc]) (by rw [← hb, k1.nvc]) (src ^^^ 1)
  refine ⟨u2, by simp only [loadNvm, h1, h2], .trans ?_ k2⟩
  exact ⟨by simp only [k1.wvl], k1.cpx, k1.spc, k1.nvc, k1.latched, k1.stalled⟩

/-! ### The loader's commands -/

theorem exec_weaveLoad (s : State) : exec .weaveLoad s = execWeaveLoad s := rfl
theorem exec_wvlCtlLoad (v : Word) (s : State) : exec (.wvlCtlLoad v) s = execWvlCtlLoad v s := rfl
theorem exec_wvlDataWrite (v : Word) (s : State) : exec (.wvlDataWrite v) s = execWvlDataWrite v s := rfl
theorem exec_weaveLoadTimeout (s : State) : exec .weaveLoadTimeout s = execWeaveLoadTimeout s := rfl

/-- WEAVE_LOAD in step 3 with no BIST failure begins step 4: the minimal Weave, words, or a slot (02 R34, R37). -/
theorem exec_weaveLoad_begins {s : State} (hm : clkOn s .mgclk = true) (hf : fclkOn s = true) (hw : s.wvl.state = 0)
    (hs : s.cpx.step = 3) (ht : s.cpx.testhold = false) (hb : s.cpx.bistfail = false) :
    exec .weaveLoad s = happens s (
      if s.cpx.straps.safe then applyMinimal { s with cpx := { s.cpx with step := 4 } }
      else if s.wvl.src.getLsbD 1 then beginWords { s with cpx := { s.cpx with step := 4 } } s.wvl.src
      else loadNvm { s with cpx := { s.cpx with step := 4 } } s.wvl.src) := by
  simp [exec_weaveLoad, execWeaveLoad, hm, hf, hw, hs, ht, hb]

/-- A write of `WVL.CTL` with LOAD set: SRC is taken, and a load starts where one may (02 R53). -/
theorem wvlCtl_load (s : State) (v : Word) : wvlCtl s (v ||| 4) =
    let s1 := { s with wvl := { s.wvl with src := v.setWidth 2 } }
    if s.wvl.state = 4 ∨ s.wvl.state = 5 then (if s.cpx.bistfail then s1 else startLoad s1) else wvlErr s1 := by
  have src : fld (v ||| 4) 0 2 = v.setWidth 2 := by
    refine BitVec.eq_of_getLsbD_eq fun k hk => ?_
    obtain rfl | rfl : k = 0 ∨ k = 1 := by omega
    all_goals simp [fld]
  have load : (v ||| 4).getLsbD 2 = true := by simp
  simp only [wvlCtl, src, load, Bool.not_true, Bool.false_eq_true, if_false]

/-- Step 4 under the safe strap: the minimal Weave is in force (02 R34). -/
theorem applyMinimal_facts (s : State) :
    let t := applyMinimal s
    t.wvl.state = 5 ∧ t.wvl.full = false ∧ t.wvl.enable = 0 ∧ t.wvl.slot = 0 ∧ t.wvl.frame = 0 ∧ t.cpx.step = 6 ∧
      t.cpx.commitq = [] ∧ t.evg.latched = true ∧ t.spc.mem = s.spc.mem := by
  have h := applyMinimal_keeps s
  dsimp only
  rw [h.wvl, h.cpx, h.spc, h.latched]
  exact ⟨rfl, rfl, rfl, rfl, rfl, rfl, rfl, rfl, rfl⟩

/-- The minimal Weave leaves the outcome of the attempts before it (02 R36, R37). -/
theorem applyMinimal_outcome (s : State) :
    let t := applyMinimal s
    t.wvl.err = s.wvl.err ∧ t.wvl.section_ = s.wvl.section_ ∧ t.wvl.erraddr = s.wvl.erraddr ∧ t.wvl.retried = s.wvl.retried ∧
      t.wvl.srcused = s.wvl.srcused := by
  dsimp only
  rw [(applyMinimal_keeps s).wvl]
  exact ⟨rfl, rfl, rfl, rfl, rfl⟩

theorem applyMinimal_stalled (s : State) : (applyMinimal s).cyc.stalled = s.cyc.stalled := (applyMinimal_keeps s).stalled

end Sys2Proof.Machine
end

section
/-! The Weave's loads and the loader's registers (O38). -/

namespace Sys2Proof.Machine

open Sys2Proof

/-- Settles O38: what each start of a load comes to, from the loader's operations and from what they leave alone. -/
theorem weaveLoader : Obligations.WeaveLoader := by
  unfold Obligations.WeaveLoader
  refine ⟨fun s i src => ⟨fun hm hf hw hs ht hb => ⟨fun safe => ?safe, fun safe word => ?words, fun safe slot hn hbad => ?blank⟩,
    applyImage_facts s i src⟩, fun s v hf => ⟨fun idle hb => ?load, fun h4 h5 => ?refused, fun h1 hsrc more => ?word, fun h1 => ?stray,
      fun h1 hsrc h0 gap => ?timeout⟩⟩
  case safe =>
    refine ⟨_, ?_, applyMinimal_facts { s with cpx := { s.cpx with step := 4 } }⟩
    rw [exec_weaveLoad_begins hm hf hw hs ht hb, if_pos safe]
    exact happens_eq (applyMinimal_stalled _)
  case words =>
    rw [exec_weaveLoad_begins hm hf hw hs ht hb, if_neg (ne_true_of_eq_false safe), if_pos word]
    exact happens_eq rfl
  case blank =>
    obtain ⟨u, load, keeps⟩ := loadNvm_blank (s := { s with cpx := { s.cpx with step := 4 } }) hn hbad s.wvl.src
    obtain ⟨state, full, -, -, -, step, -⟩ := applyMinimal_facts u
    obtain ⟨err, sec, addr, retried, used⟩ := applyMinimal_outcome u
    rw [keeps.wvl] at err sec addr retried used
    refine ⟨applyMinimal u, ?_, state, full, err, sec, addr, retried, used, step⟩
    rw [exec_weaveLoad_begins hm hf hw hs ht hb, if_neg (ne_true_of_eq_false safe), if_neg (ne_true_of_eq_false slot), load]
    exact happens_eq ((applyMinimal_stalled u).trans keeps.stalled)
  case load =>
    rw [exec_wvlCtlLoad, execWvlCtlLoad, wvlCtl_load, if_pos idle, if_neg (ne_true_of_eq_false hb)]
    exact when_eq hf rfl
  case refused =>
    rw [exec_wvlCtlLoad, execWvlCtlLoad, wvlCtl_load, if_neg (not_or.2 ⟨h4, h5⟩)]
    exact when_eq hf (KeepsWeave.fresh _ _ _).stalled
  case word =>
    rw [exec_wvlDataWrite, execWvlDataWrite, wvlData, if_pos ⟨h1, hsrc⟩]
    simp only [takeWord, more]
    exact when_eq hf rfl
  case stray =>
    rw [exec_wvlDataWrite, execWvlDataWrite, wvlData, if_neg fun h => h1 h.1]
    exact when_eq hf (KeepsWeave.fresh _ _ _).stalled
  case timeout =>
    obtain ⟨x, y, -, -, fail⟩ := loadFail_keeps s 11 none none
    have wait := toWait_keeps (loadFail s 11 none none)
    rw [fail.wvl] at wait
    refine ⟨toWait (loadFail s 11 none none), ?_, ?_⟩
    · rw [exec_weaveLoadTimeout, execWeaveLoadTimeout]
      refine when_eq ?_ (wait.stalled.trans fail.stalled)
      simp only [hf, h1, hsrc, beq_self_eq_true, bne_iff_ne.2 h0, gap, decide_true, Bool.and_self]
    · rw [wait.wvl]
      exact ⟨rfl, rfl, rfl, rfl⟩

end Sys2Proof.Machine
end

section
/-! Commit groups and fallback plans (O39): what a queued group and a plan that has been read come to (02 R44, R48-R52, 17 R401). -/

namespace Sys2Proof.Machine

open Sys2Proof

theorem exec_cpxCommitWrite (v : Word) (s : State) : exec (.cpxCommitWrite v) s = execCpxCommitWrite v s := rfl
theorem exec_commitGroupApply (s : State) : exec .commitGroupApply s = execCommitGroupApply s := rfl
theorem exec_fallbackPlanRead (ok : Bool) (s : State) : exec (.fallbackPlanRead ok) s = execFallbackPlanRead ok s := rfl
theorem exec_fallbackPlanApply (s : State) : exec .fallbackPlanApply s = execFallbackPlanApply s := rfl

/-! ### Commit groups -/

/-- With no bit set in the cycle a written word counts as it is (00 R6). -/
theorem w1cWord_eq {s : State} {a : Nat} (h : freshBits s a = 0) (v : Word) : w1cWord s a v = v := by
  rw [w1cWord, h]
  exact BitVec.and_allOnes

/-- A write of `CPX.COMMIT` that names a group not in the queue puts it there (02 R48). -/
theorem commitWrite_queues {s : State} {v : Word} {g : BitVec 12} {k : Group} (clean : freshBits s 0x40 = 0) (hg : fld v 0 12 = g)
    (hk : groupOf g = some k) (h0 : g ≠ 0) (h17 : v.getLsbD 17 = false) (h18 : v.getLsbD 18 = false)
    (absent : ∀ p ∈ s.cpx.commitq, p.1 ≠ g) (room : s.cpx.commitq.length ≤ 7) :
    commitWrite s v = { s with cpx := { s.cpx with commitq := s.cpx.commitq ++ [(g, lateSlot s.wvl.slot)] } } := by
  have waits : s.cpx.commitq.any (·.1 == g) = false := List.any_eq_false.2 fun p hp => by simpa using absent p hp
  have full : ¬ 8 ≤ s.cpx.commitq.length := by omega
  simp only [commitWrite, w1cWord_eq clean, hg, hk, h0, h17, h18, waits, full, if_false, Option.isNone_some, Bool.not_false, Bool.and_true,
    Bool.false_eq_true]

/-- One that names no group sets CFGERR (02 R52). -/
theorem commitWrite_unnamed {s : State} {v : Word} {g : BitVec 12} (clean : freshBits s 0x40 = 0) (hg : fld v 0 12 = g)
    (hk : groupOf g = none) (h0 : g ≠ 0) (h17 : v.getLsbD 17 = false) (h18 : v.getLsbD 18 = false) : commitWrite s v = cpxErr s := by
  simp only [commitWrite, w1cWord_eq clean, hg, hk, h0, h17, h18, if_false, if_true, Option.isNone_none, Bool.not_false, Bool.and_true]

theorem quotaMin_eq (q : Word) : quotaMin q = q.toNat % 65536 := by
  simp [quotaMin, fld]

theorem quotaMax_eq (q : Word) : quotaMax q = q.toNat / 65536 := by
  have h := q.isLt
  simp only [quotaMax, fld, BitVec.extractLsb'_toNat, Nat.shiftRight_eq_div_pow]
  omega

theorem groupOf_quota (k : Fin 1024) : groupOf (BitVec.ofNat 12 (0x200 + k.val)) = some (.quota k.val) := by
  have h := k.isLt
  have n : (BitVec.ofNat 12 (0x200 + k.val)).toNat = 0x200 + k.val := by rw [BitVec.toNat_ofNat]; omega
  unfold groupOf
  rw [n, if_neg (by omega), if_neg (by omega), if_pos (by omega), Nat.add_sub_cancel_left]

theorem groupOk_quota (s : State) (c : Nat) : groupOk s (.quota c) = true ↔
    let q := tget 0 s.che.quotaStg c
    q.toNat % 65536 ≤ q.toNat / 65536 ∧ q.toNat / 65536 ≤ s.wvl.poolsize.toNat / 256 ∧
      ((s.che.quota.filter fun p => p.1 != c).map fun p => p.2.toNat % 65536).sum + q.toNat % 65536 ≤ s.wvl.poolsize.toNat / 256 := by
  simp only [groupOk, quotaMin_eq, quotaMax_eq, poolBufs, decide_eq_true_eq]

/-- At the boundary the one group that is due, legal as it stands, takes effect (02 R50). -/
theorem exec_commitGroupApply_legal {s : State} {g : BitVec 12} {k : Group} (hf : fclkOn s = true) (hs : s.wvl.slot = 0)
    (hq : s.cpx.commitq = [(g, false)]) (hk : groupOf g = some k) {t : State}
    (ok : groupOk { s with cpx := { s.cpx with commitq := [] } } k = true)
    (ht : groupApply { s with cpx := { s.cpx with commitq := [] } } k = t) (hc : t.cyc.stalled = s.cyc.stalled) :
    exec .commitGroupApply s = .next t := by
  rw [exec_commitGroupApply, execCommitGroupApply]
  simp only [hq, List.filter_cons, List.filter_nil, Bool.not_false, if_true, Bool.false_eq_true, if_false, List.foldl_cons,
    List.foldl_nil, commitOne, hk, ok, ht]
  exact when_eq (by simp [hf, hs]) hc

/-- A group that is not legal is kept back, with CERR and ERRGROUP (02 R50). -/
theorem exec_commitGroupApply_illegal {s : State} {g : BitVec 12} {k : Group} (hf : fclkOn s = true) (hs : s.wvl.slot = 0)
    (hq : s.cpx.commitq = [(g, false)]) (hk : groupOf g = some k)
    (bad : groupOk { s with cpx := { s.cpx with commitq := [] } } k = false) :
    exec .commitGroupApply s = .next (fresh { s with cpx := { s.cpx with commitq := [], cerr := true, errgroup := g } } 0x40 17) := by
  rw [exec_commitGroupApply, execCommitGroupApply]
  simp only [hq, List.filter_cons, List.filter_nil, Bool.not_false, if_true, Bool.false_eq_true, if_false, List.foldl_cons,
    List.foldl_nil, commitOne, hk, bad]
  exact when_eq (by simp [hf, hs]) (KeepsWeave.fresh _ _ _).stalled

/-! ### Fallback plans -/

/-- A plan can be read when none of its words is uncorrectable in the slot of the running Weave (17 R401). -/
theorem planReadable_iff (s : State) (x : Plan) : planReadable s x = true ↔ s.hlt.noplans = false ∧
    ∀ w ∈ s.nvc.bad, 8 * w + 8 ≤ 0x60000 * s.wvl.srcused.toNat + x.off ∨ 0x60000 * s.wvl.srcused.toNat + x.off + x.len ≤ 8 * w := by
  simp only [planReadable, Bool.and_eq_true, Bool.not_eq_true', List.all_eq_true, decide_eq_true_eq]

/-- The read of plan i ends: the plan waits for the warp boundary, or there is no plan (17 R401). -/
theorem exec_fallbackPlanRead_of {s : State} {i : Nat} {x : Plan} (ok : Bool) (hr : s.wvl.planRead = some i)
    (hx : s.wvl.plans[i]? = some x) (hm : clkOn s .mgclk = true) : exec (.fallbackPlanRead ok) s = .next (
      if ok && planReadable s x then { s with wvl := { s.wvl with planRead := none, planReady := some i } }
      else noPlan { s with wvl := { s.wvl with planRead := none } } (some i)) := by
  simp only [exec_fallbackPlanRead, execFallbackPlanRead, hr, hx, hm, Bool.not_true, Bool.false_eq_true, if_false, Option.any_some]

/-- A plan that is not read leaves the one that waits for the boundary, if any. -/
theorem exec_fallbackPlanRead_fails {s : State} {i : Nat} {x : Plan} {ok : Bool} (hr : s.wvl.planRead = some i)
    (hx : s.wvl.plans[i]? = some x) (hm : clkOn s .mgclk = true) (bad : (ok && planReadable s x) = false) :
    ∃ t, exec (.fallbackPlanRead ok) s = .next t ∧ t.wvl.planRead = none ∧ t.wvl.planReady = s.wvl.planReady := by
  have keeps := KeepsWeave.noPlan { s with wvl := { s.wvl with planRead := none } } (some i)
  refine ⟨_, by rw [exec_fallbackPlanRead_of ok hr hx hm, if_neg (ne_true_of_eq_false bad)], ?_⟩
  rw [keeps.wvl]
  exact ⟨rfl, rfl⟩

/-- Settles O39: the commit queue, a boundary with one group due, and a plan's read and application. -/
theorem weaveCommits : Obligations.WeaveCommits := by
  unfold Obligations.WeaveCommits
  refine ⟨fun s v hf clean => ⟨fun hv new room => ?queued, fun hv => ?unnamed, fun hs hq => ⟨fun ok => ?routes, fun bad => ?badRoutes⟩,
    fun k hs hq => ?quota⟩, fun s i x => ⟨fun hr hx hm => ⟨fun plans good => ?readable, fun bad => ?spoilt, ?failed⟩,
      fun hr hx hf hs hq => ?applied⟩⟩
  case queued =>
    subst hv
    rw [exec_cpxCommitWrite, execCpxCommitWrite, commitWrite_queues (g := 0x700#12) (k := .warp) clean rfl rfl (by decide) rfl rfl new room]
    exact when_eq hf rfl
  case unnamed =>
    subst hv
    rw [exec_cpxCommitWrite, execCpxCommitWrite, commitWrite_unnamed (g := 0x0FF#12) clean rfl rfl (by decide) rfl rfl]
    exact when_eq hf (KeepsWeave.fresh _ _ _).stalled
  case routes => exact exec_commitGroupApply_legal hf hs hq rfl ok rfl rfl
  case badRoutes => exact exec_commitGroupApply_illegal hf hs hq rfl bad
  case quota =>
    intro q others least most sum
    exact exec_commitGroupApply_legal hf hs hq (groupOf_quota k) ((groupOk_quota _ _).2 ⟨least, most, sum⟩) rfl rfl
  case readable =>
    rw [exec_fallbackPlanRead_of true hr hx hm, Bool.true_and, if_pos ((planReadable_iff s x).2 ⟨plans, good⟩)]
  case spoilt =>
    refine exec_fallbackPlanRead_fails hr hx hm (Bool.eq_false_iff.2 fun h => ?_)
    obtain ⟨w, hw, lo, hi⟩ := bad
    have clear := ((planReadable_iff s x).1 h).2 w hw
    omega
  case failed => exact exec_fallbackPlanRead_fails hr hx hm rfl
  case applied =>
    have keeps := (applyPlan_keeps hx).trans (planPorts_keeps _)
    refine ⟨planPorts (applyPlan s i), ?_, ?_⟩
    · simp [exec_fallbackPlanApply, execFallbackPlanApply, hr, hf, hs, hq]
    · rw [keeps.wvl, keeps.spc]
      exact ⟨rfl, rfl, rfl, rfl, rfl⟩

end Sys2Proof.Machine
end

section
/-! The link's shared operations: bytes of a control flit, flits given to the PCS, queues and receive buffers (14 R325, R327, R332, R338). -/

namespace Sys2Proof.Machine

open Sys2Proof

/-! ### Bytes of a flit -/

theorem leNat_lt (bs : List Byte) : leNat bs < 256 ^ bs.length := by
  induction bs with
  | nil => simp [leNat]
  | cons b bs ih =>
    have hb := b.isLt
    simp only [leNat, List.length_cons, Nat.pow_succ]
    omega

theorem leNat_drop (bs : List Byte) (o : Nat) : leNat (bs.drop o) = leNat bs / 256 ^ o := by
  induction o generalizing bs with
  | zero => simp
  | succ o ih =>
    cases bs with
    | nil => simp [leNat]
    | cons b bs =>
      have hb := b.isLt
      rw [List.drop_succ_cons, ih, Nat.pow_succ', ← Nat.div_div_eq_div_mul]
      congr 1
      simp only [leNat]
      omega

theorem leNat_take (bs : List Byte) (n : Nat) : leNat (bs.take n) = leNat bs % 256 ^ n := by
  induction n generalizing bs with
  | zero => simp [leNat, Nat.mod_one]
  | succ n ih =>
    cases bs with
    | nil => simp [leNat]
    | cons b bs =>
      have hb := b.isLt
      have low : (b.toNat + 256 * leNat bs) % 256 = b.toNat := by omega
      have high : (b.toNat + 256 * leNat bs) / 256 = leNat bs := by omega
      rw [List.take_succ_cons, leNat, leNat, ih, Nat.pow_succ', Nat.mod_mul, low, high]

theorem leNat_toBytes (n x : Nat) : leNat (toBytes n x) = x % 256 ^ n := by
  induction n generalizing x with
  | zero => simp [leNat, toBytes, Nat.mod_one]
  | succ n ih => rw [toBytes, leNat, ih, BitVec.toNat_ofNat, Nat.pow_succ' (m := 256), Nat.mod_mul]

@[simp] theorem toBytes_length (n x : Nat) : (toBytes n x).length = n := by
  induction n generalizing x with
  | zero => rfl
  | succ n ih => simp [toBytes, ih]

/-- Bytes that fit in w bits spell a number that does. -/
theorem leNat_lt_two_pow {bs : List Byte} {w : Nat} (h : 8 * bs.length ≤ w) : leNat bs < 2 ^ w := by
  have bytes : leNat bs < 2 ^ (8 * bs.length) := by
    rw [Nat.pow_mul]
    exact leNat_lt bs
  exact Nat.lt_of_lt_of_le bytes (Nat.pow_le_pow_right (by omega) h)

theorem toNat_ofNat_leNat {bs : List Byte} {w : Nat} (h : 8 * bs.length ≤ w) : (BitVec.ofNat w (leNat bs)).toNat = leNat bs := by
  rw [BitVec.toNat_ofNat, Nat.mod_eq_of_lt (leNat_lt_two_pow h)]

theorem flatMap_toBytes_length (n : Nat) (l : List Nat) : (l.flatMap (toBytes n)).length = l.length * n := by
  induction l with
  | nil => simp only [List.flatMap_nil, List.length_nil, Nat.zero_mul]
  | cons a l ih => rw [List.flatMap_cons, List.length_append, toBytes_length, ih, List.length_cons, Nat.succ_mul, Nat.add_comm]

/-- A field of a flit is the number that its bytes spell. -/
theorem flitNat_toLine {bs : List Byte} (h : bs.length ≤ 64) (o n : Nat) : flitNat (toLine 0 bs) o n = leNat ((bs.drop o).take n) := by
  have low : toLine 0 bs = BitVec.ofNat 512 (leNat bs) := congrArg (BitVec.ofNat 512) (Nat.mul_one _)
  have line : (toLine 0 bs).toNat = leNat bs := low ▸ toNat_ofNat_leNat (by omega)
  rw [flitNat, line, leNat_take, leNat_drop, Nat.pow_mul, Nat.pow_mul]

/-- The fields of a link control flit (14 R327). -/
theorem ctlFlit_fields (x : Ibf) (t fl : Byte) (start devid : BitVec 12) {init : List Nat} (h : init.length ≤ 4) :
    let d := ctlFlit x t fl start devid init
    flitNat d 0 1 = t.toNat ∧ flitNat d 1 1 = fl.toNat ∧ flitNat d 2 2 = x.e.toNat ∧ flitNat d 6 2 = devid.toNat ∧
      ∀ v < 4, flitNat d (8 + 2 * v) 2 = (tget 0 x.freed v).toNat := by
  have size : ([t, fl] ++ toBytes 2 x.e.toNat ++ toBytes 2 start.toNat ++ toBytes 2 devid.toNat ++
      (List.range 4).flatMap (fun v => toBytes 2 (tget 0 x.freed v).toNat) ++ init.flatMap (toBytes 2)).length ≤ 64 := by
    have credits : ((List.range 4).flatMap fun v => toBytes 2 (tget 0 x.freed v).toNat).length = 8 := rfl
    simp only [List.length_append, List.length_cons, List.length_nil, toBytes_length, flatMap_toBytes_length, credits]
    omega
  have field (o n : Nat) := flitNat_toLine size o n
  have two (b : BitVec 12) : leNat (toBytes 2 b.toNat) = b.toNat := by
    have hb := b.isLt
    rw [leNat_toBytes]
    omega
  have one (b : Byte) : leNat [b] = b.toNat := by simp [leNat]
  refine ⟨(field 0 1).trans (one t), (field 1 1).trans (one fl), (field 2 2).trans (two x.e), (field 6 2).trans (two devid), fun v hv => ?_⟩
  refine (field _ 2).trans (.trans (congrArg leNat ?_) (two (tget 0 x.freed v)))
  match v, hv with
  | 0, _ => rfl
  | 1, _ => rfl
  | 2, _ => rfl
  | 3, _ => rfl

/-! ### What leaves the ports alone -/

@[simp] theorem pmuAdd_ibf (s : State) (c n : Nat) : (pmuAdd s c n).ibf = s.ibf := by rw [pmuAdd_eq]
@[simp] theorem pmuAdd_hlt (s : State) (c n : Nat) : (pmuAdd s c n).hlt = s.hlt := by rw [pmuAdd_eq]
@[simp] theorem pmuAdd_che (s : State) (c n : Nat) : (pmuAdd s c n).che = s.che := by rw [pmuAdd_eq]

theorem meterAdd_eq (s : State) (m n : Nat) : meterAdd s m n = { s with pmu := (meterAdd s m n).pmu } := by
  unfold meterAdd
  split <;> rfl

@[simp] theorem meterAdd_ibf (s : State) (m n : Nat) : (meterAdd s m n).ibf = s.ibf := by rw [meterAdd_eq]
@[simp] theorem meterAdd_hlt (s : State) (m n : Nat) : (meterAdd s m n).hlt = s.hlt := by rw [meterAdd_eq]

theorem ibfGet_ibfPut_ne (s : State) {p q : Nat} (x : Ibf) (h : q ≠ p) : ibfGet (ibfPut s p x) q = ibfGet s q :=
  tget_tset_ne _ _ _ h

theorem ibfGet_ibfErr (s : State) (p k : Nat) : ibfGet (ibfErr s p k) p = { ibfGet s p with err := setBit (ibfGet s p).err k true } := by
  unfold ibfErr
  rw [raiseIf_eq, fresh_eq]
  exact ibfGet_ibfPut s p _

/-! ### A flit given to the PCS -/

theorem ibfGet_onWire (s : State) (p : Nat) (seq : BitVec 12) (cls : Nat) (d : LineData) :
    ibfGet (onWire s p seq cls d) p = { ibfGet s p with
      ptx := { (ibfGet s p).ptx with fifo := (ibfGet s p).ptx.fifo ++ [⟨fchkOf seq cls d, d, (ibfGet s p).frameSlot == 1⟩] } } := by
  have h : ibfGet (meterAdd (pmuAdd s (522 + 2 * p) 68) (5 + p) 68) p = ibfGet s p := by simp [ibfGet]
  rw [onWire, ibfGet_ibfPut, h]

theorem onWire_hlt (s : State) (p : Nat) (seq : BitVec 12) (cls : Nat) (d : LineData) : (onWire s p seq cls d).hlt = s.hlt := by
  simp [onWire]

theorem KeepsWeave.onWire (s : State) (p : Nat) (seq : BitVec 12) (cls : Nat) (d : LineData) : KeepsWeave s (onWire s p seq cls d) :=
  (KeepsWeave.pmuAdd s _ _).trans ((KeepsWeave.meterAdd _ _ _).trans (.ibfPut _ p _))

end Sys2Proof.Machine
end

section
/-! A slot of a port in ACTIVE (02 R43; 14 R317, R325, R332, R333): what it gives the PCS. -/

namespace Sys2Proof.Machine

open Sys2Proof

theorem exec_transmitSlot (p : PortNo) (s : State) : exec (.transmitSlot p) s = execTransmitSlot p s := rfl

theorem skipLane_none {x : Ibf} (h : x.txSkip = []) (v n : Nat) : skipLane v n x = x := by
  cases n with
  | zero => rfl
  | succ n => simp [skipLane, h, tget]

theorem foldl_skipLane_none {x : Ibf} (h : x.txSkip = []) (n : Nat) (l : List Nat) : l.foldl (fun y v => skipLane v n y) x = x := by
  induction l with
  | nil => rfl
  | cons v l ih => rw [List.foldl_cons, skipLane_none h, ih]

theorem twinFlush_none {s : State} (h : s.hlt.twinMsgs = []) : twinFlush s = s := by
  simp only [twinFlush, h]

/-- A lane with a flit, credit for it and room to keep it is ready (14 R332). -/
theorem laneReady_flit {x : Ibf} {v : Nat} {d : LineData} {r : List LaneFlit} (hi : x.initSeen = true) (hp : x.replay = none)
    (hs : x.resend = none) (room : x.retry.length < 512) (ht : tget [] x.tx v = .flit d :: r) (credit : creditsOf x v ≠ 0) :
    laneReady x v = true := by
  simp only [laneReady, hi, hp, hs, room, ht, Option.isNone_none, decide_true, Bool.and_self, Bool.true_and, bne_iff_ne]
  exact credit

theorem laneReady_empty {x : Ibf} {v : Nat} (ht : tget [] x.tx v = []) : laneReady x v = false := by
  simp [laneReady, ht]

theorem laneReady_noInit {x : Ibf} (hi : x.initSeen = false) (v : Nat) : laneReady x v = false := by
  simp [laneReady, hi]

/-- Without a replay under way a slot goes to the first lane of it that is ready (02 R43). -/
theorem sendSlot_lane {s : State} {p v : Nat} {x : Ibf} {lanes : List Nat} (hr : x.resend = none)
    (hv : lanes.find? (laneReady x) = some v) : sendSlot (ibfPut s p x) p lanes = sendNew (ibfPut s p x) p v := by
  have same : { x with resend := none } = x := by rw [← hr]
  simp only [sendSlot, ibfGet_ibfPut, ibfPut_ibfPut, resendNext, hr, ite_self, same, hv]

/-- The port with no entry to send again. -/
def replayDone (x : Ibf) : Ibf := { x with resend := none }

theorem replayDone_eq {x : Ibf} (h : x.resend = none) : replayDone x = x := by
  unfold replayDone
  rw [← h]

@[simp] theorem replayDone_initSeen (x : Ibf) : (replayDone x).initSeen = x.initSeen := rfl
@[simp] theorem replayDone_frameSlot (x : Ibf) : (replayDone x).frameSlot = x.frameSlot := rfl
@[simp] theorem replayDone_ptx (x : Ibf) : (replayDone x).ptx = x.ptx := rfl

/-- With no lane ready it goes to link control. -/
theorem sendSlot_control {s : State} {p : Nat} {x : Ibf} {lanes : List Nat}
    (h : (if x.initSeen && x.replay.isNone then resendNext x else none) = none)
    (idle : lanes.find? (laneReady (replayDone x)) = none) :
    sendSlot (ibfPut s p x) p lanes = sendControl (ibfPut s p (replayDone x)) p := by
  unfold replayDone at idle ⊢
  simp only [sendSlot, ibfGet_ibfPut, ibfPut_ibfPut, h, idle]

/-- The port after a flit of lane v has left its queue for the retry buffer (14 R329, R332). -/
def flitSent (x : Ibf) (v : Nat) (d : LineData) (r : List LaneFlit) : Ibf :=
  { x with
    tx := tset [] x.tx v r, txnext := x.txnext + 1, retry := x.retry ++ [⟨x.txnext, BitVec.ofNat 3 v, d⟩]
    sent := tset 0 x.sent v (tget 0 x.sent v + 1)
    txLeft := tset 0 x.txLeft v (if tget 0 x.txLeft v = 0 then flitsOf v d - 1 else tget 0 x.txLeft v - 1) }

theorem sendNew_flit {s : State} {p v : Nat} {x : Ibf} {d : LineData} {r : List LaneFlit} (h : tget [] x.tx v = .flit d :: r) :
    sendNew (ibfPut s p x) p v = onWire (ibfPut s p (flitSent x v d r)) p x.txnext v d := by
  simp only [sendNew, ibfGet_ibfPut, ibfPut_ibfPut, h, flitSent]

theorem sendControl_idle {s : State} {p : Nat} {x : Ibf} (hi : x.initSeen = true) (hp : x.replay = none) :
    sendControl (ibfPut s p x) p = onWire (ibfPut s p x) p 0 5 (ctlFlit x (if x.naksent then 2 else 1) 0 0 s.cpx.devid []) := by
  simp only [sendControl, ibfGet_ibfPut, hi, hp, Bool.not_true, Bool.false_eq_true, if_false, ibfPut_cpx]

/-- The port as its INIT describes it: FIRST restarts the sequences, the first since ACTIVE the credit counts (14 R333). -/
def initPort (x : Ibf) : Ibf :=
  let x1 := if x.first then { x with e := 0, rseq := 0, txnext := 0 } else x
  if x.initSent then x1 else { x1 with freed := [], initSent := true }

theorem initPort_ptx (x : Ibf) : (initPort x).ptx = x.ptx := by
  unfold initPort
  split <;> split <;> rfl

theorem initPort_frameSlot (x : Ibf) : (initPort x).frameSlot = x.frameSlot := by
  unfold initPort
  split <;> split <;> rfl

/-- What INIT says of each lane: its free places less the flits freed (14 R332). -/
def initCredits (x : Ibf) : List Nat := (List.range 4).map fun v => (BitVec.ofNat 12 (rxFree x v) - tget 0 x.freed v).toNat

/-- The payload of a port's INIT (14 R327, R333). -/
def initFlit (x : Ibf) (devid : BitVec 12) : LineData := ctlFlit (initPort x) 4 (if x.first then 1 else 0) 0 devid (initCredits (initPort x))

theorem sendInit_eq (s : State) (p : Nat) : sendInit s p =
    onWire (ibfPut s p { initPort (ibfGet s p) with first := false }) p 0 5 (initFlit (ibfGet s p) s.cpx.devid) := rfl

/-- Before the peer's INIT a slot that no lane takes carries INIT (14 R333). -/
theorem sendControl_init {s : State} {p : Nat} {x : Ibf} (hi : x.initSeen = false) : sendControl (ibfPut s p x) p =
    onWire (ibfPut s p { initPort x with first := false }) p 0 5 (initFlit x s.cpx.devid) := by
  rw [sendControl, ibfGet_ibfPut, hi, Bool.not_false, if_pos rfl, sendInit_eq, ibfGet_ibfPut, ibfPut_ibfPut, ibfPut_cpx]

/-- INIT names its type, FIRST and the device (14 R327). -/
theorem initFlit_fields (x : Ibf) (devid : BitVec 12) :
    flitNat (initFlit x devid) 0 1 = 4 ∧ flitNat (initFlit x devid) 1 1 = (if x.first then 1 else 0) ∧
      flitNat (initFlit x devid) 6 2 = devid.toNat := by
  obtain ⟨type, flags, -, device, -⟩ := ctlFlit_fields (initPort x) 4 (if x.first then 1 else 0) 0 devid
    (init := initCredits (initPort x)) (by simp [initCredits])
  exact ⟨type, flags.trans (by cases x.first <;> rfl), device⟩

/-! ### A slot -/

/-- Port p, in ACTIVE, comes to a slot other than slot 0 of its frame; no message is abandoned and no health message waits. -/
structure MidFrame (s : State) (p : PortNo) : Prop where
  on : portOn s p = true
  active : (ibfGet s p.val).st = .active
  mid : (ibfGet s p.val).frameSlot ≠ 0
  skip : (ibfGet s p.val).txSkip = []
  msgs : s.hlt.twinMsgs = []

/-- The lanes that the port's present slot names. -/
def slotNames (s : State) (p : PortNo) : List Nat :=
  slotLanes (tget 7#8 s.wvl.txfUse (512 * p.val + (ibfGet s p.val).frameSlot.toNat))

/-- The port with its present slot behind it. -/
def nextSlot (x : Ibf) : Ibf := { x with frameSlot := x.frameSlot + 1 }

@[simp] theorem nextSlot_frameSlot (x : Ibf) : (nextSlot x).frameSlot = x.frameSlot + 1 := rfl
@[simp] theorem nextSlot_initSeen (x : Ibf) : (nextSlot x).initSeen = x.initSeen := rfl
@[simp] theorem nextSlot_replay (x : Ibf) : (nextSlot x).replay = x.replay := rfl
@[simp] theorem nextSlot_resend (x : Ibf) : (nextSlot x).resend = x.resend := rfl
@[simp] theorem nextSlot_retry (x : Ibf) : (nextSlot x).retry = x.retry := rfl
@[simp] theorem nextSlot_tx (x : Ibf) : (nextSlot x).tx = x.tx := rfl
@[simp] theorem nextSlot_ptx (x : Ibf) : (nextSlot x).ptx = x.ptx := rfl
@[simp] theorem creditsOf_nextSlot (x : Ibf) (v : Nat) : creditsOf (nextSlot x) v = creditsOf x v := rfl

/-- A port with a flit more among those that the PCS holds. -/
def flitHeld (x : Ibf) (seq : BitVec 12) (cls : Nat) (d : LineData) : Ibf :=
  { x with ptx := { x.ptx with fifo := x.ptx.fifo ++ [⟨fchkOf seq cls d, d, false⟩] } }

/-- A slot gives the PCS the flit that `sendSlot` puts on the wire, not marked as that of slot 0 (14 R317). -/
theorem exec_transmitSlot_sends {s : State} {p : PortNo} {z : Ibf} {seq : BitVec 12} {cls : Nat} {d : LineData} (h : MidFrame s p)
    (room : (ibfGet s p.val).ptx.fifo.length < 4) (hz : z.frameSlot = (ibfGet s p.val).frameSlot + 1)
    (sends : sendSlot (ibfPut s p.val (nextSlot (ibfGet s p.val))) p.val (slotNames s p) = onWire (ibfPut s p.val z) p.val seq cls d) :
    ∃ t, exec (.transmitSlot p) s = .next t ∧ ibfGet t p.val = flitHeld z seq cls d := by
  obtain ⟨on, active, mid, skip, msgs⟩ := h
  have idle := foldl_skipLane_none skip 32 (List.range 4)
  have later : (z.frameSlot == 1) = false := beq_eq_false_iff_ne.2 fun h => mid (by bv_omega)
  unfold nextSlot slotNames at sends
  refine ⟨onWire (ibfPut s p.val z) p.val seq cls d, ?_, by rw [ibfGet_onWire, ibfGet_ibfPut, later, flitHeld]⟩
  rw [exec_transmitSlot, execTransmitSlot, atPort]
  dsimp only
  rw [if_neg mid, idle, sends, twinFlush_none (by rw [onWire_hlt]; exact msgs)]
  refine when_eq (by simp [on, isActive, active, room]) ?_
  exact ((KeepsWeave.ibfPut s p.val z).trans (.onWire _ _ _ _ _)).stalled

/-- With four flits held by the PCS a slot waits (14 R317). -/
theorem exec_transmitSlot_full {s : State} {p : PortNo} (full : 4 ≤ (ibfGet s p.val).ptx.fifo.length) :
    exec (.transmitSlot p) s = .next s := by
  rw [exec_transmitSlot, execTransmitSlot, atPort]
  dsimp only
  rw [when, if_neg (by simp; omega)]

section

variable {s : State} {p : PortNo} (h : MidFrame s p) (room : (ibfGet s p.val).ptx.fifo.length < 4)

include h room

/-- The first flit of the lane that owns the slot goes to the PCS and into the retry buffer (02 R43, 14 R329). -/
theorem transmitSlot_flit {v : Nat} {d : LineData} {r : List LaneFlit} (init : (ibfGet s p.val).initSeen = true)
    (noReplay : (ibfGet s p.val).replay = none) (noResend : (ibfGet s p.val).resend = none)
    (kept : (ibfGet s p.val).retry.length < 512) (owner : (slotNames s p).head? = some v)
    (head : tget [] (ibfGet s p.val).tx v = .flit d :: r) (credit : creditsOf (ibfGet s p.val) v ≠ 0) :
    ∃ t, exec (.transmitSlot p) s = .next t ∧
      ibfGet t p.val = flitHeld (flitSent (nextSlot (ibfGet s p.val)) v d r) (nextSlot (ibfGet s p.val)).txnext v d := by
  have ready : laneReady (nextSlot (ibfGet s p.val)) v = true :=
    laneReady_flit (by rw [nextSlot_initSeen, init]) (by rw [nextSlot_replay, noReplay]) (by rw [nextSlot_resend, noResend])
      (by rwa [nextSlot_retry]) (by rw [nextSlot_tx, head]) (by rwa [creditsOf_nextSlot])
  obtain ⟨others, lanes⟩ := List.head?_eq_some_iff.1 owner
  refine exec_transmitSlot_sends h room (nextSlot_frameSlot _) ?_
  rw [sendSlot_lane (v := v) (by rw [nextSlot_resend, noResend]) (by rw [lanes, List.find?_cons_of_pos ready]),
    sendNew_flit (by rw [nextSlot_tx, head])]

/-- With nothing to send a slot carries NAK or STATUS (14 R327, R330). -/
theorem transmitSlot_idle (init : (ibfGet s p.val).initSeen = true) (noReplay : (ibfGet s p.val).replay = none)
    (noResend : (ibfGet s p.val).resend = none) (empty : ∀ v ∈ slotNames s p, tget [] (ibfGet s p.val).tx v = []) :
    ∃ t, exec (.transmitSlot p) s = .next t ∧ ibfGet t p.val = flitHeld (nextSlot (ibfGet s p.val)) 0 5
      (ctlFlit (nextSlot (ibfGet s p.val)) (if (nextSlot (ibfGet s p.val)).naksent then 2 else 1) 0 0 s.cpx.devid []) := by
  have noResend : (nextSlot (ibfGet s p.val)).resend = none := by rw [nextSlot_resend, noResend]
  have same := replayDone_eq noResend
  have idle : (slotNames s p).find? (laneReady (nextSlot (ibfGet s p.val))) = none :=
    List.find?_eq_none.2 fun v hv => ne_true_of_eq_false (laneReady_empty (by rw [nextSlot_tx, empty v hv]))
  have noEntry : resendNext (nextSlot (ibfGet s p.val)) = none := by simp only [resendNext, noResend]
  refine exec_transmitSlot_sends h room (nextSlot_frameSlot _) ?_
  rw [sendSlot_control (by rw [noEntry, ite_self]) (by rw [same, idle]), same,
    sendControl_idle (by rw [nextSlot_initSeen, init]) (by rw [nextSlot_replay, noReplay])]

/-- Before the peer's INIT it carries INIT (14 R333). -/
theorem transmitSlot_init (noInit : (ibfGet s p.val).initSeen = false) :
    ∃ t z, exec (.transmitSlot p) s = .next t ∧ z.ptx = (ibfGet s p.val).ptx ∧ z.first = false ∧
      ibfGet t p.val = flitHeld z 0 5 (initFlit (replayDone (nextSlot (ibfGet s p.val))) s.cpx.devid) := by
  have noInit : (nextSlot (ibfGet s p.val)).initSeen = false := by rw [nextSlot_initSeen, noInit]
  generalize hx : nextSlot (ibfGet s p.val) = x at noInit
  have idle : (slotNames s p).find? (laneReady (replayDone x)) = none :=
    List.find?_eq_none.2 fun v _ => ne_true_of_eq_false (laneReady_noInit (by rw [replayDone_initSeen, noInit]) v)
  have sends : sendSlot (ibfPut s p.val (nextSlot (ibfGet s p.val))) p.val (slotNames s p) =
      onWire (ibfPut s p.val { initPort (replayDone x) with first := false }) p.val 0 5 (initFlit (replayDone x) s.cpx.devid) := by
    rw [hx, sendSlot_control (by rw [noInit, Bool.false_and, if_neg Bool.false_ne_true]) idle,
      sendControl_init (by rw [replayDone_initSeen, noInit])]
  obtain ⟨t, ht, hy⟩ := exec_transmitSlot_sends h room
    (by rw [initPort_frameSlot, replayDone_frameSlot, ← hx, nextSlot_frameSlot]) sends
  exact ⟨t, _, ht, by rw [initPort_ptx, replayDone_ptx, ← hx, nextSlot_ptx], rfl, hy⟩

end

end Sys2Proof.Machine
end

section
/-! Messages for other devices (02 R40; 14 R337, R338): from a receive buffer to the transmit queue of their route's port. -/

namespace Sys2Proof.Machine

open Sys2Proof

theorem exec_messageForward (p : PortNo) (lane : Fin 4) (s : State) : exec (.messageForward p lane) s = execMessageForward p lane s := rfl

/-! ### The output's slot -/

/-- The present slot of a table serves a master that it names, once (02 R40). -/
theorem slotFor_isSome {s : State} {t m : Nat} : (slotFor s t m true).isSome = true ↔
    (slotOwner (slotAt s.wvl.warp t s.wvl.slot.toNat) = m ∨ slotLend (slotAt s.wvl.warp t s.wvl.slot.toNat) = m) ∧
      ∀ u ∈ s.cyc.used, u.tbl ≠ t := by
  unfold slotFor
  dsimp only
  by_cases used : ∀ u ∈ s.cyc.used, u.tbl ≠ t
  · have free : s.cyc.used.any (·.tbl == t) = false := List.any_eq_false.2 fun u hu => by simpa using used u hu
    rw [if_neg (ne_true_of_eq_false free)]
    simp only [Bool.true_and, beq_iff_eq]
    split
    next own => exact iff_of_true rfl ⟨.inl own, used⟩
    next other =>
      split
      next lend => exact iff_of_true rfl ⟨.inr lend, used⟩
      next none => exact iff_of_false Bool.false_ne_true fun h => h.1.elim other none
  · have taken : s.cyc.used.any (·.tbl == t) = true := by simpa using used
    simp [taken, used]

/-- A message that finds its lane free, room in the queue and a slot is served. -/
theorem txServe_served {s : State} {p v m : Nat} (hm : m < 128) (slot : (slotFor s (outTable p) m true).isSome = true)
    (room : (tget [] (ibfGet s p).tx v).length < 32) (hold : tget 0 (ibfGet s p).txHold v = 0)
    (first : ∀ a ∈ (tget [] (ibfGet s p).txWait v).head?, a = m) : ∃ u, txServe s p v m = some (slotTake s u) := by
  obtain ⟨own, serves⟩ := Option.isSome_iff_exists.1 slot
  have ready : txReady s p v m = true := by
    have turn : (tget [] (ibfGet s p).txWait v).head?.getD m = m := by
      cases h : (tget [] (ibfGet s p).txWait v).head? with
      | none => rfl
      | some a => exact first a h
    simp [txReady, txRoom, txQueue, room, hold, turn]
  refine ⟨⟨outTable p, m, own, none⟩, ?_⟩
  rw [txServe, if_pos ready, outServe, Nat.mod_eq_of_lt hm, serves, Option.map_some]

/-- Without a slot it is not, and takes no place among those that wait. -/
theorem txServe_unserved {s : State} {p v m : Nat} (hm : m < 128) (slot : slotFor s (outTable p) m true = none) :
    txServe s p v m = none ∧ txJoin s p v m = s := by
  constructor
  · rw [txServe, outServe, Nat.mod_eq_of_lt hm, slot, Option.map_none, ite_self]
  · simp [txJoin, Nat.mod_eq_of_lt hm, slot]

/-! ### Queues and buffers -/

/-- From s to t every port keeps its receive buffers, its transmit queues and its count of places freed, and the channel engine all. -/
structure KeepsFlits (s t : State) : Prop where
  rx : ∀ q, (ibfGet t q).rx = (ibfGet s q).rx
  tx : ∀ q, (ibfGet t q).tx = (ibfGet s q).tx
  freed : ∀ q, (ibfGet t q).freed = (ibfGet s q).freed
  che : t.che = s.che

theorem KeepsFlits.refl (s : State) : KeepsFlits s s := ⟨fun _ => rfl, fun _ => rfl, fun _ => rfl, rfl⟩

theorem KeepsFlits.trans {s t u : State} (h : KeepsFlits s t) (k : KeepsFlits t u) : KeepsFlits s u :=
  ⟨fun q => (k.rx q).trans (h.rx q), fun q => (k.tx q).trans (h.tx q), fun q => (k.freed q).trans (h.freed q), k.che.trans h.che⟩

theorem KeepsFlits.foldl {α : Type} {f : State → α → State} (h : ∀ s a, KeepsFlits s (f s a)) (l : List α) (s : State) :
    KeepsFlits s (l.foldl f s) := by
  induction l generalizing s with
  | nil => exact refl s
  | cons a l ih => exact (h s a).trans (ih (f s a))

theorem KeepsFlits.ibfPut {s : State} {p : Nat} {x : Ibf} (hr : x.rx = (ibfGet s p).rx) (ht : x.tx = (ibfGet s p).tx)
    (hf : x.freed = (ibfGet s p).freed) : KeepsFlits s (ibfPut s p x) := by
  have field {α : Type} {f : Ibf → α} (h : f x = f (ibfGet s p)) (q : Nat) : f (ibfGet (Machine.ibfPut s p x) q) = f (ibfGet s q) := by
    by_cases hq : q = p
    · rw [hq, ibfGet_ibfPut, h]
    · rw [ibfGet_ibfPut_ne s x hq]
  exact ⟨field hr, field ht, field hf, rfl⟩

theorem KeepsFlits.slotTake (s : State) (u : SlotUse) : KeepsFlits s (slotTake s u) := by
  have h : (Machine.slotTake s u).ibf = s.ibf ∧ (Machine.slotTake s u).che = s.che := by
    unfold Machine.slotTake
    split <;> simp
  exact ⟨fun q => by rw [ibfGet, h.1]; rfl, fun q => by rw [ibfGet, h.1]; rfl, fun q => by rw [ibfGet, h.1]; rfl, h.2⟩

theorem KeepsFlits.txHeld (s : State) (p v m : Nat) : KeepsFlits s (txHeld s p v m) := ibfPut rfl rfl rfl

theorem KeepsFlits.txForget (s : State) (v m : Nat) : KeepsFlits s (txForget s v m) := by
  unfold Machine.txForget
  refine foldl (fun s q => ?_) _ s
  exact ibfPut rfl rfl rfl

/-- A flit of a lane goes to the end of the port's queue of that lane. -/
theorem txPush_tx (s : State) (p v : Nat) (l : List LaneFlit) :
    tget [] (ibfGet (txPush s p v l) p).tx v = tget [] (ibfGet s p).tx v ++ l := by
  simp [txPush]

theorem txPush_rx_freed (s : State) (p v q : Nat) (l : List LaneFlit) :
    (ibfGet (txPush s p v l) q).rx = (ibfGet s q).rx ∧ (ibfGet (txPush s p v l) q).freed = (ibfGet s q).freed := by
  by_cases hq : q = p
  · simp [txPush, hq]
  · simp [txPush, ibfGet_ibfPut_ne s _ hq]

/-! ### One flit leaves a receive buffer -/

/-- The one-flit message at the head of lane v's receive buffer has left it, and its place is free. -/
def popMessage (s : State) (p v : Nat) : State :=
  let y := ibfGet s p
  ibfPut s p (rxFreed { y with rx := tset [] y.rx v [], rxMsg := tset (RxDest.drop, 0) y.rxMsg v (RxDest.drop, 0) } v)

theorem KeepsWeave.popMessage (s : State) (p v : Nat) : KeepsWeave s (popMessage s p v) := .ibfPut s p _

theorem ibfGet_popMessage (s : State) (p v : Nat) : ibfGet (popMessage s p v) p = { ibfGet s p with
    rx := tset [] (ibfGet s p).rx v [], rxMsg := tset (RxDest.drop, 0) (ibfGet s p).rxMsg v (RxDest.drop, 0)
    freed := tset 0 (ibfGet s p).freed v (tget 0 (ibfGet s p).freed v + 1) } := ibfGet_ibfPut s p _

theorem popMessage_rx (s : State) (p v : Nat) : tget [] (ibfGet (popMessage s p v) p).rx v = [] := by
  simp only [ibfGet_popMessage, tget_tset_same]

theorem popMessage_freed (s : State) (p v : Nat) :
    tget 0 (ibfGet (popMessage s p v) p).freed v = tget 0 (ibfGet s p).freed v + 1 := by
  simp only [ibfGet_popMessage, tget_tset_same]

theorem popMessage_hopdrop (s : State) (p v : Nat) : (ibfGet (popMessage s p v) p).hopdrop = (ibfGet s p).hopdrop := by
  rw [ibfGet_popMessage]

theorem popMessage_tx (s : State) (p v q : Nat) : (ibfGet (popMessage s p v) q).tx = (ibfGet s q).tx := by
  by_cases hq : q = p
  · rw [hq, ibfGet_popMessage]
  · rw [popMessage, ibfGet_ibfPut_ne s _ hq]

theorem popMessage_che (s : State) (p v : Nat) : (popMessage s p v).che = s.che := rfl

section

variable {s : State} {p v : Nat} {d : LineData}

/-- A message whose hops are spent is dropped and counted (14 R337). -/
theorem forward_spent (head : tget [] (ibfGet s p).rx v = [.flit d]) (start : (tget (RxDest.drop, 0) (ibfGet s p).rxMsg v).2 = 0)
    (one : flitsOf v d = 1) (other : isOwn s (flitDest v d) = false) (spent : flitNat d (hopAt v) 1 ≤ 1) : forward p v 1 s =
      ibfErr (ibfPut (popMessage s p v) p { ibfGet (popMessage s p v) p with
        hopdrop := satAdd (ibfGet (popMessage s p v) p).hopdrop 1 }) p eHopdrop := by
  simp only [forward, head, start, one, other, spent]
  rfl

/-- A message that its route's port takes joins the queue there, with one hop fewer (14 R337, R338). -/
theorem forward_served {m : Nat} {s1 : State} (head : tget [] (ibfGet s p).rx v = [.flit d])
    (start : (tget (RxDest.drop, 0) (ibfGet s p).rxMsg v).2 = 0) (one : flitsOf v d = 1) (other : isOwn s (flitDest v d) = false)
    (hops : ¬ flitNat d (hopAt v) 1 ≤ 1) (route : routePort s (flitDest v d) = some m) (takes : txServe s m v (67 + p) = some s1) :
    forward p v 1 s = popMessage (txForget (txHeld
      (txPush s1 m v [.flit (flitByte d (hopAt v) (BitVec.ofNat 8 (flitNat d (hopAt v) 1 - 1)))]) m v 0) v (67 + p)) p v := by
  simp only [forward, head, start, one, other, hops, route, takes]
  rfl

/-- One that it does not take waits. -/
theorem forward_unserved {m : Nat} (head : tget [] (ibfGet s p).rx v = [.flit d])
    (start : (tget (RxDest.drop, 0) (ibfGet s p).rxMsg v).2 = 0) (other : isOwn s (flitDest v d) = false)
    (hops : ¬ flitNat d (hopAt v) 1 ≤ 1) (route : routePort s (flitDest v d) = some m) (takes : txServe s m v (67 + p) = none) :
    forward p v 1 s = txJoin s m v (67 + p) := by
  simp only [forward, head, start, other, hops, route, takes]
  rfl

end

/-! ### The command -/

/-- A message of one flit, the only one in its receive buffer, is looked at once. -/
theorem exec_messageForward_one {s t : State} {p : PortNo} {lane : Fin 4} {d : LineData} (on : portOn s p = true) (data : lane.val ≠ 2)
    (head : tget [] (ibfGet s p.val).rx lane.val = [.flit d]) (ht : forward p.val lane.val 1 s = t) (keeps : KeepsWeave s t) :
    exec (.messageForward p lane) s = .next t := by
  have lane2 : (lane != 2) = true := bne_iff_ne.2 fun h => data (congrArg Fin.val h)
  rw [exec_messageForward, execMessageForward, atPort, head, List.length_singleton, ht]
  exact when_eq (by rw [on, lane2, Bool.and_self]) keeps.stalled

end Sys2Proof.Machine
end

section
/-! Slots and forwarding (O47): the slot of a port in ACTIVE, and a one-flit message for another device. -/

namespace Sys2Proof.Machine

open Sys2Proof

section

variable {s : State} {p : PortNo} {lane : Fin 4} {d : LineData} (on : portOn s p = true) (data : lane.val ≠ 2)
  (head : tget [] (ibfGet s p.val).rx lane.val = [.flit d])
  (start : (tget (RxDest.drop, 0) (ibfGet s p.val).rxMsg lane.val).2 = 0)
  (other : isOwn s (flitDest lane.val d) = false)

include on data head start other

/-- The output's slot serves the port's DMA: the message moves to the route's port (02 R40, 14 R338). -/
theorem messageForward_served {m : Nat} (one : flitsOf lane.val d = 1) (hops : 2 ≤ flitNat d (hopAt lane.val) 1)
    (route : routePort s (flitDest lane.val d) = some m) (slot : (slotFor s (outTable m) (67 + p.val) true).isSome = true)
    (room : (tget [] (ibfGet s m).tx lane.val).length < 32) (hold : tget 0 (ibfGet s m).txHold lane.val = 0)
    (turn : ∀ a ∈ (tget [] (ibfGet s m).txWait lane.val).head?, a = 67 + p.val) :
    ∃ t, exec (.messageForward p lane) s = .next t ∧ tget [] (ibfGet t p.val).rx lane.val = [] ∧
      tget [] (ibfGet t m).tx lane.val = tget [] (ibfGet s m).tx lane.val ++
        [.flit (flitByte d (hopAt lane.val) (BitVec.ofNat 8 (flitNat d (hopAt lane.val) 1 - 1)))] ∧
      tget 0 (ibfGet t p.val).freed lane.val = tget 0 (ibfGet s p.val).freed lane.val + 1 ∧ t.che = s.che := by
  obtain ⟨u, takes⟩ := txServe_served (by have := p.isLt; omega) slot room hold turn
  have sent := forward_served head start one other (by omega) route takes
  generalize flitByte d (hopAt lane.val) (BitVec.ofNat 8 (flitNat d (hopAt lane.val) 1 - 1)) = f at sent ⊢
  have before := KeepsFlits.slotTake s u
  have after := (KeepsFlits.txHeld (txPush (slotTake s u) m lane.val [.flit f]) m lane.val 0).trans (.txForget _ lane.val (67 + p.val))
  have weave := (KeepsWeave.slotTake s u).trans <| (KeepsWeave.txPush _ m lane.val [.flit f]).trans <|
    (KeepsWeave.txHeld _ m lane.val 0).trans <| (KeepsWeave.txForget _ lane.val (67 + p.val)).trans <| .popMessage _ p.val lane.val
  obtain ⟨-, pushed⟩ := txPush_rx_freed (slotTake s u) m lane.val p.val [.flit f]
  refine ⟨_, exec_messageForward_one on data head sent weave, popMessage_rx _ _ _, ?_, ?_, ?_⟩
  · rw [popMessage_tx, after.tx, txPush_tx, before.tx]
  · rw [popMessage_freed, after.freed, pushed, before.freed]
  · rw [popMessage_che, after.che]
    exact before.che

/-- Without a slot the message stays (02 R40). -/
theorem messageForward_unserved {m : Nat} (hops : 2 ≤ flitNat d (hopAt lane.val) 1)
    (route : routePort s (flitDest lane.val d) = some m) (slot : slotFor s (outTable m) (67 + p.val) true = none) :
    exec (.messageForward p lane) s = .next s := by
  obtain ⟨takes, joins⟩ := txServe_unserved (v := lane.val) (by have := p.isLt; omega) slot
  exact exec_messageForward_one on data head ((forward_unserved head start other (by omega) route takes).trans joins) (.refl s)

/-- With its last hop spent it is dropped and counted (14 R337). -/
theorem messageForward_spent (one : flitsOf lane.val d = 1) (spent : flitNat d (hopAt lane.val) 1 ≤ 1) :
    ∃ t, exec (.messageForward p lane) s = .next t ∧ tget [] (ibfGet t p.val).rx lane.val = [] ∧
      (ibfGet t p.val).hopdrop = satAdd (ibfGet s p.val).hopdrop 1 ∧ (ibfGet t p.val).err.getLsbD 8 = true ∧
      (ibfGet t p.val).tx = (ibfGet s p.val).tx := by
  refine ⟨_, exec_messageForward_one on data head (forward_spent head start one other spent)
    ((KeepsWeave.popMessage s p.val lane.val).trans ((KeepsWeave.ibfPut _ p.val _).trans (.ibfErr _ p.val eHopdrop))), ?_⟩
  rw [ibfGet_ibfErr, ibfGet_ibfPut]
  dsimp only
  rw [popMessage_rx, popMessage_hopdrop, popMessage_tx]
  exact ⟨rfl, rfl, by simp [setBit, eHopdrop], rfl⟩

end

/-- Settles O47: the cases of a port's slot, and those of a message's hop and of its output's slot. -/
theorem slotsAndForwarding : Obligations.SlotsAndForwarding := by
  unfold Obligations.SlotsAndForwarding
  refine ⟨fun s p v d r => ?slots, fun s p lane d m => ?forwards⟩
  case slots =>
    intro x y on active mid skip msgs lanes room
    have h : MidFrame s p := ⟨on, active, mid, skip, msgs⟩
    refine ⟨fun hr init noReplay noResend kept owner head credit => ?flit, fun hr init noReplay noResend empty => ?idle,
      fun hr noInit => ?init, exec_transmitSlot_full⟩
    case flit =>
      obtain ⟨t, ht, hx⟩ := transmitSlot_flit h hr init noReplay noResend kept owner head credit
      refine ⟨t, ht, ?_⟩
      simp only [y, x, hx, flitHeld, flitSent, tget_tset_same, nextSlot, and_self]
    case idle =>
      obtain ⟨t, ht, hx⟩ := transmitSlot_idle h hr init noReplay noResend empty
      obtain ⟨type, -, next, -, freed⟩ := ctlFlit_fields (nextSlot (ibfGet s p.val))
        (if (nextSlot (ibfGet s p.val)).naksent then 2 else 1) 0 0 s.cpx.devid (init := []) (Nat.zero_le 4)
      have number : (if (ibfGet s p.val).naksent then (2 : Byte) else 1).toNat = if (ibfGet s p.val).naksent then 2 else 1 := by
        split <;> rfl
      refine ⟨t, _, ht, ?_, type.trans number, next, freed, ?_, ?_⟩
      all_goals simp only [y, x, hx, flitHeld, nextSlot]
    case init =>
      obtain ⟨t, z, ht, ptx, first, hx⟩ := transmitSlot_init h hr noInit
      obtain ⟨type, flags, device⟩ := initFlit_fields (replayDone (nextSlot (ibfGet s p.val))) s.cpx.devid
      refine ⟨t, _, ht, ?_, type, flags, device, ?_⟩
      all_goals simp only [y, x, hx, flitHeld, ptx, first]
  case forwards =>
    intro x lv hop on data head start one other
    refine ⟨fun hops route => ⟨fun serves room hold turn => ?served, fun stays => ?unserved⟩,
      messageForward_spent on data head start other one⟩
    case served => exact messageForward_served on data head start other one hops route (slotFor_isSome.2 serves) room hold turn
    case unserved =>
      exact messageForward_unserved on data head start other hops route
        (Option.not_isSome_iff_eq_none.1 fun slot => stays (slotFor_isSome.1 slot))

end Sys2Proof.Machine
end

section
/-! What an instruction word spells (04 R84-R91, R94, R96): the reason codes of reserved words, and that every word without one spells its
operations. -/

namespace Sys2Proof.Machine

open Sys2Proof

/-! ### Reason codes -/

/-- No code is reported when no condition holds. -/
theorem lowestCode_eq_none_iff (l : List (Bool × Nat)) : lowestCode l = none ↔ ∀ p ∈ l, p.1 = false := by
  simp [lowestCode, List.find?_eq_none]

@[simp] theorem lowestCode_cons_true (k : Nat) (l : List (Bool × Nat)) : lowestCode ((true, k) :: l) = some (BitVec.ofNat 8 k) := rfl

@[simp] theorem lowestCode_cons_false (k : Nat) (l : List (Bool × Nat)) : lowestCode ((false, k) :: l) = lowestCode l := rfl

/-- When a condition among the first of a list holds, the code reported is one of theirs. -/
theorem lowestCode_append_of_any {l : List (Bool × Nat)} (r : List (Bool × Nat)) (h : l.any (·.1) = true) :
    ∃ k ∈ l.map (·.2), lowestCode (l ++ r) = some (BitVec.ofNat 8 k) := by
  induction l with
  | nil => simp at h
  | cons p l ih =>
    obtain ⟨holds, k⟩ := p
    cases holds with
    | true => exact ⟨k, by simp, lowestCode_cons_true k _⟩
    | false =>
      obtain ⟨j, hj, code⟩ := ih (by simpa using h)
      exact ⟨j, List.mem_cons_of_mem _ hj, (lowestCode_cons_false k _).trans code⟩

section

variable {w : Word} {sb1 aux ven : Bool}

/-- What the opcodes of a legal paired word are: both named, and the first no transfer (04 R90, R94). -/
theorem opcodes_of_legal_pair (pair : w.getLsbD 31 = true) (legal : wordCode w sb1 aux ven = none) :
    shortNamed (fld w 24 7).toNat = true ∧ shortNamed (fld w 8 7).toNat = true ∧ shortXfer (fld w 24 7).toNat = false := by
  rw [wordCode, if_pos pair, lowestCode_eq_none_iff] at legal
  simp only [List.forall_mem_cons, Bool.or_eq_false_iff, Bool.not_eq_false'] at legal
  obtain ⟨⟨named1, named2⟩, -, -, noTransfer, -⟩ := legal
  exact ⟨named1, named2, noTransfer⟩

/-- What the opcode and operand of a legal long word are: named, not the field set's reserved 0x75, and no reserved value (04 R87-R89). -/
theorem opcode_of_legal_long (long : w.getLsbD 31 = false) (legal : wordCode w sb1 aux ven = none) :
    longNamed (fld w 24 7).toNat = true ∧ (aux = true → (fld w 24 7).toNat ≠ 0x75) ∧
      longReserved (fld w 24 7).toNat (fld w 0 24) aux = false := by
  rw [wordCode, if_neg (Bool.eq_false_iff.1 long), lowestCode_eq_none_iff] at legal
  simp only [List.forall_mem_cons, Bool.not_eq_false', Bool.and_eq_false_imp, beq_eq_false_iff_ne] at legal
  obtain ⟨-, named, inSet, -, value, -⟩ := legal
  exact ⟨named, inSet, value⟩

/-- A long word in SB1 mode has the lowest code of all (04 R96). -/
theorem wordCode_long_sb1 (long : w.getLsbD 31 = false) : wordCode w true aux ven = some 1 := by
  rw [wordCode, if_neg (Bool.eq_false_iff.1 long)]
  exact lowestCode_cons_true 1 _

/-- A paired word with bit 15 at 1 or a transfer first is reserved, with that code or a lower one (04 R94, R96). -/
theorem wordCode_pair_misplaced (pair : w.getLsbD 31 = true) (bad : w.getLsbD 15 = true ∨ shortXfer (fld w 24 7).toNat = true) :
    ∃ c : BitVec 8, wordCode w sb1 aux ven = some c ∧ 3 ≤ c.toNat ∧ c.toNat ≤ 6 := by
  have early : ∃ k ∈ [3, 4, 5, 6], wordCode w sb1 aux ven = some (BitVec.ofNat 8 k) := by
    rw [wordCode, if_pos pair]
    exact lowestCode_append_of_any (l := [(_, 3), (_, 4), (_, 5), (_, 6)]) [(_, 9)] (by rcases bad with bad | bad <;> simp [bad])
  obtain ⟨k, hk, code⟩ := early
  have range : ∀ k ∈ [3, 4, 5, 6], 3 ≤ (BitVec.ofNat 8 k).toNat ∧ (BitVec.ofNat 8 k).toNat ≤ 6 := by decide
  exact ⟨BitVec.ofNat 8 k, code, range k hk⟩

end

/-! ### Opcodes one by one -/

/-- What holds of each number below a bound, found by going through them, holds of a number below it. -/
theorem holds_of_all_lt {p : Nat → Prop} [DecidablePred p] {n k : Nat} (lt : k < n) (all : decide (∀ i < n, p i) = true) : p k :=
  of_decide_eq_true all k lt

/-! ### The short opcodes -/

theorem lt_of_shortNamed {op : Nat} (named : shortNamed op = true) : op < 0x80 := by
  have := of_decide_eq_true named
  omega

/-- A named short opcode spells a syllable; a transfer's is the second (04 R90, R94). -/
theorem shortCmd_isSome (e : Eng) {op : Nat} {y : Syl} (named : shortNamed op = true) (place : shortXfer op = true → ∃ o, y = .second o) :
    (shortCmd e op y).isSome = true := by
  have opcode := lt_of_shortNamed named
  cases transfer : shortXfer op with
  | true =>
    obtain ⟨o, rfl⟩ := place transfer
    exact holds_of_all_lt (p := fun op => shortXfer op = true → (shortCmd e op (.second o)).isSome = true) opcode rfl transfer
  | false =>
    exact holds_of_all_lt (p := fun op => shortNamed op = true → shortXfer op = false → (shortCmd e op y).isSome = true) opcode rfl
      named transfer

/-! ### The long opcodes -/

/-- The FUNC values that each vector opcode lists (04 R88). -/
theorem vecUsed_isSome_cases {op func : Nat} (lo : 0x60 ≤ op) (hi : op ≤ 0x6E) (listed : (vecUsed op func).isSome = true) :
    (0x66 ≤ op ∧ func = 0) ∨ (op = 0x60 ∧ func < 12) ∨ (op = 0x61 ∧ func < 2) ∨ (op = 0x62 ∧ func < 4) ∨ (op = 0x63 ∧ func < 7) ∨
      (op = 0x64 ∧ func < 3) ∨ (op = 0x65 ∧ func < 6) := by
  by_cases moves : op = 0x64
  case pos =>
    match func with
    | 0 | 1 | 2 => omega
    | k + 3 => simp [vecUsed, moves] at listed
  case neg =>
    unfold vecUsed at listed
    split at listed
    all_goals simp only [Option.isSome_ite] at listed
    all_goals omega

/-- A vector opcode with a listed FUNC spells its operation (04 R88). -/
theorem vecCmd_isSome (e : Eng) (n : Nat) {op : Nat} {o : BitVec 24} (lo : 0x60 ≤ op) (hi : op ≤ 0x6E)
    (listed : (vecUsed op (fld o 16 4).toNat).isSome = true) : (vecCmd e n op o).isSome = true := by
  have rows := vecUsed_isSome_cases lo hi listed
  unfold vecCmd
  generalize fld o 16 4 = func at rows
  obtain ⟨⟨k, hk⟩⟩ := func
  simp only [BitVec.toNat_ofFin] at rows
  rcases rows with ⟨memory, rfl⟩ | ⟨rfl, row⟩ | ⟨rfl, row⟩ | ⟨rfl, row⟩ | ⟨rfl, row⟩ | ⟨rfl, row⟩ | ⟨rfl, row⟩
  · obtain ⟨i, rfl⟩ := Nat.exists_eq_add_of_le memory
    have page : i < 9 := by omega
    match i, page with
    | 0, _ | 1, _ | 2, _ | 3, _ | 4, _ | 5, _ | 6, _ | 7, _ | 8, _ => rfl
  · match k, row with
    | 0, _ | 1, _ | 2, _ | 3, _ | 4, _ | 5, _ | 6, _ | 7, _ | 8, _ | 9, _ | 10, _ | 11, _ => rfl
  · match k, row with
    | 0, _ | 1, _ => rfl
  · match k, row with
    | 0, _ | 1, _ | 2, _ | 3, _ => rfl
  · match k, row with
    | 0, _ | 1, _ | 2, _ | 3, _ | 4, _ | 5, _ | 6, _ => rfl
  · match k, row with
    | 0, _ | 1, _ | 2, _ => rfl
  · match k, row with
    | 0, _ | 1, _ | 2, _ | 3, _ | 4, _ | 5, _ => rfl

theorem longCmd_vector (e : Eng) (aux : Bool) (n : Nat) {op : Nat} (o : BitVec 24) (lo : 0x60 ≤ op) (hi : op ≤ 0x6E) :
    longCmd e aux n op o = vecCmd e n op o := by
  obtain ⟨i, rfl⟩ := Nat.exists_eq_add_of_le lo
  have page : i < 15 := by omega
  match i, page with
  | 0, _ | 1, _ | 2, _ | 3, _ | 4, _ | 5, _ | 6, _ | 7, _ | 8, _ | 9, _ | 10, _ | 11, _ | 12, _ | 13, _ | 14, _ => rfl

/-- A vector word without a reserved value has a listed FUNC (04 R88). -/
theorem vecUsed_of_not_reserved {op : Nat} {o : BitVec 24} {aux : Bool} (lo : 0x60 ≤ op) (hi : op ≤ 0x6E)
    (value : longReserved op o aux = false) : (vecUsed op (fld o 16 4).toNat).isSome = true := by
  rw [longReserved, if_pos ⟨lo, hi⟩, vecReserved] at value
  cases row : vecUsed op (fld o 16 4).toNat with
  | none => simp [row] at value
  | some _ => rfl

/-- `DCM` without a reserved value has one of the three operations of its OP field (04 R87). -/
theorem longCmd_dcm_isSome (e : Eng) (n : Nat) {aux : Bool} {o : BitVec 24} (value : longReserved 0x49 o aux = false) :
    (longCmd e aux n 0x49 o).isSome = true := by
  rw [longReserved, if_neg (by decide)] at value
  simp only [Bool.or_eq_false_iff] at value
  obtain ⟨⟨⟨-, reserved⟩, -⟩, -⟩ := value
  have operation : fld o 0 2 ≠ 3 := by simpa using reserved
  unfold longCmd
  generalize fld o 0 2 = op at operation
  obtain ⟨⟨k, hk⟩⟩ := op
  have other : k ≠ 3 := by
    rintro rfl
    exact operation rfl
  have listed : k < 3 := by omega
  match k, listed with
  | 0, _ | 1, _ | 2, _ => rfl

/-- `ICM` without a reserved value has OP 1 (04 R87). -/
theorem longCmd_icm_isSome (e : Eng) (n : Nat) {aux : Bool} {o : BitVec 24} (value : longReserved 0x4A o aux = false) :
    (longCmd e aux n 0x4A o).isSome = true := by
  rw [longReserved, if_neg (by decide)] at value
  simp only [Bool.or_eq_false_iff] at value
  obtain ⟨⟨-, reserved⟩, -⟩ := value
  have invalidate : fld o 0 2 = 1 := by simpa using reserved
  simp [longCmd, invalidate]

theorem lt_of_longNamed {op : Nat} (named : longNamed op = true) : op < 0x80 := by
  have := of_decide_eq_true named
  omega

/-- The long opcodes whose operand chooses the operation: the vector page by FUNC, `DCM` and `ICM` by OP (04 R87, R88). -/
def operandChooses (op : Nat) : Bool := decide ((0x60 ≤ op ∧ op ≤ 0x6E) ∨ op = 0x49 ∨ op = 0x4A)

/-- Any other named opcode spells its operation with any operand; 0x75 is the check set's alone (04 R87, R89). -/
theorem longCmd_isSome_of_fixed (e : Eng) (n : Nat) {op : Nat} {aux : Bool} (o : BitVec 24) (named : longNamed op = true)
    (fixed : operandChooses op = false) (inSet : aux = true → op ≠ 0x75) :
    (longCmd e aux n op o).isSome = true := by
  cases aux with
  | false =>
    exact holds_of_all_lt (p := fun op => longNamed op = true → operandChooses op = false →
      (longCmd e false n op o).isSome = true) (lt_of_longNamed named) rfl named fixed
  | true =>
    exact holds_of_all_lt (p := fun op => longNamed op = true → operandChooses op = false → op ≠ 0x75 →
      (longCmd e true n op o).isSome = true) (lt_of_longNamed named) rfl named fixed (inSet rfl)

/-- A named long opcode that the engine's set defines, with no reserved value, spells its operation (04 R87-R89). -/
theorem longCmd_isSome (e : Eng) (n : Nat) {op : Nat} {o : BitVec 24} {aux : Bool} (named : longNamed op = true)
    (inSet : aux = true → op ≠ 0x75) (value : longReserved op o aux = false) : (longCmd e aux n op o).isSome = true := by
  cases chosen : operandChooses op with
  | false => exact longCmd_isSome_of_fixed e n o named chosen inSet
  | true =>
    rcases of_decide_eq_true chosen with ⟨lo, hi⟩ | rfl | rfl
    · rw [longCmd_vector e aux n o lo hi]
      exact vecCmd_isSome e n lo hi (vecUsed_of_not_reserved lo hi value)
    · exact longCmd_dcm_isSome e n value
    · exact longCmd_icm_isSome e n value

/-! ### The words -/

section

variable {w : Word} {sb1 aux ven : Bool} (e : Eng) (n : Nat)

/-- The issue of a reserved encoding is the ILLEGAL entry alone (04 R97). -/
theorem decodeWord_reserved {c : BitVec 8} (code : wordCode w sb1 aux ven = some c) :
    decodeWord e sb1 aux ven n w = [.faultEntry e (.illegal w)] := by
  rw [decodeWord, code]

/-- The issue of any other word is its operations. -/
theorem decodeWord_legal (legal : wordCode w sb1 aux ven = none) : decodeWord e sb1 aux ven n w = wordCmds e aux n w := by
  rw [decodeWord, legal]

/-- A legal word is one long operation or two syllables (04 R84). -/
theorem decodeWord_length_of_legal (legal : wordCode w sb1 aux ven = none) :
    (decodeWord e sb1 aux ven n w).length = if w.getLsbD 31 then 2 else 1 := by
  rw [decodeWord_legal e n legal, wordCmds]
  cases format : w.getLsbD 31 with
  | true =>
    obtain ⟨named1, named2, noTransfer⟩ := opcodes_of_legal_pair format legal
    have first := shortCmd_isSome e (y := .first (fld w 16 8) (fld w 0 16)) named1 (by simp [noTransfer])
    have second := shortCmd_isSome e (y := .second (fld w 0 8)) named2 (fun _ => ⟨_, rfl⟩)
    simp [Option.length_toList, first, second]
  | false =>
    obtain ⟨named, inSet, value⟩ := opcode_of_legal_long format legal
    simp [Option.length_toList, longCmd_isSome e n named inSet value]

/-- Words of the encoding tables that both sets read alike. -/
theorem decodeWord_table_words (aux ven : Bool) :
    decodeWord e false aux ven n 0x00000100 = [.lit e (.long 0x100)] ∧
      decodeWord e false aux ven n 0x81001000 = [.dup e (.first 0 0x1000), .add e (.second 0)] ∧
      decodeWord e false aux ven n 0x9EFF6000 = [.addi e (.first 0xFF 0x6000), .ret e (.second 0)] ∧
      decodeWord e false aux ven n 0x41000000 = [.getc e 0] ∧
      decodeWord e false aux true n 0x60000823 = [.vadd e { hi := 0, m := false, vb := 2, va := 1, vd := 3 }] ∧
      decodeWord e false aux ven n 0x49000004 = [.dcmClean e true 0] := by
  refine ⟨?lit, ?dupAdd, ?addiRet, ?getc, ?vadd, ?dcm⟩
  all_goals exact decodeWord_legal e n (by revert aux ven; decide)

/-- The auxiliary page is the selected set's (04 R89). -/
theorem decodeWord_auxiliary_page (ven : Bool) :
    decodeWord e false false ven n 0x70000000 = [.crcb e 0] ∧ decodeWord e false true ven n 0x70000000 = [.extu e 0] ∧
      decodeWord e false false ven n 0x75000001 = [.ckd e 1] := by
  refine ⟨?crcb, ?extu, ?ckd⟩
  all_goals exact decodeWord_legal e n (by revert ven; decide)

/-- `CKD` is reserved on an engine with the field set (04 R89, R96). -/
theorem wordCode_ckd_fieldSet (ven : Bool) : wordCode 0x75000001 false true ven = some 7 := by
  revert ven
  decide

end

/-- Settles O31: a legal word's opcodes are named and well placed, so each spells an operation; the codes are the conditions' in order. -/
theorem instructionWords : Obligations.InstructionWords := by
  unfold Obligations.InstructionWords
  intro e sb1 aux ven n w
  obtain ⟨crcb, extu, ckd⟩ := decodeWord_auxiliary_page e n ven
  have noCkd := wordCode_ckd_fieldSet ven
  exact ⟨fun _ => decodeWord_reserved e n, decodeWord_length_of_legal e n, wordCode_long_sb1, wordCode_pair_misplaced,
    decodeWord_table_words e n aux ven, crcb, extu, ckd, decodeWord_reserved e n noCkd, noCkd⟩

end Sys2Proof.Machine
end

section
/-! Bytes of the scratchpad as a master reads them (12 R269-R272): what the slots of an access change, and a run of words that show no error. -/

namespace Sys2Proof.Machine

open Sys2Proof

/-! ### Runs of bytes -/

theorem toBytes_leNat {n : Nat} {bs : List Byte} (h : bs.length = n) : toBytes n (leNat bs) = bs := by
  induction bs generalizing n with
  | nil => subst h; rfl
  | cons b bs ih =>
    subst h
    have hb := b.isLt
    have low : BitVec.ofNat 8 (b.toNat + 256 * leNat bs) = b := by
      apply BitVec.eq_of_toNat_eq
      rw [BitVec.toNat_ofNat]
      omega
    have high : (b.toNat + 256 * leNat bs) / 256 = leNat bs := by omega
    rw [List.length_cons, toBytes, leNat, low, high, ih rfl]

@[simp] theorem mread_length (d : Byte) (m : Mem) (a n : Nat) : (mread d m a n).length = n := by
  induction n generalizing a with
  | zero => rfl
  | succ n ih => simp [mread, ih]

theorem mread_add (d : Byte) (m : Mem) (a j k : Nat) : mread d m a (j + k) = mread d m a j ++ mread d m (a + j) k := by
  induction j generalizing a with
  | zero => simp [mread]
  | succ j ih =>
    have e : j + 1 + k = (j + k) + 1 := by omega
    rw [e, mread, mread, ih, List.cons_append, Nat.add_right_comm a 1 j]
    rfl

/-- Bytes within a run that is read. -/
theorem take_drop_mread {d : Byte} {m : Mem} {a n i k : Nat} (h : i + k ≤ n) :
    ((mread d m a n).drop i).take k = mread d m (a + i) k := by
  obtain ⟨r, rfl⟩ := Nat.exists_eq_add_of_le h
  rw [Nat.add_assoc, mread_add, List.drop_left' (mread_length d m a i), mread_add, List.take_left' (mread_length d m (a + i) k)]

/-- Words read one after another are one run of bytes. -/
theorem flatten_mread_words (d : Byte) (m : Mem) (w c : Nat) :
    ((List.range c).map fun k => mread d m (8 * (k + w)) 8).flatten = mread d m (8 * w) (8 * c) := by
  induction c with
  | zero => rfl
  | succ c ih =>
    rw [List.range_succ, List.map_append, List.flatten_append, ih, Nat.mul_succ, mread_add]
    simp [Nat.mul_add, Nat.add_comm]

/-- The eight bytes of a word. -/
theorem toBytes_spWord (c : Spc) (w : Nat) : toBytes 8 (spWord c w).toNat = mread spadDefault c.mem (8 * w) 8 := by
  have size := mread_length spadDefault c.mem (8 * w) 8
  rw [spWord, toNat_ofNat_leNat (by omega), toBytes_leNat size]

/-! ### Slots -/

/-- Between s and t an access has taken slots or found none: the words served for it and the slots' use have changed, nothing else. -/
def TakesSlots (s t : State) : Prop :=
  ∃ prog used stalled, t = { s with spc := { s.spc with prog := prog }, cyc := { s.cyc with used := used, stalled := stalled } }

theorem TakesSlots.refl (s : State) : TakesSlots s s := ⟨_, _, _, rfl⟩

theorem TakesSlots.trans {s t u : State} (h : TakesSlots s t) (k : TakesSlots t u) : TakesSlots s u := by
  obtain ⟨_, _, _, rfl⟩ := h
  obtain ⟨_, _, _, rfl⟩ := k
  exact ⟨_, _, _, rfl⟩

section
variable {s t : State} (h : TakesSlots s t)
include h

theorem TakesSlots.eng : t.eng = s.eng := by obtain ⟨_, _, _, rfl⟩ := h; rfl
theorem TakesSlots.mem : t.spc.mem = s.spc.mem := by obtain ⟨_, _, _, rfl⟩ := h; rfl
theorem TakesSlots.bad : t.spc.bad = s.spc.bad := by obtain ⟨_, _, _, rfl⟩ := h; rfl
theorem TakesSlots.wrote : t.cyc.wrote = s.cyc.wrote := by obtain ⟨_, _, _, rfl⟩ := h; rfl
theorem TakesSlots.ecc : t.cyc.ecc = s.cyc.ecc := by obtain ⟨_, _, _, rfl⟩ := h; rfl

end

/-- A slot that serves an engine counts nothing. -/
theorem slotTake_takesSlots (s : State) {u : SlotUse} (hm : u.mst < 64) : TakesSlots s (slotTake s u) := by
  rw [slotTake, if_neg (by omega)]
  exact ⟨_, _, _, rfl⟩

theorem wordServe_takesSlots {s t : State} {m w : Nat} (hm : m < 64) (h : wordServe s m w = some t) : TakesSlots s t := by
  unfold wordServe at h
  split at h
  · cases h
    exact ⟨_, _, _, rfl⟩
  · split at h
    · cases h
    · rw [Option.or_eq_some_iff] at h
      obtain h | ⟨-, h⟩ := h <;>
        (obtain ⟨own, -, rfl⟩ := Option.map_eq_some_iff.1 h; exact slotTake_takesSlots s hm)

theorem TakesSlots.foldl {α : Type} {f : State × Bool → α → State × Bool} (h : ∀ p a, TakesSlots p.1 (f p a).1) (l : List α)
    (p : State × Bool) : TakesSlots p.1 (l.foldl f p).1 := by
  induction l generalizing p with
  | nil => exact refl p.1
  | cons a l ih => exact (h p a).trans (ih (f p a))

theorem wordsServe_takesSlots {s t : State} {m : Nat} {ws : List Nat} {ok : Bool} (hm : m < 64) (h : wordsServe s m ws = (t, ok)) :
    TakesSlots s t := by
  have run : TakesSlots s (wordsServe s m ws).1 := by
    refine .foldl (fun p w => ?_) ws (s, true)
    split
    next served => exact wordServe_takesSlots hm served
    next => exact ⟨_, _, _, rfl⟩
  rwa [h] at run

/-! ### Words that show no error -/

/-- Word w reads clean as master m: it holds no error, its bank's path spoils no read, and no other master has written it in the cycle
(12 R270, R272; 17 R397). -/
def ReadsClean (s : State) (m w : Nat) : Prop :=
  w ∉ s.spc.bad ∧ w ∉ s.spc.soft ∧ (w % 64, m) ∉ s.spc.paths ∧ ∀ x ∈ s.cyc.wrote, x.word = w → x.mst = m

section
variable {s : State} {m w : Nat}

theorem ReadsClean.takesSlots {t : State} (h : ReadsClean s m w) (k : TakesSlots s t) : ReadsClean t m w := by
  obtain ⟨_, _, _, rfl⟩ := k
  exact h

theorem ReadsClean.bankRead (h : ReadsClean s m w) : bankRead s m w .good = (s, true) := by
  obtain ⟨good, firm, path, -⟩ := h
  simp [Machine.bankRead, eccRead, pathHit, spBad, good, firm, path]

theorem ReadsClean.oldWord (h : ReadsClean s m w) : oldWord s m w = spWord s.spc w := by
  obtain ⟨-, -, -, own⟩ := h
  have unwritten : (s.cyc.wrote.find? fun x => x.word == w && x.mst != m) = none := by
    rw [List.find?_eq_none]
    intro x hx
    simpa using own x hx
  rw [Machine.oldWord, unwritten]

theorem bankWords_clean {ws : List Nat} (h : ∀ w ∈ ws, ReadsClean s m w) : bankWords m s .good ws = (s, true) := by
  induction ws with
  | nil => rfl
  | cons w ws ih =>
    simp only [bankWords, (h w (by simp)).bankRead, ih fun w hw => h w (by simp [hw]), Bool.and_self]

/-- A run of bytes whose words read clean is read as it stands (12 R270). -/
theorem spRead_clean {o n : Nat} (ecc : s.cyc.ecc = []) (h : ∀ w ∈ wordsOf o n, ReadsClean s m w) :
    spRead s m o n = (s, some (mread spadDefault s.spc.mem o n)) := by
  have first : takeEcc s = (s, .good) := by simp [takeEcc, ecc]
  have words : (wordsOf o n).map (fun w => toBytes 8 (oldWord s m w).toNat) =
      (List.range ((o + n + 7) / 8 - o / 8)).map fun k => mread spadDefault s.spc.mem (8 * (k + o / 8)) 8 := by
    rw [List.map_congr_left fun w hw => by rw [(h w hw).oldWord, toBytes_spWord], wordsOf, List.map_map]
    rfl
  have start : 8 * (o / 8) + o % 8 = o := by omega
  simp only [spRead, first, bankWords_clean h, words, flatten_mread_words, if_true]
  rw [take_drop_mread (by omega), start]

end

end Sys2Proof.Machine
end

section
/-! An engine's untranslated accesses within one line (08 R192-R194, 11 R247, 12 R274): their checks, and where a read finds its bytes. -/

namespace Sys2Proof.Machine

open Sys2Proof

/-! ### What the store buffer answers (08 R193) -/

theorem lineMask_ne_zero {o n : Nat} (ho : o < 64) (hn : 0 < n) : lineMask o n ≠ 0 := by
  have first : (lineMask o n).getLsbD o = true := by
    rw [lineMask, BitVec.getLsbD_ofNat, Nat.testBit_mul_two_pow, Nat.sub_self, Nat.testBit_two_pow_sub_one]
    simp [ho, hn]
  intro zero
  simp [zero] at first

theorem sbSearch_youngest {g : Engine} {l : LineAddr} {mask : BitVec 64} {older : List SbEntry} {x : SbEntry}
    (all : sbAll g = older ++ [x]) (line : x.line = l) (asked : mask ≠ 0) (holds : mask &&& ~~~x.mask = 0) :
    sbSearch g l mask = .data x.data := by
  have meets : x.mask &&& mask ≠ 0 := by
    intro apart
    refine asked ?_
    calc mask = (x.mask &&& mask) ||| (mask &&& ~~~x.mask) := by
          ext i hi
          simp only [BitVec.getElem_or, BitVec.getElem_and, BitVec.getElem_not]
          cases x.mask[i] <;> simp
      _ = 0 := by rw [apart, holds]; rfl
  have found : (sbAll g).reverse.find? (fun y => y.line == l && y.mask &&& mask != 0) = some x := by
    rw [all, List.reverse_append, List.reverse_singleton, List.singleton_append]
    exact List.find?_cons_of_pos (by simpa [line] using meets)
  simp only [sbSearch, found, holds, if_true]

theorem sbSearch_absent {g : Engine} {l : LineAddr} (mask : BitVec 64) (absent : ∀ x ∈ sbAll g, x.line ≠ l) :
    sbSearch g l mask = .none_ := by
  have nothing : ((sbAll g).reverse.find? fun x => x.line == l && x.mask &&& mask != 0) = none := by
    rw [List.find?_eq_none]
    intro x hx
    simp [absent x (List.mem_reverse.1 hx)]
  rw [sbSearch, nothing]

/-! ### One line at a physical address -/

theorem askLine_ne_ok {α : Type} {s t : State} {e : Eng} {side : CacheSide} {l : LineAddr} {i : FaultInfo} {a : α} :
    askLine s e side l i ≠ .ok t a := by
  unfold askLine
  dsimp only
  repeat' split
  all_goals simp

theorem cacheLine_hit {s : State} {e : Eng} {l : LineAddr} {i : FaultInfo} {w : Nat} {c : CLine}
    (way : wayOf (engGet s e).m.dc l = some w) (line : tfind (engGet s e).m.dc (4 * setOf l + w) = some c) :
    cacheLine s e l i = .ok (engPut s e { engGet s e with
      m := { (engGet s e).m with dlru := touch (engGet s e).m.dlru (setOf l) w } }) c := by
  simp only [cacheLine, way, line]

section
variable {s : State} {e : Eng} {pa : PAddr} {n : Nat} {i : FaultInfo}

theorem readPhys_forwarded {d : LineData} (h : sbSearch (engGet s e) (lineOf pa) (lineMask (pa.toNat % 64) n) = .data d) :
    readPhys s e pa n i = .ok s (lineBytes d (pa.toNat % 64) n) := by
  simp only [readPhys, h]

theorem readPhys_cached {w : Nat} {c : CLine} (out : inWindow s pa = false) (absent : ∀ x ∈ sbAll (engGet s e), x.line ≠ lineOf pa)
    (way : wayOf (engGet s e).m.dc (lineOf pa) = some w)
    (line : tfind (engGet s e).m.dc (4 * setOf (lineOf pa) + w) = some c) :
    readPhys s e pa n i = .ok (engPut s e { engGet s e with
      m := { (engGet s e).m with dlru := touch (engGet s e).m.dlru (setOf (lineOf pa)) w } }) (lineBytes c.data (pa.toNat % 64) n) := by
  simp only [readPhys, sbSearch_absent _ absent, out, cacheLine_hit way line, Ans.bind, Bool.false_eq_true, if_false]

theorem readPhys_window {t : State} (inside : inWindow s pa = true) (absent : ∀ x ∈ sbAll (engGet s e), x.line ≠ lineOf pa)
    (clean : ∀ w ∈ wordsOf (winOff s pa) n, ReadsClean s e.val w) (ecc : s.cyc.ecc = [])
    (slots : wordsServe s e.val (wordsOf (winOff s pa) n) = (t, true)) :
    readPhys s e pa n i = .ok t (mread spadDefault s.spc.mem (winOff s pa) n) := by
  have taken := wordsServe_takesSlots e.isLt slots
  have read : spRead t e.val (winOff s pa) n = (t, some (mread spadDefault s.spc.mem (winOff s pa) n)) := by
    rw [spRead_clean (taken.ecc.trans ecc) fun w hw => (clean w hw).takesSlots taken, taken.mem]
  simp only [readPhys, sbSearch_absent _ absent, inside, slots, read, Bool.not_true, Bool.false_eq_true, if_true, if_false]

/-- Bytes that are at hand are read in run-ahead as elsewhere (08 R188). -/
theorem readAhead_of_readPhys {t : State} {va : Word} {bs : List Byte} (h : readPhys s e pa n i = .ok t bs) :
    readAhead s e va pa n i = .ok t bs := by
  unfold readAhead
  dsimp only
  split
  next waits => simp [readPhys, waits] at h
  next => exact h
  next absent =>
    split
    next => exact h
    next away =>
      obtain ⟨out, missing⟩ : inWindow s pa = false ∧ wayOf (engGet s e).m.dc (lineOf pa) = none := by simpa using away
      have ask : (cacheLine s e (lineOf pa) i) = askLine s e .data (lineOf pa) i := by simp only [cacheLine, missing]
      simp only [readPhys, absent, out, Bool.false_eq_true, if_false, ask] at h
      cases hline : (askLine s e .data (lineOf pa) i : Ans CLine) with
      | ok u c => exact absurd hline askLine_ne_ok
      | hold | fault | inv => simp [hline, Ans.bind] at h

end

/-! ### The checks of an access -/

theorem xlate_untranslated {s : State} {e : Eng} (acc : AccKind) (va : Word) (u : untranslated (regGet s e) = true) :
    xlate s e acc va = .ok s (va.setWidth 44) := if_pos u

theorem parts_within {va : Word} {n : Nat} (h : va.toNat % 64 + n ≤ 64) : parts va n = [(va, n)] :=
  if_pos (by omega)

section
variable {s : State} {e : Eng} {acc : AccKind} {va : Word} {n : Nat}

/-- An untranslated access within a line that has a target comes to what its regions say (11 R247, R258). -/
theorem checkAccess_untranslated (u : untranslated (regGet s e) = true) (within : va.toNat % 64 + n ≤ 64)
    (target : acc = .read → inWindow s (va.setWidth 44) = false → (decodePort s (va.setWidth 44)).isSome = true) :
    checkAccess s e acc va n =
      (regionParts s e (acc == .write) [(va, n, va.setWidth 44)]).bind fun t _ => .ok t [(va, n, va.setWidth 44)] := by
  have aimed : ¬(acc = .read ∧ (!inWindow s (va.setWidth 44)) = true ∧ (decodePort s (va.setWidth 44)).isNone = true) := by
    rintro ⟨read, out, untargeted⟩
    have := target read (by simpa using out)
    simp [Option.isNone_iff_eq_none.1 untargeted] at this
  simp only [checkAccess, parts_within within, xlateParts, xlate_untranslated acc va u, Ans.bind]
  rw [if_neg aimed]

/-- An untranslated access within a line that has a target and, in the scratchpad window, regions that grant its bytes is let through. -/
theorem checkAccess_granted (u : untranslated (regGet s e) = true) (within : va.toNat % 64 + n ≤ 64)
    (target : acc = .read → inWindow s (va.setWidth 44) = false → (decodePort s (va.setWidth 44)).isSome = true)
    (region : inWindow s (va.setWidth 44) = true →
      firstRefused s e.val (engPres s e) (acc == .write) ((List.range n).map (· + winOff s (va.setWidth 44))) = none) :
    checkAccess s e acc va n = .ok s [(va, n, va.setWidth 44)] := by
  have granted : regionParts s e (acc == .write) [(va, n, va.setWidth 44)] = .ok s () := by
    cases inside : inWindow s (va.setWidth 44) with
    | false => simp [regionParts, inside]
    | true => simp [regionParts, inside, region inside]
  rw [checkAccess_untranslated u within target, granted]
  rfl

/-- A region's refusal is a REGION fault at the first refused byte (12 R277). -/
theorem checkAccess_refused {o : Nat} (u : untranslated (regGet s e) = true) (within : va.toNat % 64 + n ≤ 64)
    (inside : inWindow s (va.setWidth 44) = true)
    (refused : firstRefused s e.val (engPres s e) (acc == .write) ((List.range n).map (· + winOff s (va.setWidth 44))) = some o) :
    checkAccess s e acc va n = .fault (violation s e.val o (acc == .write) (engInst s e))
      { num := 5, detail := nearRegion s e.val o, acc := if acc == .write then 1 else 0,
        faddr := some (va + BitVec.ofNat 32 (o - winOff s (va.setWidth 44))) } := by
  rw [checkAccess_untranslated u within fun _ out => absurd inside (by simp [out])]
  simp [regionParts, inside, refused, Ans.bind]

/-- A load that its checks let through and that finds its bytes reads them. -/
theorem loadRead_of_readPhys {t : State} {bs : List Byte} (idle : (engGet s e).io = none)
    (check : checkAccess s e .read va n = .ok s [(va, n, va.setWidth 44)])
    (read : readPhys s e (va.setWidth 44) n (pageFault .read 4 va none) = .ok t bs) : loadRead s e va n = .ok t bs := by
  have part : readParts s e [(va, n, va.setWidth 44)] = .ok t bs := by
    simp only [readParts, read, readAhead_of_readPhys read, ite_self, Ans.bind, List.append_nil]
  simp only [loadRead, idle, check, part, Option.isSome_none, Bool.false_eq_true, if_false]

end

end Sys2Proof.Machine
end

section
/-! Where a read finds its bytes (O12). -/

namespace Sys2Proof.Machine

open Sys2Proof

/-- Settles O12: each place a read can find its bytes in, once its checks have let it through, and a region's refusal of an access. -/
theorem readsFindBytes : Obligations.ReadsFindBytes := by
  unfold Obligations.ReadsFindBytes
  refine ⟨fun s e va n idle u pos within => ?_, fun s e va n k write idle u pos within => ?_⟩
  · have offset : (va.setWidth 44).toNat % 64 = va.toNat % 64 := by
      rw [BitVec.toNat_setWidth_of_le (by omega)]
    refine ⟨fun older x out target all line holds => ?_, fun w c out target absent way line => ?_,
      fun t inside absent region clean ecc slots => ?_⟩
    · have check := checkAccess_granted (acc := .read) u within (fun _ _ => target) (by simp [out])
      have found := sbSearch_youngest all line (lineMask_ne_zero (by omega) pos) holds
      rw [← offset] at found ⊢
      exact loadRead_of_readPhys idle check (readPhys_forwarded found)
    · have check := checkAccess_granted (acc := .read) u within (fun _ _ => target) (by simp [out])
      rw [← offset]
      exact loadRead_of_readPhys idle check (readPhys_cached out absent way line)
    · have check := checkAccess_granted (acc := .read) u within (by simp [inside]) fun _ => region
      exact loadRead_of_readPhys idle check (readPhys_window inside absent clean ecc slots)
  · intro pa inside below refused
    have kind : ((if write then AccKind.write else AccKind.read) == .write) = write := by cases write <;> rfl
    rw [checkAccess_refused u within inside (by rw [kind]; exact refused), kind, Nat.add_sub_cancel_left]

end Sys2Proof.Machine
end

section
/-! Writes of an engine and the drains of its store buffer (08 R192, 12 R268-R272): an entry made, a line's and a word's drain. -/

namespace Sys2Proof.Machine

open Sys2Proof

/-! ### Entries -/

/-- The byte mask that the first n of a run of present bytes add up to. -/
theorem foldl_present_bytes (bs : List Byte) (o : Nat) {n : Nat} (le : n ≤ bs.length) :
    (List.range n).foldl (fun a k => if (((bs.map some)[k]?).getD none).isSome then a + 2 ^ (o + k) else a) 0 = (2 ^ n - 1) * 2 ^ o := by
  induction n with
  | zero => simp
  | succ n ih =>
    have here : ((bs.map some)[n]?.getD none).isSome = true := by simp [show n < bs.length by omega]
    have pos : 1 ≤ 2 ^ n := Nat.one_le_two_pow
    rw [List.range_succ, List.foldl_append, ih (by omega), List.foldl_cons, List.foldl_nil, if_pos here, Nat.pow_add,
      Nat.mul_comm (2 ^ o), ← Nat.add_mul, Nat.pow_succ]
    congr 1
    omega

/-- The entry of a committed write of some bytes within a line. -/
def entryOf (s : State) (pa : PAddr) (bs : List Byte) : SbEntry :=
  { line := lineOf pa, data := toLine (pa.toNat % 64) bs, mask := lineMask (pa.toNat % 64) bs.length, win := inWindow s pa,
    spec := false, link := false }

/-- A write within a line makes one entry. -/
theorem sbEntries_one (s : State) (va : Word) (pa : PAddr) (bs : List Byte) :
    sbEntries s false [(va, bs.length, pa)] (bs.map some) = [entryOf s pa bs] := by
  have whole : (bs.map some).take bs.length = bs.map some := List.take_of_length_le (by simp)
  have bytes : (bs.map some).map (·.getD 0) = bs := by simp [Function.comp_def]
  simp only [sbEntries, whole, bytes, foldl_present_bytes bs _ (Nat.le_refl _)]
  rfl

theorem capture_off {s : State} {m pa : Nat} {bs : List (Option Byte)} (off : capturing s = false) : capture s m pa bs = some s := by
  simp [capture, captureFits, off]

/-- A checked write of level M, committed and outside any capture, joins the store buffer. -/
theorem putStore_one {s : State} {e : Eng} {va : Word} {pa : PAddr} {bs : List Byte} (correct : (engGet s e).wrong = none)
    (calm : (engGet s e).ra = none) (room : (engGet s e).m.sb.length ≤ 7) (level : (regGet s e).priv = 2) (off : capturing s = false) :
    putStore s e [(va, bs.length, pa)] (bs.map some) false = .ok (engPut s e { engGet s e with m := { (engGet s e).m with
      sb := (engGet s e).m.sb ++ [entryOf s pa bs] } }) () := by
  have captured : captureAll s e (captureParts [(va, bs.length, pa)] (bs.map some)) = some s := by
    simp [captureAll, captureParts, capture_off off]
  have free : ¬ (engGet s e).m.sb.length + 1 > 8 := by omega
  simp only [putStore, calm, correct, attributed, level, captured, sbEntries_one, List.length_singleton, free, setSb, Option.isSome_none,
    Bool.or_self, Bool.false_eq_true, if_true, if_false]

/-! ### A line's drain -/

theorem tfind_tins_tdel {α : Type} (t : Tab α) (n : Nat) (v : α) : tfind (tins (tdel t n) n v) n = some v := by
  induction t with
  | nil => simp [tdel, tins, tfind]
  | cons p r ih =>
    obtain ⟨k, w⟩ := p
    by_cases same : k = n
    · simp [tdel, same, ih]
    · simp only [tdel, same, if_false, tins]
      split
      · simp [tfind]
      · simp [tfind, same, ih]

theorem tfind_tput_same {α : Type} (t : Tab α) (n : Nat) (v : α) : tfind (tput t n v) n = some v := tfind_tins_tdel t n v

section
variable {s : State} {e : Eng} {x : SbEntry}

theorem exec_storeBufferDrain (e : Eng) (s : State) : exec (.storeBufferDrain e) s = execStoreBufferDrain e s := rfl

/-- A lone entry drains by itself. -/
theorem exec_storeBufferDrain_one (clock : eclkOn s = true) (lone : (engGet s e).m.sb = [x]) :
    exec (.storeBufferDrain e) s = .next (drainHead s e).1 := by
  simp [exec_storeBufferDrain, execStoreBufferDrain, engineOn, clock, lone]

/-- An entry that leaves while nothing waits for it changes the buffer alone. -/
theorem drainedOne_free {g : Engine} (noFrame : g.spill = none) (noGo : g.xleft = 0) : drainedOne g = g := by
  have frame : g.spill.map (fun f => { f with after := f.after - 1 }) = g.spill := by rw [noFrame]; rfl
  dsimp only [drainedOne]
  rw [frame, if_pos noGo]

/-- The engine once an entry has drained into way w, which held line c. -/
def lineDrained (g : Engine) (x : SbEntry) (w : Nat) (c : CLine) : Engine :=
  { g with m := { g.m with
      dlru := touch g.m.dlru (setOf x.line) w, sb := [],
      dc := tput g.m.dc (4 * setOf x.line + w) { c with data := mergeLine c.data x.data x.mask, dirty := c.dirty ||| x.mask } } }

theorem drainHead_line {w : Nat} {c : CLine} (lone : (engGet s e).m.sb = [x]) (own : x.spec = false)
    (noFrame : (engGet s e).spill = none) (noGo : (engGet s e).xleft = 0) (out : x.win = false)
    (way : wayOf (engGet s e).m.dc x.line = some w) (line : tfind (engGet s e).m.dc (4 * setOf x.line + w) = some c) :
    drainHead s e = (engPut s e (lineDrained (engGet s e) x w c), x.link) := by
  simp [drainHead, lone, own, noFrame, out, drainOr, drainLine, cacheLine_hit way line, way, drainedOne_free, noGo, dcPut, setSb,
    lineDrained]

end

/-! ### A word's drain -/

/-- A masked run of n bytes as it reads afterwards. -/
theorem tget_mwrite_maskBytes {w n : Nat} (d : Byte) (m : Mem) (o : Nat) (data : BitVec w) (mask : BitVec n) (a : Nat) :
    tget d (mwrite d m o (maskBytes data mask)) a =
      if o ≤ a ∧ a < o + n ∧ mask.getLsbD (a - o) then fld data (8 * (a - o)) 8 else tget d m a := by
  have size : (maskBytes data mask).length = n := by simp [maskBytes]
  by_cases below : a < o
  · rw [tget_mwrite_below _ below, if_neg (by omega)]
  by_cases above : o + n ≤ a
  · rw [tget_mwrite_above _ (by omega), if_neg (by omega)]
  obtain ⟨k, rfl⟩ := Nat.exists_eq_add_of_le (Nat.le_of_not_lt below)
  rw [tget_mwrite_at (by omega), Nat.add_sub_cancel_left]
  simp only [maskBytes, List.getElem_map, List.getElem_range]
  have inside : o ≤ o + k ∧ o + k < o + n := by omega
  cases mask.getLsbD k <;> simp [inside]

/-- What a read shows and counts of a word leaves the engines and every byte, and spoils no word. -/
theorem eccRead_keeps {s : State} {w : Nat} (sound : spBad s.spc w = false) :
    (eccRead s w .good).1.eng = s.eng ∧ (eccRead s w .good).1.spc.mem = s.spc.mem ∧ (eccRead s w .good).1.spc.bad = s.spc.bad := by
  unfold eccRead
  rw [if_neg (by simp [sound])]
  split
  · rw [pmuAdd_eq]
    unfold soften
    split <;> exact ⟨rfl, rfl, rfl⟩
  · exact ⟨rfl, rfl, rfl⟩

theorem spWrite_sound {c : Spc} {w : Nat} (mask : BitVec 8) (data : BitVec 64) (sound : spBad c w = false) :
    spWrite c w mask data = some { c with
      mem := mwrite spadDefault c.mem (8 * w) (maskBytes data mask), soft := c.soft.filter (· ≠ w) } := by
  simp [spWrite, sound]

/-- A word that is not bad takes a masked write (12 R270). -/
theorem spPerform_sound {s : State} {m w : Nat} (mask : BitVec 8) (data : BitVec 64) (sound : spBad s.spc w = false) :
    ∃ t, spPerform s m w mask data = some t ∧ t.eng = s.eng ∧
      t.spc.mem = mwrite spadDefault s.spc.mem (8 * w) (maskBytes data mask) := by
  obtain ⟨s1, shown, eng, mem, bad⟩ : ∃ s1, (if mask = 0xFF#8 ∨ spBad s.spc w then s else (eccRead s w .good).1) = s1 ∧
      s1.eng = s.eng ∧ s1.spc.mem = s.spc.mem ∧ s1.spc.bad = s.spc.bad := by
    refine ⟨_, rfl, ?_⟩
    split
    · exact ⟨rfl, rfl, rfl⟩
    · exact eccRead_keeps sound
  have still : spBad s1.spc w = false := by rw [spBad, bad]; exact sound
  simp only [spPerform, shown, spWrite_sound mask data still, Option.map_some]
  exact ⟨_, rfl, eng, congrArg (mwrite spadDefault · _ _) mem⟩

/-- A write of a word that no other master has written in the cycle is performed (12 R272). -/
theorem spStore_sole {s : State} {m w : Nat} (mask : BitVec 8) (data : BitVec 64) (sole : ∀ y ∈ s.cyc.wrote, y.word ≠ w) :
    spStore s m w mask data = spPerform s m w mask data := by
  have unwritten : (s.cyc.wrote.find? fun y => y.word == w && y.mst != m) = none := by
    rw [List.find?_eq_none]
    intro y hy
    simp [sole y hy]
  rw [spStore, unwritten]

/-- The lowest word that a mask still names. -/
theorem nextWord_eq {todo : BitVec 64} {k : Nat} (lt : k < 8) (done : ∀ b < 8 * k, todo.getLsbD b = false)
    (left : fld todo (8 * k) 8 ≠ 0) : nextWord todo = some k := by
  rw [nextWord, List.find?_range_eq_some]
  refine ⟨by simpa using left, by simpa using lt, fun j hj => ?_⟩
  have empty : fld todo (8 * j) 8 = 0 := by
    apply BitVec.eq_of_getLsbD_eq
    intro i hi
    rw [fld, BitVec.getLsbD_extractLsb', done _ (by omega)]
    simp
  simp [empty]

theorem fld_fld {w : Nat} (x : BitVec w) {i j len : Nat} (n : Nat) (h : j + n ≤ len) : fld (fld x i len) j n = fld x (i + j) n := by
  apply BitVec.eq_of_getLsbD_eq
  intro b hb
  simp only [fld, BitVec.getLsbD_extractLsb', hb, show j + b < len by omega, decide_true, Bool.true_and]
  rw [Nat.add_assoc]

/-- A word's drain into the window, from a slot that serves the engine. -/
theorem drainWord_sole {s : State} {e : Eng} {l : LineAddr} {k o : Nat} (d : LineData) (todo : BitVec 64) (frame : Bool)
    (place : winOff s (linePA l) + 8 * k = o) (aligned : o % 8 = 0) (slot : (wordServe s e.val (o / 8)).isSome = true)
    (sound : s.spc.bad = []) (sole : ∀ y ∈ s.cyc.wrote, y.word ≠ o / 8) :
    ∃ t, drainWord s e l d todo k frame = some t ∧ t.eng = s.eng ∧
      t.spc.mem = mwrite spadDefault s.spc.mem o (maskBytes (fld d (64 * k) 64) (fld todo (8 * k) 8)) := by
  obtain ⟨s1, served⟩ := Option.isSome_iff_exists.1 slot
  have taken := wordServe_takesSlots e.isLt served
  obtain ⟨t, stored, eng, mem⟩ := spPerform_sound (s := s1) (m := e.val) (w := o / 8) (fld todo (8 * k) 8) (fld d (64 * k) 64)
    (by simp [spBad, taken.bad, sound])
  have word : winOff s (linePA l) / 8 + k = o / 8 := by omega
  have start : 8 * (o / 8) = o := by omega
  rw [start, taken.mem] at mem
  refine ⟨t, ?_, eng.trans taken.eng, mem⟩
  simp only [drainWord, word, served, Option.map_some]
  rw [spStore_sole _ _ (by rw [taken.wrote]; exact sole), stored]

theorem drainHead_word {s t : State} {e : Eng} {x : SbEntry} {k : Nat} (lone : (engGet s e).m.sb = [x]) (own : x.spec = false)
    (noFrame : (engGet s e).spill = none) (noGo : (engGet s e).xleft = 0) (win : x.win = true) (next : nextWord x.todo = some k)
    (drain : drainWord s e x.line x.data x.todo k false = some t) (eng : t.eng = s.eng) :
    (drainHead s e).1 = engPut t e (setSb (engGet s e)
      (if x.todo &&& ~~~ lineMask (8 * k) 8 = 0 then [] else [{ x with todo := x.todo &&& ~~~ lineMask (8 * k) 8 }])) := by
  have same : engGet t e = engGet s e := by simp only [engGet, eng]
  have leave : drainedOne (setSb (engGet s e) []) = setSb (engGet s e) [] := drainedOne_free noFrame noGo
  simp only [drainHead, lone, own, noFrame, win, next, drain, same, leave, Option.any_none, Bool.or_self, Bool.false_eq_true, if_true,
    if_false]
  split <;> rfl

/-- The window's bytes after a word's drain. -/
theorem tget_drainedWord {x : SbEntry} {k o : Nat} (m : Mem) (a : Nat) :
    tget spadDefault (mwrite spadDefault m o (maskBytes (fld x.data (64 * k) 64) (fld x.todo (8 * k) 8))) a =
      if o ≤ a ∧ a < o + 8 ∧ x.todo.getLsbD (8 * k + (a - o)) then fld x.data (64 * k + 8 * (a - o)) 8 else tget spadDefault m a := by
  rw [tget_mwrite_maskBytes]
  by_cases here : o ≤ a ∧ a < o + 8
  · have bit : (fld x.todo (8 * k) 8).getLsbD (a - o) = x.todo.getLsbD (8 * k + (a - o)) := by
      rw [fld, BitVec.getLsbD_extractLsb', decide_eq_true (by omega), Bool.true_and]
    rw [bit, fld_fld _ 8 (by omega)]
  · rw [if_neg fun ⟨low, high, _⟩ => here ⟨low, high⟩, if_neg fun ⟨low, high, _⟩ => here ⟨low, high⟩]

end Sys2Proof.Machine
end

section
/-! The store buffer (O13). -/

namespace Sys2Proof.Machine

open Sys2Proof

/-- Settles O13: a write that its checks let through makes one entry; a lone entry drains into its line, or one word of it into the window. -/
theorem storeBuffer : Obligations.StoreBuffer := by
  unfold Obligations.StoreBuffer
  refine ⟨fun s e va bs idle u _ within correct calm room level off => ?_, fun s e x clock lone own noFrame noGo => ?_⟩
  · intro g pa region
    have offset : pa.toNat % 64 = va.toNat % 64 := by
      rw [BitVec.toNat_setWidth_of_le (by omega)]
    have check := checkAccess_granted (acc := .write) u within (by simp) region
    simp only [dataWrite, idle, check, Ans.bind, Option.isSome_none, Bool.false_eq_true, if_false]
    rw [putStore_one correct calm room level off, entryOf, offset]
  · rw [exec_storeBufferDrain_one clock lone]
    refine ⟨fun w c out way line => ?_, fun k win sound _ done lt left aligned slot sole => ?_⟩
    · rw [drainHead_line lone own noFrame noGo out way line]
      refine ⟨_, rfl, ?_, ?_, rfl, ?_⟩
      · rw [engGet_engPut]; rfl
      · rw [engGet_engPut]; exact tfind_tput_same _ _ _
      · rw [regGet_engPut]; rfl
    · obtain ⟨t, drain, eng, mem⟩ := drainWord_sole x.data x.todo false rfl aligned slot sound sole
      rw [drainHead_word lone own noFrame noGo win (nextWord_eq lt done left) drain eng]
      refine ⟨_, rfl, ?_, ?_, fun a => ?_⟩
      · rw [regGet_engPut]; rfl
      · rw [engGet_engPut]; rfl
      · rw [engPut_spc, mem, tget_drainedWord]

end Sys2Proof.Machine
end

section
/-! A compare-and-branch that resolves against its prediction, and its undo (08 R181, R184). -/

namespace Sys2Proof.Machine

open Sys2Proof

/-! ### Conditions (03 R79) -/

theorem eqW_iff {w : Nat} {a b : BitVec w} : eqW w a b = true ↔ a = b := by simp [eqW]
theorem neW_iff {w : Nat} {a b : BitVec w} : neW w a b = true ↔ a ≠ b := by simp [neW]
theorem ltW_iff {w : Nat} {a b : BitVec w} : ltW w a b = true ↔ a.toInt < b.toInt := by simp [ltW, BitVec.slt]
theorem geW_iff {w : Nat} {a b : BitVec w} : geW w a b = true ↔ b.toInt ≤ a.toInt := by simp [geW, BitVec.slt]
theorem ltuW_iff {w : Nat} {a b : BitVec w} : ltuW w a b = true ↔ a.toNat < b.toNat := by simp [ltuW, BitVec.ult]
theorem geuW_iff {w : Nat} {a b : BitVec w} : geuW w a b = true ↔ b.toNat ≤ a.toNat := by simp [geuW, BitVec.ult]

/-! ### The transfer -/

/-- A conditional branch is predicted one way; not foreseen, it went the other (08 R181). -/
theorem predict_cond_of_unforeseen {s : State} {e : Eng} {target : Word} {t : Bool}
    (miss : foreseen s e .cond target t (if t then target else (regGet s e).pc + 4) = false) :
    predict (engGet s e) .cond target = some (!t, if t then (regGet s e).pc + 4 else target) := by
  simp only [foreseen, predict] at miss ⊢
  split
  next strong =>
    rw [if_pos strong] at miss
    cases t <;> simp_all
  next weak =>
    rw [if_neg weak] at miss
    cases t <;> simp_all [regGet]

/-- The checkpoint of a conditional branch that went as `t` to `a` when the engine's registers were r, its cells popped. -/
def condCheckpoint (g : Engine) (r : Regs) (p : Place) (t : Bool) (a : Word) : Checkpoint :=
  { before := g.r, after := xferRegs r p .cond t a, cond := some t, tb := t, logged := 0 }

/-- Engine e on the predicted path of a conditional branch, `q` its prediction. -/
def misled (s : State) (e : Eng) (p : Place) (r : Regs) (q : Bool × Word) (t : Bool) (a : Word) : State :=
  engPut s e { engGet s e with
    r := xferRegs r p .cond q.1 q.2, cps := 1, waits := false, wrong := some (condCheckpoint (engGet s e) r p t a) }

theorem xferRegs_pc (r : Regs) (b : BForm) (k : XKind) (t : Bool) (a : Word) : (xferRegs r (bPlace b) k t a).pc = a := by
  cases b <;> rfl

/-- A conditional branch whose cells are popped resolves against its prediction q. -/
theorem xferDone_mispredicted {s : State} {e : Eng} {p : Place} {target : Word} {r : Regs} {q : Bool × Word} {t : Bool} {a : Word}
    (calm : (engGet s e).ra = none) (correct : (engGet s e).wrong = none) (sound : (engGet s e).r.ovp = false)
    (guess : predict (engGet s e) .cond target = some q) (wrong : q ≠ (t, a)) :
    xferDone (regPut s e r) e p 0 .cond target (engGet s e).r t a = misled s e p r q t a := by
  have missed : ¬(q = (t, a) ∨ (engGet s e).r.ovp = true) := by simp [wrong, sound]
  unfold xferDone
  rw [engGet_regPut]
  dsimp only
  rw [guess, if_neg (show ¬(engGet s e).ra.isSome = true by simp [calm]),
    if_neg (show ¬(engGet s e).wrong.isSome = true by simp [correct])]
  dsimp only
  rw [if_neg missed, regPut, engPut_engPut]
  cases t <;> rfl

/-- A compare-and-branch in native mode whose cells are cached and which resolves against its prediction. -/
theorem condOp_mispredicted {s : State} {e : Eng} {b : BForm} {k : Nat} {f : Bool → List Word → Bool} {vs : List Word} {q : Bool × Word}
    {t : Bool} {a : Word} (ready : readyNative s e (bPlace b) = true) (vals : takeVals k (regGet s e).ds = some vs)
    (cached : k ≤ (regGet s e).ds.length) (room : (regGet s e).ds.length ≤ 32 + k) (outcome : f false vs = t)
    (next : (if t then bTarget b (regGet s e).pc else (regGet s e).pc + 4) = a)
    (guess : predict (engGet s e) .cond (bTarget b (regGet s e).pc) = some q) (wrong : q ≠ (t, a)) :
    condOp e b k f s = .next (misled s e (bPlace b) { regGet s e with ds := (regGet s e).ds.drop k } q t a) := by
  obtain ⟨h, native, -⟩ := readyNative_iff.1 ready
  obtain ⟨-, calm, correct, -, -, sound, -, -, settled⟩ := ready_iff.1 h
  have popped : putCells s e k [] = regPut s e { regGet s e with ds := (regGet s e).ds.drop k } := rfl
  have going : commitHeld (engGet (putCells s e k []) e) (bPlace b) = false := by simp [popped, commitHeld, regGet, sound]
  have spills : commitSpills (putCells s e k []) e = .ok (putCells s e k []) () :=
    commitSpills_none (by rw [popped, engGet_regPut]; exact settled)
  have done := xferDone_mispredicted (p := bPlace b) (r := { regGet s e with ds := (regGet s e).ds.drop k })
    calm correct sound guess wrong
  have moved : predKeep s (misled s e (bPlace b) { regGet s e with ds := (regGet s e).ds.drop k } q t a) e =
      misled s e (bPlace b) { regGet s e with ds := (regGet s e).ds.drop k } q t a :=
    predKeep_none (by rw [misled, engGet_engPut]; exact calm)
  simp only [condOp, issueXfer, correct, Option.isSome_none, Bool.false_and, Bool.false_eq_true, if_false]
  rw [issueAny_native ready, pops_cached vals cached (by omega)]
  simp only [Ans.bind, native, outcome, next, going, spills, Bool.false_eq_true, if_false]
  rw [popped]
  exact congrArg _ ((congrArg (predKeep s · e) done).trans moved)

/-! ### The undo -/

theorem exec_mispredictUndo (e : Eng) (s : State) : exec (.mispredictUndo e) s = execMispredictUndo e s := rfl

theorem engCount_spc (s : State) (e : Eng) (k : Nat) : (engCount s e k).spc = s.spc := by
  unfold engCount
  split
  · rfl
  · rw [pmuAdd_eq]

theorem xinvAct_r (g : Engine) : (xinvAct g).r = g.r := by unfold xinvAct; split <;> rfl
theorem xinvAct_wrong (g : Engine) : (xinvAct g).wrong = g.wrong := by unfold xinvAct; split <;> rfl

/-- The undo puts the engine on the correct path (08 R184). -/
theorem mispredictUndo_corrects {s : State} {e : Eng} {c : Checkpoint} (clock : eclkOn s = true) (path : (engGet s e).wrong = some c) :
    ∃ u, exec (.mispredictUndo e) s = .next u ∧ (engGet u e).wrong = none ∧ regGet u e = c.after ∧ u.spc = s.spc := by
  simp only [exec_mispredictUndo, execMispredictUndo, engineOn, clock, path, Bool.not_true, Bool.false_eq_true, if_false]
  refine ⟨_, rfl, ?_, ?_, ?_⟩
  · rw [engGet_engCount, engGet_engCount, engGet_engPut, xinvAct_wrong]; rfl
  · rw [regGet_engCount, regGet_engCount, regGet_engPut, xinvAct_r]
  · rw [engCount_spc, engCount_spc, engPut_spc]

/-- An engine issues only while its clock runs. -/
theorem eclkOn_of_canRun {s : State} {g : Engine} (running : canRun s g = true) : eclkOn s = true := by
  simp only [canRun, Bool.and_eq_true, and_assoc] at running
  exact running.1

/-- A compare-and-branch that is not foreseen goes down the predicted path, and its undo leaves what a foreseen one would have. -/
theorem condOp_undone {s : State} {e : Eng} {b : BForm} {k : Nat} {f : Bool → List Word → Bool} {vs : List Word} {rest : List Cell}
    {taken : Prop} [Decidable taken] (ready : readyNative s e (bPlace b) = true) (vals : takeVals k (regGet s e).ds = some vs)
    (popped : (regGet s e).ds.drop k = rest) (cached : k ≤ (regGet s e).ds.length) (room : rest.length ≤ 32)
    (outcome : f false vs = true ↔ taken) :
    let r := regGet s e
    let next := if taken then bTarget b r.pc else r.pc + 4
    foreseen s e .cond (bTarget b r.pc) (decide taken) next = false →
    ∃ t u, condOp e b k f s = .next t ∧ (regGet t e).pc = (if taken then r.pc + 4 else bTarget b r.pc) ∧
      (engGet t e).wrong.isSome = true ∧ exec (.mispredictUndo e) t = .next u ∧ (engGet u e).wrong = none ∧
      regGet u e = xferRegs { r with ds := rest } (bPlace b) .cond (decide taken) next ∧ u.spc = s.spc := by
  intro r next miss
  have next' : (if decide taken then bTarget b r.pc else r.pc + 4) = next := by simp [next]
  have guess := predict_cond_of_unforeseen (t := decide taken) (by rw [next']; exact miss)
  have size : (regGet s e).ds.length ≤ 32 + k := by rw [← popped, List.length_drop] at room; omega
  have outcome' : f false vs = decide taken := by rw [Bool.eq_iff_iff, outcome, decide_eq_true_iff]
  have branch := condOp_mispredicted ready vals cached size outcome' next' guess
    (fun same => by cases h : decide taken <;> simp [h] at same)
  rw [popped] at branch
  obtain ⟨running, -⟩ := ready_iff.1 (readyNative_iff.1 ready).1
  have clock := eclkOn_of_canRun running
  obtain ⟨u, undo, corrected, regs, spc⟩ := mispredictUndo_corrects
    (s := misled s e (bPlace b) { regGet s e with ds := rest } (!decide taken, _) (decide taken) next) clock
    (by rw [misled, engGet_engPut])
  refine ⟨_, u, branch, ?_, ?_, undo, corrected, regs, spc⟩
  · rw [misled, regGet_engPut, xferRegs_pc]; simp [r]
  · rw [misled, engGet_engPut]; rfl

end Sys2Proof.Machine
end

section
/-! Run-ahead (08 R187-R189): its beginning, its instructions, what ends it, and its undo. -/

namespace Sys2Proof.Machine

open Sys2Proof

theorem exec_runAheadEntry (e : Eng) (l : LineAddr) (s : State) : exec (.runAheadEntry e l) s = execRunAheadEntry e l s := rfl
theorem exec_runAheadEnd (e : Eng) (s : State) : exec (.runAheadEnd e) s = execRunAheadEnd e s := rfl
theorem exec_nop (e : Eng) (y : Syl) (s : State) : exec (.nop e y) s = shortOp e y true 0 0 0 (fun _ _ => []) s := rfl
theorem exec_not (e : Eng) (y : Syl) (s : State) : exec (.not_ e y) s = shortOp e y true 0 1 1 (un notW) s := rfl
theorem exec_sync (e : Eng) (o : BitVec 24) (s : State) : exec (.sync e o) s = execSync e o s := rfl

section
variable {s : State} {e : Eng} {p : Place} {a : RunAhead}

/-! ### Its beginning and its end -/

theorem runAheadEntry_begins {l : LineAddr} (clock : eclkOn s = true) (runs : (engGet s e).st = .running)
    (noEntry : (engGet s e).lrPend = none) (calm : (engGet s e).ra = none) (enabled : (engGet s e).r.sp.ctlEff.getLsbD 4 = true)
    (anchor : (engGet s e).anchor = some l) (missing : wayOf (engGet s e).m.dc l = none)
    (fill : ∀ f, fillOf (engGet s e) .data l = some f → f.st = .waiting) :
    exec (.runAheadEntry e l) s = .next (engCount (engPut s e { engGet s e with ra := some { anchor := (engGet s e).r } }) e 6) := by
  have outstanding : (fillOf (engGet s e) .data l).all (·.st == .waiting) = true := by
    cases f : fillOf (engGet s e) .data l with
    | none => rfl
    | some x => simp [fill x f]
  simp only [exec_runAheadEntry, execRunAheadEntry, engineOn, clock, runs, noEntry, calm, enabled, anchor, missing, outstanding,
    beq_self_eq_true, Option.isNone_none, Bool.and_self, if_true]

theorem runAheadEnd_waits (ahead : (engGet s e).ra = some a) (going : a.ended = false) : exec (.runAheadEnd e) s = .next s := by
  simp [exec_runAheadEnd, execRunAheadEnd, ahead, going]

theorem runAheadEnd_undoes (clock : eclkOn s = true) (ahead : (engGet s e).ra = some a) (ended : a.ended = true) :
    exec (.runAheadEnd e) s = .next (engPut s e (raUndo (engGet s e))) := by
  simp [exec_runAheadEnd, execRunAheadEnd, engineOn, clock, ahead, ended]

/-- What the undo of run-ahead leaves of an engine on the correct path (08 R189). -/
theorem raUndo_restores {g : Engine} (ahead : g.ra = some a) (correct : g.wrong = none) :
    (raUndo g).r = a.anchor ∧ (raUndo g).ra = none ∧ (∀ p, p ∈ (raUndo g).prods ↔ p ∈ g.prods ∧ p.spec = false) ∧
      (∀ d, (raUndo g).div = some d → d.spec = false) ∧ (raUndo g).m = g.m := by
  unfold raUndo
  rw [ahead]
  refine ⟨rfl, rfl, fun p => ?_, fun d kept => ?_, rfl⟩
  · simp [List.mem_filter, correct]
  · simp only [correct] at kept
    obtain ⟨x, -, same⟩ := Option.bind_eq_some_iff.1 kept
    cases own : x.spec with
    | true => simp [own] at same
    | false =>
      obtain rfl : x = d := by simpa [own] using same
      exact own

/-! ### Its instructions -/

/-- Engine e can issue an instruction at place p in run-ahead `a`, in native mode and in a word that is no reserved encoding: it stands
there with its word fetched, and the speculative-write log has room. -/
structure RunsAhead (s : State) (e : Eng) (p : Place) (a : RunAhead) : Prop where
  ahead : (engGet s e).ra = some a
  runs : canRun s (engGet s e) = true
  place : atPlace (engGet s e) p = true
  correct : (engGet s e).wrong = none
  fetched : wordHeld s e = true
  native : sb1Mode s e = false
  legal : wordLegal p = true
  sound : (engGet s e).r.ovp = false
  room : a.logged ≤ 32

theorem RunsAhead.going (h : RunsAhead s e p a) : a.ended = false := by
  have runs := h.runs
  simp only [canRun, h.ahead, Option.all_some, Bool.and_eq_true, Bool.not_eq_true'] at runs
  exact runs.2

/-- The state after an instruction of run-ahead has moved the registers on from `ds` as its operand stack. -/
def ranAhead (s : State) (e : Eng) (p : Place) (a : RunAhead) (ds : List Cell) : State :=
  engPut s e { engGet s e with
    waits := false, r := nextRegs { (engGet s e).r with ds := ds } p false none,
    ra := some { a with count := a.count + 1, ended := decide (64 ≤ a.count) } }

/-- In run-ahead a completion moves the registers on and is counted, and the predictors stand (08 R188, R189). -/
theorem finish_ranAhead (h : RunsAhead s e p a) (k : Nat) (new : List Cell) :
    predKeep s (finish (putCells s e k new) e p 0 none) e = ranAhead s e p a (new ++ (engGet s e).r.ds.drop k) := by
  have mode : sb1Mode (putCells s e k new) e = false := (sb1Mode_cellsPut s e k new).trans h.native
  have eng : engGet (putCells s e k new) e = { engGet s e with r := cellsPut (engGet s e).r k new } := engGet_regPut s e _
  have sound : ¬(!p.isFirst && (engGet s e).r.ovp) = true := by simp [h.sound]
  have count : raCount (engPut (putCells s e k new) e { engGet s e with
      waits := false, r := nextRegs (cellsPut (engGet s e).r k new) p false none }) e 0 =
      ranAhead s e p a (new ++ (engGet s e).r.ds.drop k) := by
    simp only [raCount, engGet_engPut, h.ahead, Option.map_some, h.going, Bool.false_or, putCells, regPut, engPut_engPut]
    rfl
  have done : finish (putCells s e k new) e p 0 none = ranAhead s e p a (new ++ (engGet s e).r.ds.drop k) := by
    unfold finish
    rw [mode, eng]
    dsimp only
    rw [if_pos (by simp [h.ahead])]
    exact (if_neg sound).trans count
  rw [done, predKeep, ranAhead, engGet_engPut, engPut_engPut]
  cases p <;> rfl

/-- An instruction of run-ahead that replaces k cells comes to a completion, be its result valid or not. -/
theorem issue_ranAhead {sb1ok : Bool} {k : Nat} {new : List Cell} {body : State → Ans (Option Word)} (h : RunsAhead s e p a)
    (result : body s = .ok (putCells s e k new) none ∨ body s = .inv (putCells s e k new)) :
    issue s e p false false sb1ok none body = .next (ranAhead s e p a (new ++ (engGet s e).r.ds.drop k)) := by
  have eng : engGet (putCells s e k new) e = { engGet s e with r := cellsPut (engGet s e).r k new } := engGet_regPut s e _
  have early : speculative (engGet (putCells s e k new) e) = true := by simp [speculative, eng, h.ahead]
  have free : issueHeld (engGet s e) false false 0 = false := by simp [issueHeld, windowFull, h.ahead, h.correct, h.room]
  have going : commitHeld (engGet (putCells s e k new) e) p = false := by simp [commitHeld, early]
  have spills : commitSpills (putCells s e k new) e = .ok (putCells s e k new) () := by simp [commitSpills, early]
  simp only [issue, issueLog, issueAny, h.runs, h.place, free, fetchAt, h.fetched, encCode_legal h.native h.legal, Bool.not_true, Bool.or_self,
    Bool.false_and, Bool.false_eq_true, if_false, if_true]
  obtain result | result := result
  · simp only [result, going, spills, Bool.false_eq_true, if_false, finish_ranAhead h]
  · simp only [result, finish_ranAhead h]

theorem shortOp_ranAhead {y : Syl} {sb1ok : Bool} {k m : Nat} {f : Bool → List Word → List Word} {new : List Cell}
    (h : RunsAhead s e (sylPlace y) a) (operand : sylOpnd y = 0)
    (result : stackOp s e k m (f false) = .ok (putCells s e k new) none ∨ stackOp s e k m (f false) = .inv (putCells s e k new)) :
    shortOp e y sb1ok 0 k m f s = .next (ranAhead s e (sylPlace y) a (new ++ (engGet s e).r.ds.drop k)) := by
  have unreserved : sylRes y 0 = none := by simp [sylRes, reservedFrom, operand]
  rw [shortOp, unreserved]
  exact issue_ranAhead h (by rw [h.native]; exact result)

/-- An instruction that pops an invalid cell gives invalid cells (08 R188). -/
theorem stackOp_invalid {k m : Nat} {f : List Word → List Word} (cached : k ≤ (regGet s e).ds.length)
    (room : (regGet s e).ds.length + m ≤ 32 + k) (invalid : Cell.inv ∈ (regGet s e).ds.take k) :
    stackOp s e k m f = .inv (putCells s e k (invCells m)) := by
  have deep : ¬depth (regGet s e) < k := by unfold depth; omega
  have found : ((regGet s e).ds.take k).contains .inv = true := by simpa using invalid
  simp only [stackOp, pops, prepDs, deep, Nat.not_lt.2 cached, Nat.not_lt.2 room, found, Ans.bind, if_false, if_true]

/-- An instruction that never runs ahead ends run-ahead (08 R189). -/
theorem issue_serial_endsAhead {sb1ok mem : Bool} {code : Option (BitVec 8)} {body : State → Ans (Option Word)}
    (ahead : (engGet s e).ra = some a) (runs : canRun s (engGet s e) = true) (place : atPlace (engGet s e) p = true) :
    issue s e p true mem sb1ok code body = .next (engPut s e { engGet s e with ra := some { a with ended := true } }) := by
  simp only [issue, issueLog, issueAny, runs, place, ahead, raEnd, Option.isSome_some, Option.map_some, Bool.not_true, Bool.or_self,
    Bool.and_self, Bool.false_eq_true, if_false, if_true]

end

end Sys2Proof.Machine
end

section
/-! Speculation (O16): a mispredicted branch and its undo, and run-ahead. -/

namespace Sys2Proof.Machine

open Sys2Proof

/-- Settles O16: each branch is a condition on its popped cells that goes the other way than predicted; run-ahead's beginning, its instructions
and its end. -/
theorem speculation : Obligations.Speculation := by
  unfold Obligations.Speculation
  refine ⟨fun s e f a b rest ready room => ⟨fun ds => ?_, fun ds => ?_⟩, fun s e l a clock => ⟨?_, ?_, ?_, ?_, ?_⟩⟩
  · have branch (c : (w : Nat) → BitVec w → BitVec w → Bool) {taken : Prop} [Decidable taken] (outcome : c 32 a b = true ↔ taken) :=
      condOp_undone (b := f) (k := 2) (f := cond2 c) (vs := [b, a]) (rest := rest) ready (by rw [ds]; rfl) (by rw [ds]; rfl)
        (by simp [ds]) (by omega) outcome
    exact ⟨branch eqW eqW_iff, branch neW neW_iff, branch ltW ltW_iff, branch geW geW_iff, branch ltuW ltuW_iff, branch geuW geuW_iff⟩
  · have branch (c : (w : Nat) → BitVec w → BitVec w → Bool) {taken : Prop} [Decidable taken] (outcome : c 32 a 0 = true ↔ taken) :=
      condOp_undone (b := f) (k := 1) (f := cond0 c) (vs := [a]) (rest := rest) ready (by rw [ds]; rfl) (by rw [ds]; rfl)
        (by simp [ds]) (by omega) outcome
    exact ⟨branch eqW eqW_iff, branch neW neW_iff⟩
  · exact runAheadEntry_begins clock
  · exact runAheadEnd_waits
  · intro ahead ended correct
    obtain ⟨regs, gone, prods, div, mem⟩ := raUndo_restores ahead correct
    refine ⟨_, runAheadEnd_undoes clock ahead ended, ?_⟩
    rw [regGet_engPut, engGet_engPut]
    exact ⟨regs, gone, prods, div, mem⟩
  · intro y rest ahead runs place correct fetched native legal operand size sound room
    have h : RunsAhead s e (sylPlace y) a := ⟨ahead, runs, place, correct, fetched, native, legal, sound, room⟩
    refine ⟨(exec_nop e y s).trans (shortOp_ranAhead h operand (.inl (stackOp_cached rfl (Nat.zero_le _) size))), fun ds => ?_⟩
    have top : (regGet s e).ds = .inv :: rest := ds
    have moved := shortOp_ranAhead (sb1ok := true) (f := un notW) h operand
      (.inr (stackOp_invalid (k := 1) (m := 1) (by simp [top]) (by rw [regGet]; omega) (by simp [top])))
    rw [ds] at moved
    exact (exec_not e y s).trans moved
  · exact fun ahead runs place => (exec_sync e 0 s).trans (issue_serial_endsAhead ahead runs place)

end Sys2Proof.Machine
end

section
/-! The Gatherer's parts: what is read of them after a change, and what counters, raised sources and changed sources leave alone (10
R228-R233, R242, R245). -/

namespace Sys2Proof.Machine

open Sys2Proof

/-! ### Bits and halves of a word -/

theorem getLsbD_setBit_same {w k : Nat} (h : k < w) (x : BitVec w) (b : Bool) : (setBit x k b).getLsbD k = b := by
  have bit : (BitVec.ofNat w (2 ^ k)).getLsbD k = true := by
    rw [BitVec.getLsbD_ofNat, Nat.testBit_two_pow_self, decide_eq_true h, Bool.and_self]
  cases b
  · simp only [setBit, Bool.false_eq_true, if_false, BitVec.getLsbD_and, BitVec.getLsbD_not, bit, Bool.not_true, Bool.and_false]
  · simp only [setBit, if_true, BitVec.getLsbD_or, bit, Bool.or_true]

theorem setBit_false {w : Nat} (x : BitVec w) (k : Nat) : setBit x k false = x &&& ~~~(1#w <<< k) := by
  have bit : BitVec.ofNat w (2 ^ k) = 1#w <<< k := by
    rw [← BitVec.twoPow_eq]
    exact BitVec.eq_of_toNat_eq (by rw [BitVec.toNat_twoPow, BitVec.toNat_ofNat])
  rw [setBit, if_neg Bool.false_ne_true, bit]

theorem fld_low_half (x : BitVec 64) : fld x 0 32 = x.setWidth 32 := BitVec.eq_of_getLsbD_eq fun i hi => by simp [fld, hi]

theorem fld_high_half (x : BitVec 64) : fld x 32 32 = (x >>> 32).setWidth 32 := BitVec.eq_of_getLsbD_eq fun i hi => by simp [fld, hi]

/-! ### Parts of the Gatherer -/

theorem srcGet_srcPut_ne (s : State) {n m : Nat} (x : Source) (h : m ≠ n) : srcGet (srcPut s n x) m = srcGet s m :=
  tget_tset_ne _ _ x h

@[simp] theorem srcGet_engPut (s : State) (e : Eng) (g : Engine) (n : Nat) : srcGet (engPut s e g) n = srcGet s n := rfl
@[simp] theorem srcGet_evgEngPut (s : State) (k : Nat) (x : EvgEng) (n : Nat) : srcGet (evgEngPut s k x) n = srcGet s n := rfl
@[simp] theorem evgEng_engPut (s : State) (e : Eng) (g : Engine) (k : Nat) : evgEng (engPut s e g) k = evgEng s k := rfl
@[simp] theorem evgEng_srcPut (s : State) (n : Nat) (x : Source) (k : Nat) : evgEng (srcPut s n x) k = evgEng s k := rfl
@[simp] theorem engGet_srcPut (s : State) (n : Nat) (x : Source) (e : Eng) : engGet (srcPut s n x) e = engGet s e := rfl
@[simp] theorem engGet_evgEngPut (s : State) (k : Nat) (x : EvgEng) (e : Eng) : engGet (evgEngPut s k x) e = engGet s e := rfl

theorem KeepsWeave.evgEngPut (s : State) (k : Nat) (x : EvgEng) : KeepsWeave s (evgEngPut s k x) := ⟨rfl, rfl, rfl, rfl, rfl, rfl⟩
theorem KeepsWeave.tmrPut (s : State) (k : Nat) (x : Timer) : KeepsWeave s (tmrPut s k x) := ⟨rfl, rfl, rfl, rfl, rfl, rfl⟩
theorem KeepsWeave.setInput (s : State) (w : Nat) (b : Bool) : KeepsWeave s (setInput s w b) := ⟨rfl, rfl, rfl, rfl, rfl, rfl⟩

/-! ### What hardware sets and counts -/

@[simp] theorem fresh_evg (s : State) (a k : Nat) : (fresh s a k).evg = s.evg := by rw [fresh_eq]

@[simp] theorem srcGet_fresh (s : State) (a k n : Nat) : srcGet (fresh s a k) n = srcGet s n := by rw [srcGet, fresh_evg, srcGet]

/-- A happening changes its source alone (10 R228). -/
theorem srcGet_raiseSrc_ne (s : State) {n m : Nat} (h : m ≠ n) : srcGet (raiseSrc s n) m = srcGet s m := by
  unfold raiseSrc
  dsimp only
  split
  · rw [srcGet_fresh, srcGet_srcPut_ne s _ h]
  · rw [srcGet_srcPut_ne s _ h]

theorem srcGet_raiseSrc_counts {s : State} {n : Nat} (room : (srcGet s n).carry ≠ 0xFFFF#16) :
    srcGet (raiseSrc s n) n = { srcGet s n with carry := (srcGet s n).carry + 1 } := by
  simp only [raiseSrc, room, if_false, srcGet_srcPut]

theorem srcGet_raiseSrc_full {s : State} {n : Nat} (full : (srcGet s n).carry = 0xFFFF#16) :
    srcGet (raiseSrc s n) n = { srcGet s n with ovf := true } := by
  simp only [raiseSrc, full, if_true, srcGet_fresh, srcGet_srcPut]

/-- A counter's wrap raises a source and leaves the engines' side of the Gatherer. -/
@[simp] theorem evgEng_pmuAdd (s : State) (c n k : Nat) : evgEng (pmuAdd s c n) k = evgEng s k := by
  have raised (t : State) (m : Nat) : (raiseSrc t m).evg.eng = t.evg.eng := by
    unfold raiseSrc
    dsimp only
    split
    · rw [fresh_evg]; rfl
    · rfl
  have wrapped (t : State) : (cntWrap t c).evg.eng = t.evg.eng := by
    unfold cntWrap raiseIf
    split
    · rw [raised, fresh_evg]
    · rw [fresh_evg]
  have added : (cntAdd s c n).evg = s.evg := by rw [cntAdd_eq]
  unfold evgEng pmuAdd
  split
  · rw [added]
  · rw [wrapped, added]

@[simp] theorem engGet_pmuAdd (s : State) (c n : Nat) (e : Eng) : engGet (pmuAdd s c n) e = engGet s e := by rw [engGet, pmuAdd_eng, engGet]

/-! ### Presentations that stay (10 R232) -/

/-- A run of steps each of which leaves a state leaves it. -/
theorem foldl_of_leaves {σ α : Type} {f : σ → α → σ} {s : σ} (leaves : ∀ a, f s a = s) (l : List α) : l.foldl f s = s := by
  induction l with
  | nil => rfl
  | cons a l ih => rw [List.foldl_cons, leaves a, ih]

theorem staysPresented_none {s : State} {e : Eng} (idle : (evgEng s e.val).pres = none) : staysPresented s e = true := by
  rw [staysPresented, idle]

theorem withdrawIf_none {s : State} {e : Eng} (idle : (evgEng s e.val).pres = none) : withdrawIf s e = s :=
  if_pos (staysPresented_none idle)

/-- With no presentation a source's releases are withdrawn from no engine. -/
theorem withdrawSource_none {s : State} (idle : ∀ e : Eng, (evgEng s e.val).pres = none) (n : Nat) : withdrawSource s n = s :=
  foldl_of_leaves (fun e => by rw [idle e]) _

end Sys2Proof.Machine
end

section
/-! Occurrences, releases and batches (10 R228, R229), and the commands that make them. -/

namespace Sys2Proof.Machine

open Sys2Proof

theorem exec_evInEdge (w : BitVec 8) (rising : Bool) (s : State) : exec (.evInEdge w rising) s = execEvInEdge w rising s := rfl
theorem exec_internalOccurrence (id : BitVec 9) (s : State) : exec (.internalOccurrence id) s = execInternalOccurrence id s := rfl
theorem exec_batchTimerExpiry (id : BitVec 9) (s : State) : exec (.batchTimerExpiry id) s = execBatchTimerExpiry id s := rfl
theorem exec_evgSwraise (v : Word) (s : State) : exec (.evgSwraise v) s = execEvgSwraise v s := rfl

/-- Internal sources have no level (10 R228). -/
theorem isLevel_internal {n : Nat} (internal : 257 ≤ n) (x : Source) : isLevel n x = false := by
  have outside : ¬(1 ≤ n ∧ n ≤ 256) := by omega
  simp [isLevel, outside]

/-! ### One occurrence -/

section

variable {s : State} {n : Nat}

theorem release_counts (room : (srcGet s n).count ≠ 0xFFFF#16) :
    release s n = pmuAdd (srcPut s n { srcGet s n with count := (srcGet s n).count + 1 }) 584 1 := by
  simp only [release, room, if_false]

/-- The cycle notes that source n's batch has become a release. -/
def batchNoted (s : State) (n : Nat) : State := { s with cyc := { s.cyc with batches := n :: s.cyc.batches } }

theorem srcPut_batchNoted (s : State) (n m : Nat) (x : Source) : srcPut (batchNoted s n) m x = batchNoted (srcPut s m x) n := rfl

/-- The state after the batch of source n has become one release (10 R229). -/
def batchReleased (s : State) (n : Nat) : State :=
  pmuAdd (batchNoted (srcPut s n { srcGet s n with count := (srcGet s n).count + 1, acc := 0, timer := 0 }) n) 584 1

theorem endBatch_releases (room : (srcGet s n).count ≠ 0xFFFF#16) : endBatch s n = batchReleased s n := by
  have ends : endBatch s n = release (batchNoted (srcPut s n { srcGet s n with acc := 0, timer := 0 }) n) n := rfl
  have cleared : srcGet (batchNoted (srcPut s n { srcGet s n with acc := 0, timer := 0 }) n) n = { srcGet s n with acc := 0, timer := 0 } :=
    srcGet_srcPut s n _
  rw [ends, release_counts (by rw [cleared]; exact room), cleared, srcPut_batchNoted, srcPut_srcPut]
  rfl

theorem occur_disabled (off : (srcGet s n).en = false) : occur s n = s := by
  simp [occur, off]

section

variable (on : (srcGet s n).en = true)

include on

/-- Without batching an occurrence is a release. -/
theorem occur_unbatched (single : (srcGet s n).ccount = 0) (room : (srcGet s n).count ≠ 0xFFFF#16) :
    occur s n = pmuAdd (srcPut s n { srcGet s n with count := (srcGet s n).count + 1 }) 584 1 := by
  rw [← release_counts room]
  simp [occur, on, single]

variable (batched : (srcGet s n).ccount ≠ 0)

include batched

/-- With batching an occurrence belongs to the batch that the cycle has released, completes a batch, or is counted. -/
theorem occur_batched : occur s n =
    if (srcGet s n).ccount ≠ 1 ∧ n ∈ s.cyc.batches then s
    else if (srcGet s n).ccount.toNat ≤ (srcGet s n).acc.toNat + 1 then endBatch s n
    else srcPut s n { srcGet s n with
      acc := (srcGet s n).acc + 1, timer := if (srcGet s n).acc = 0 then 0 else (srcGet s n).timer } := by
  simp only [occur, on, batched, List.contains_iff_mem, Bool.not_true, Bool.false_eq_true, if_false]

/-- An occurrence after its batch's release in the same cycle belongs to that batch. -/
theorem occur_after_release (many : (srcGet s n).ccount ≠ 1) (released : n ∈ s.cyc.batches) : occur s n = s := by
  rw [occur_batched on batched, if_pos ⟨many, released⟩]

theorem occur_completes (full : (srcGet s n).ccount.toNat = (srcGet s n).acc.toNat + 1)
    (running : (srcGet s n).ccount = 1 ∨ n ∉ s.cyc.batches) (room : (srcGet s n).count ≠ 0xFFFF#16) :
    occur s n = batchReleased s n := by
  rw [occur_batched on batched, if_neg fun ⟨many, released⟩ => running.elim many fun unreleased => unreleased released,
    if_pos (Nat.le_of_eq full), endBatch_releases room]

theorem occur_accumulates (begun : (srcGet s n).acc ≠ 0) (more : (srcGet s n).acc.toNat + 1 < (srcGet s n).ccount.toNat)
    (running : n ∉ s.cyc.batches) : occur s n = srcPut s n { srcGet s n with acc := (srcGet s n).acc + 1 } := by
  rw [occur_batched on batched, if_neg fun h => running h.2, if_neg (Nat.not_le.2 more), if_neg begun]

end

/-- At a check a batch whose time has come is released. -/
theorem batchCheck_expired (internal : 257 ≤ n) (begun : (srcGet s n).acc ≠ 0) (timed : (srcGet s n).ctime ≠ 0)
    (due : (srcGet s n).ctime.toNat ≤ (srcGet s n).timer.toNat) (room : (srcGet s n).count ≠ 0xFFFF#16) :
    batchCheck s n = batchReleased s n := by
  rw [← endBatch_releases room]
  exact if_pos ⟨by simp [isLevel_internal internal], begun, .inr ⟨timed, due⟩⟩

theorem batchReleased_keeps (room : (srcGet s n).count ≠ 0xFFFF#16) : KeepsWeave s (batchReleased s n) := by
  rw [← endBatch_releases room]
  exact .endBatch s n

end

/-! ### The commands -/

theorem qualifies_iff (x : Source) (rising : Bool) :
    qualifies x rising = true ↔ x.sense = 4 ∨ (x.sense = 2 ∧ rising = true) ∨ (x.sense = 3 ∧ rising = false) := by
  cases rising <;> simp [qualifies]

section

variable {s : State} (clock : fclkOn s = true)

include clock

/-- A qualifying edge is one occurrence of its wire's source. -/
theorem exec_evInEdge_occurs {wire : BitVec 8} {rising : Bool} (edge : s.evg.input.getLsbD wire.toNat ≠ rising)
    (disarmed : s.evg.latched = false) (takes : qualifies (srcGet s (wire.toNat + 1)) rising = true) :
    exec (.evInEdge wire rising) s = .next (occur (setInput s wire.toNat rising) (wire.toNat + 1)) := by
  have effect : wireTo s wire rising = occur (setInput s wire.toNat rising) (wire.toNat + 1) := by
    simp [wireTo, edge, disarmed, takes]
  rw [exec_evInEdge, execEvInEdge, effect]
  exact when_eq (by simp [clock, edge]) ((KeepsWeave.setInput s _ _).trans (.occur _ _)).stalled

variable {id : BitVec 9} (internal : 257 ≤ id.toNat) (source : id.toNat ≤ 384)

include internal source

theorem exec_internalOccurrence_occurs (other : id.toNat ≠ 361) (carried : (srcGet s id.toNat).carry ≠ 0) :
    exec (.internalOccurrence id) s =
      .next (occur (srcPut s id.toNat { srcGet s id.toNat with carry := (srcGet s id.toNat).carry - 1 }) id.toNat) := by
  have happens : ¬(!fclkOn s || decide (id.toNat < 257) || decide (384 < id.toNat)) = true := by simp [clock, internal, source]
  rw [exec_internalOccurrence, execInternalOccurrence]
  dsimp only
  rw [if_neg happens, if_neg other, if_neg carried]

theorem exec_evgSwraise_occurs : exec (.evgSwraise (id.setWidth 32)) s = .next (occur s id.toNat) := by
  have field : (fld (id.setWidth 32) 0 9).toNat = id.toNat := by
    simp [fld]
    omega
  have listed : isSource id.toNat = true := by simp [isSource]; omega
  have effect : swraise s (id.setWidth 32) = occur s id.toNat := by
    simp [swraise, field, listed, isLevel_internal internal]
  rw [exec_evgSwraise, execEvgSwraise, effect]
  exact when_eq clock (KeepsWeave.occur s _).stalled

end

end Sys2Proof.Machine
end

section
/-! Occurrences (O34). -/

namespace Sys2Proof.Machine

open Sys2Proof

/-- Settles O34: each command that makes an occurrence, the cases of an occurrence with and without a batch, and a producer's happening. -/
theorem eventOccurrences : Obligations.EventOccurrences := by
  unfold Obligations.EventOccurrences
  refine ⟨fun s wire rising id clock => ?single, fun s id clock internal source => ?batched, fun s n m => ?producer⟩
  case single =>
    refine ⟨fun edge disarmed takes => ?edge, fun internal source other carried on single room => ?internal,
      fun internal source on single room => ?raised⟩
    case edge =>
      rw [exec_evInEdge_occurs clock edge disarmed ((qualifies_iff _ _).2 takes)]
      exact ⟨fun on single room => congrArg _ (occur_unbatched on single room), fun off => congrArg _ (occur_disabled off)⟩
    case internal =>
      rw [exec_internalOccurrence_occurs clock internal source other carried, occur_unbatched]
      all_goals rwa [srcGet_srcPut]
    case raised =>
      rw [exec_evgSwraise_occurs clock internal source, occur_unbatched on single room]
  case batched =>
    intro n x u released room
    have raised := exec_evgSwraise_occurs clock internal source
    refine ⟨fun on batched full running => ?_, fun on batched many closed => ?_, fun on begun more running => ?_,
      fun _ begun timed due => ?_⟩
    · rw [raised, occur_completes on batched full running room]
      rfl
    · rw [raised, occur_after_release on batched many closed]
    · have batched : (srcGet s id.toNat).ccount ≠ 0 := by
        intro zero
        simp [x, n, zero] at more
      rw [raised, occur_accumulates on batched begun more running]
    · rw [exec_batchTimerExpiry, execBatchTimerExpiry, batchCheck_expired internal begun timed due room]
      exact when_eq clock (batchReleased_keeps room).stalled
  case producer =>
    exact ⟨srcGet_raiseSrc_counts, srcGet_raiseSrc_full, srcGet_raiseSrc_ne s, raiseSrc_eq s n⟩

end Sys2Proof.Machine
end

section
/-! Levels, the start-up latches, the configuration of sources and the event outputs (10 R229, R230, R241, R244, R245; 21 R462). -/

namespace Sys2Proof.Machine

open Sys2Proof

theorem exec_evInLevelChange (w : BitVec 8) (level : Bool) (s : State) :
    exec (.evInLevelChange w level) s = execEvInLevelChange w level s := rfl
theorem exec_evgPendEoi (id : BitVec 9) (s : State) : exec (.evgPendEoi id) s = execEvgPendEoi id s := rfl
theorem exec_evgPendClr (id : BitVec 9) (s : State) : exec (.evgPendClr id) s = execEvgPendClr id s := rfl
theorem exec_startUpLatchEdge (w : BitVec 8) (rising : Bool) (s : State) :
    exec (.startUpLatchEdge w rising) s = execStartUpLatchEdge w rising s := rfl
theorem exec_evgSourceConfigWrite (src : IoSrc) (id : BitVec 9) (field : BitVec 2) (v : Word) (s : State) :
    exec (.evgSourceConfigWrite src id field v) s = execEvgSourceConfigWrite src id field v s := rfl

/-! ### Level sources -/

theorem KeepsWeave.levelOut (s : State) (n : Nat) : KeepsWeave s (levelOut s n) := .ite (.srcPut s n _) (.refl s)

section

variable {s : State} {wire : BitVec 8} (high : (srcGet s (wire.toNat + 1)).sense = 0)

include high

theorem isLevel_of_sense_zero : isLevel (wire.toNat + 1) (srcGet s (wire.toNat + 1)) = true := by
  have wire_lt := wire.isLt
  simp [isLevel, high]
  omega

/-- An active-high source is asserted as its wire is. -/
theorem asserted_setInput (level : Bool) : asserted (setInput s wire.toNat level) (wire.toNat + 1) = level := by
  have same : srcGet (setInput s wire.toNat level) (wire.toNat + 1) = srcGet s (wire.toNat + 1) := rfl
  have input : (setInput s wire.toNat level).evg.input.getLsbD wire.toNat = level := getLsbD_setBit_same wire.isLt _ level
  simp only [asserted, same, isLevel_of_sense_zero high, Nat.add_sub_cancel, input, high]
  cases level <;> rfl

/-- A level source leaves service as its wire goes low (10 R230). -/
theorem exec_evInLevelChange_level (level : Bool) (clock : fclkOn s = true) : exec (.evInLevelChange wire level) s =
    .next (if (srcGet s (wire.toNat + 1)).insvc && !level
      then srcPut (setInput s wire.toNat level) (wire.toNat + 1) { srcGet s (wire.toNat + 1) with insvc := false }
      else setInput s wire.toNat level) := by
  have noEdge : qualifies (srcGet s (wire.toNat + 1)) level = false := by simp [qualifies, high]
  have effect : wireTo s wire level = levelOut (setInput s wire.toNat level) (wire.toNat + 1) := by
    simp [wireTo, noEdge]
  rw [exec_evInLevelChange, execEvInLevelChange, effect,
    when_eq clock ((KeepsWeave.setInput s _ _).trans (.levelOut _ _)).stalled, levelOut, asserted_setInput high]
  have same : srcGet (setInput s wire.toNat level) (wire.toNat + 1) = srcGet s (wire.toNat + 1) := rfl
  simp only [same, isLevel_of_sense_zero high, Bool.true_and]

/-- A level source leaves service by EOI (10 R230). -/
theorem exec_evgPendEoi_level (clock : fclkOn s = true) : exec (.evgPendEoi (BitVec.ofNat 9 (wire.toNat + 1))) s =
    .next (srcPut s (wire.toNat + 1) { srcGet s (wire.toNat + 1) with insvc := false }) := by
  have wire_lt := wire.isLt
  have number : (BitVec.ofNat 9 (wire.toNat + 1)).toNat = wire.toNat + 1 := by simp; omega
  have listed : isSource (wire.toNat + 1) = true := by simp [isSource]; omega
  rw [exec_evgPendEoi, execEvgPendEoi, number, eoi, if_pos (isLevel_of_sense_zero high)]
  exact when_eq (by simp [clock, listed]) rfl

end

/-- CLR clears a source's counts; there is no presentation to withdraw (10 R245). -/
theorem exec_evgPendClr_idle {s : State} {id : BitVec 9} (clock : fclkOn s = true) (source : isSource id.toNat = true)
    (idle : ∀ e : Eng, (evgEng s e.val).pres = none) : exec (.evgPendClr id) s =
      .next (srcPut s id.toNat { srcGet s id.toNat with count := 0, acc := 0, timer := 0 }) := by
  rw [exec_evgPendClr, execEvgPendClr, clearSource, withdrawSource_none (by simpa using idle)]
  exact when_eq (by simp [clock, source]) rfl

/-- An armed latch holds its edge (10 R241). -/
theorem exec_startUpLatchEdge_holds {s : State} (clock : fclkOn s = true) (armed : s.evg.latched = true) (wire : BitVec 8)
    (rising : Bool) : exec (.startUpLatchEdge wire rising) s = .next { s with evg :=
      if rising then { s.evg with latRise := setBit s.evg.latRise wire.toNat true }
      else { s.evg with latFall := setBit s.evg.latFall wire.toNat true } } := by
  have power : s.power = true := by
    simp only [fclkOn, Bool.and_eq_true, and_assoc] at clock
    exact clock.1
  exact when_eq (by simp [power, armed]) rfl

/-! ### A source's configuration -/

theorem KeepsWeave.evgErr (s : State) : KeepsWeave s (evgErr s) := by
  have h : KeepsWeave s { s with evg := { s.evg with cfgerr := true } } := ⟨rfl, rfl, rfl, rfl, rfl, rfl⟩
  exact h.trans (.fresh _ _ _)

@[simp] theorem evgEng_evgErr (s : State) (k : Nat) : evgEng (evgErr s) k = evgEng s k := by
  unfold evgEng evgErr
  rw [fresh_evg]

theorem srcChanged_internal {s : State} {n : Nat} (internal : 257 ≤ n) (idle : ∀ e : Eng, (evgEng s e.val).pres = none) :
    srcChanged s n = s := by
  have outside : levelOut s n = s := by simp [levelOut, isLevel_internal internal]
  rw [srcChanged, outside]
  exact foldl_of_leaves (fun e => withdrawIf_none (idle e)) _

/-- The manager's write of an internal source's configuration comes to the write alone while there is no presentation to withdraw. -/
theorem exec_evgSourceConfigWrite_internal {s t : State} {id : BitVec 9} {field : BitVec 2} {v : Word} (clock : fclkOn s = true)
    (internal : 257 ≤ id.toNat) (source : id.toNat ≤ 384) (idle : ∀ e : Eng, (evgEng s e.val).pres = none)
    (write : srcWrite s .manager id.toNat field v = t) (keeps : KeepsWeave s t) (same : ∀ k, evgEng t k = evgEng s k) :
    exec (.evgSourceConfigWrite .host id field v) s = .next t := by
  have visible : srcVisible s .manager id.toNat = true := by simp [srcVisible, isSource]; omega
  rw [exec_evgSourceConfigWrite, execEvgSourceConfigWrite]
  simp only [viewOf, visible, if_true, write]
  rw [srcChanged_internal internal fun e => by rw [same, idle]]
  exact when_eq (by simp [clock, srcActs]) keeps.stalled

section

variable (s : State) (v : View) {n : Nat} (w : Word)

theorem srcWrite_cfg (high : fld w 0 3 = 0) : srcWrite s v n 0 w = coalesce (srcPut s n { srcGet s n with
    sense := 0, en := w.getLsbD 3, prio := fld w 4 4, inst := fld w 16 6 }) n (some (fld w 8 8)) none := by
  simp [srcWrite, high]

/-- An internal source has SENSE 0: any other value leaves the field and sets CFGERR (10 R245, 21 R462). -/
theorem srcWrite_cfg_reserved (internal : 257 ≤ n) (reserved : fld w 0 3 ≠ 0#3) :
    srcWrite s v n 0 w = evgErr (coalesce (srcPut s n { srcGet s n with
      en := w.getLsbD 3, prio := fld w 4 4, inst := fld w 16 6 }) n (some (fld w 8 8)) none) := by
  simp [srcWrite, internal, reserved]

theorem srcWrite_ctime : srcWrite s v n 1 w = coalesce s n none (some (fld w 0 16)) := rfl

theorem srcWrite_target : srcWrite s .manager n 2 w = if w &&& ~~~(s.wvl.enable.setWidth 32) = 0
    then srcPut s n { srcGet s n with target := (srcGet s n).target.extractLsb' 32 32 ++ w } else evgErr s := by
  rw [← fld_low_half]
  rfl

end

/-- A CFG word's SENSE is 0 when its bits are. -/
theorem sense_eq_zero {v : Word} (b0 : v.getLsbD 0 = false) (b1 : v.getLsbD 1 = false) (b2 : v.getLsbD 2 = false) :
    fld v 0 3 = 0#3 := by
  refine BitVec.eq_of_getLsbD_eq fun i hi => ?_
  have below : i = 0 ∨ i = 1 ∨ i = 2 := by omega
  rw [fld, BitVec.getLsbD_extractLsb', Nat.zero_add, BitVec.getLsbD_zero]
  rcases below with rfl | rfl | rfl
  · rw [b0, Bool.and_false]
  · rw [b1, Bool.and_false]
  · rw [b2, Bool.and_false]

theorem sense_ne_zero {v : Word} (b0 : v.getLsbD 0 = true) : fld v 0 3 ≠ 0#3 := by
  intro zero
  have bit : (fld v 0 3).getLsbD 0 = true := by simp [fld, b0]
  simp [zero] at bit

/-! ### New CCOUNT and CTIME at the end of a cycle (10 R229) -/

theorem ne_of_mem_tdel {α : Type} {t : Tab α} {n : Nat} {p : Nat × α} (h : p ∈ tdel t n) : p.1 ≠ n := by
  induction t with
  | nil => simp [tdel] at h
  | cons q r ih =>
    obtain ⟨k, w⟩ := q
    by_cases same : k = n
    · simp only [tdel, same, if_true] at h
      exact ih h
    · simp only [tdel, same, if_false, List.mem_cons] at h
      rcases h with rfl | h
      · exact same
      · exact ih h

theorem tins_split {α : Type} (t : Tab α) (n : Nat) (v : α) : ∃ a b, tins t n v = a ++ (n, v) :: b ∧ t = a ++ b := by
  induction t with
  | nil => exact ⟨[], [], rfl, rfl⟩
  | cons p r ih =>
    obtain ⟨k, w⟩ := p
    by_cases before : n < k
    · exact ⟨[], (k, w) :: r, by simp [tins, before], rfl⟩
    · obtain ⟨a, b, put, old⟩ := ih
      exact ⟨(k, w) :: a, b, by simp [tins, before, put], by simp [old]⟩

/-- A run of steps each of which leaves what is read leaves it. -/
theorem foldl_read {σ α β : Type} {f : σ → α → σ} {read : σ → β} {l : List α}
    (leaves : ∀ a ∈ l, ∀ s, read (f s a) = read s) (s : σ) : read (l.foldl f s) = read s := by
  induction l generalizing s with
  | nil => rfl
  | cons a l ih =>
    rw [List.foldl_cons, ih fun a h => leaves a (List.mem_cons_of_mem _ h), leaves a List.mem_cons_self]

/-- Of a table's entries carried out one after another only the one put at n changes what is read there. -/
theorem foldl_tput_read {σ α β : Type} {f : σ → Nat × α → σ} {read : σ → β} {n : Nat} {v : α} {x : β}
    (own : ∀ s, read (f s (n, v)) = x) (other : ∀ s p, p.1 ≠ n → read (f s p) = read s) (t : Tab α) (s : σ) :
    read ((tput t n v).foldl f s) = x := by
  obtain ⟨a, b, put, old⟩ := tins_split (tdel t n) n v
  have after : ∀ p ∈ b, ∀ s, read (f s p) = read s := fun p h s =>
    other s p (ne_of_mem_tdel (t := t) (by rw [old]; exact List.mem_append_right _ h))
  rw [tput, put, List.foldl_append, List.foldl_cons, foldl_read after, own]

theorem srcGet_srcPut_field {β : Type} {field : Source → β} {s : State} {n m : Nat} {x : Source} (same : field x = field (srcGet s n)) :
    field (srcGet (srcPut s n x) m) = field (srcGet s m) := by
  by_cases h : m = n
  · rw [h, srcGet_srcPut, same]
  · rw [srcGet_srcPut_ne s x h]

/-- A new CCOUNT is there when the cycle has ended. -/
theorem endCoalesce_ccount (s : State) (n : Nat) (k : BitVec 8) :
    (srcGet (endCoalesce (coalesce s n (some k) none)) n).ccount = k := by
  refine (foldl_read (read := fun s => (srcGet s n).ccount)
    (f := fun s (p : Nat × Half) => srcPut s p.1 { srcGet s p.1 with ctime := p.2 })
    (fun p _ s => srcGet_srcPut_field (field := Source.ccount) rfl) _).trans ?_
  exact foldl_tput_read (read := fun s => (srcGet s n).ccount) (fun s => by rw [srcGet_srcPut])
    (fun s p h => by rw [srcGet_srcPut_ne s _ h.symm]) _ _

/-- A new CTIME is there when the cycle has ended. -/
theorem endCoalesce_ctime (s : State) (n : Nat) (k : Half) : (srcGet (endCoalesce (coalesce s n none (some k))) n).ctime = k :=
  foldl_tput_read (read := fun s => (srcGet s n).ctime) (fun s => by rw [srcGet_srcPut])
    (fun s p h => by rw [srcGet_srcPut_ne s _ h.symm]) _ _

/-! ### The event outputs (10 R244) -/

/-- The event outputs after the cycle's writes: of base b, with the bits of x set and those of c cleared. -/
def evoutOf (s : State) (b x c : Word) : State := evoutNow s { s.cyc with evBase := some b, evSet := x, evClr := c }

@[simp] theorem evoutOf_evoutOf (s : State) (b x c b' x' c' : Word) : evoutOf (evoutOf s b x c) b' x' c' = evoutOf s b' x' c' := rfl
@[simp] theorem fclkOn_evoutOf (s : State) (b x c : Word) : fclkOn (evoutOf s b x c) = fclkOn s := rfl
@[simp] theorem evoutOf_evBase (s : State) (b x c : Word) : (evoutOf s b x c).cyc.evBase = some b := rfl
@[simp] theorem evoutOf_evSet (s : State) (b x c : Word) : (evoutOf s b x c).cyc.evSet = x := rfl
@[simp] theorem evoutOf_evClr (s : State) (b x c : Word) : (evoutOf s b x c).cyc.evClr = c := rfl

section

variable {s : State} (clock : fclkOn s = true) (v : Word)

include clock

theorem exec_evgEvoutWrite : exec (.evgEvoutWrite v) s = .next (evoutOf s v s.cyc.evSet s.cyc.evClr) := when_eq clock rfl

theorem exec_evgEvoutset : exec (.evgEvoutset v) s =
    .next (evoutOf s (s.cyc.evBase.getD s.evg.evout) (s.cyc.evSet ||| v) s.cyc.evClr) := when_eq clock rfl

theorem exec_evgEvoutclr : exec (.evgEvoutclr v) s =
    .next (evoutOf s (s.cyc.evBase.getD s.evg.evout) s.cyc.evSet (s.cyc.evClr ||| v)) := when_eq clock rfl

end

/-- Commands that come to base b, sets x and clears c give the register that value and change nothing but the cycle's record of them. -/
theorem evout_of_runAll {s : State} {l : List Instr} {b x c w : Word} (runs : runAll l s = .next (evoutOf s b x c))
    (value : (b &&& ~~~c) ||| x = w) : ∃ cyc, runAll l s = .next { s with evg := { s.evg with evout := w }, cyc := cyc } := by
  rw [runs, ← value]
  exact ⟨_, rfl⟩

theorem and_not_zero (x : Word) : x &&& ~~~0#32 = x := by rw [BitVec.not_zero, BitVec.and_allOnes]

end Sys2Proof.Machine
end

section
/-! Level sources, the configuration of sources and the event outputs (O35). -/

namespace Sys2Proof.Machine

open Sys2Proof

/-- Settles O35: level sources and latches; each field of a source's configuration; and the event output's writes in every order. -/
theorem eventConfiguration : Obligations.EventConfiguration := by
  unfold Obligations.EventConfiguration
  refine ⟨fun s wire clock => ?levels, fun s id v clock internal source idle => ?configuration,
    fun s v a b clock base sets clears => ?outputs⟩
  case levels =>
    have wire_lt := wire.isLt
    refine ⟨fun high => ?low, fun high => ?high, fun high => exec_evgPendEoi_level high clock, fun idle => ?clear, fun armed =>
      ⟨exec_startUpLatchEdge_holds clock armed wire true, exec_startUpLatchEdge_holds clock armed wire false⟩⟩
    case low =>
      rw [exec_evInLevelChange_level high false clock, Bool.not_false, Bool.and_true]
      rfl
    case high =>
      rw [exec_evInLevelChange_level high true clock, Bool.not_true, Bool.and_false]
      rfl
    case clear =>
      have number : (BitVec.ofNat 9 (wire.toNat + 1)).toNat = wire.toNat + 1 := by simp; omega
      have cleared := exec_evgPendClr_idle (id := BitVec.ofNat 9 (wire.toNat + 1)) clock (by simp [number, isSource]; omega) idle
      rwa [number] at cleared
  case configuration =>
    intro n x err count time
    have write {field : BitVec 2} {t : State} :=
      exec_evgSourceConfigWrite_internal (field := field) (v := v) (t := t) clock internal source idle
    refine ⟨fun b0 b1 b2 => ?cfg, fun b0 => ?reserved, ?ctime, ⟨endCoalesce_ccount s n _, endCoalesce_ctime s n _⟩,
      fun inside => ?target, fun outside => ?absent⟩
    case cfg => exact write (srcWrite_cfg s _ v (sense_eq_zero b0 b1 b2)) ⟨rfl, rfl, rfl, rfl, rfl, rfl⟩ fun _ => rfl
    case reserved =>
      refine write (srcWrite_cfg_reserved s _ v internal (sense_ne_zero b0)) (.trans ?_ (.evgErr _)) fun k => (evgEng_evgErr _ k).trans rfl
      exact ⟨rfl, rfl, rfl, rfl, rfl, rfl⟩
    case ctime => exact write (srcWrite_ctime s _ v) ⟨rfl, rfl, rfl, rfl, rfl, rfl⟩ fun _ => rfl
    case target => exact write ((srcWrite_target s v).trans (if_pos inside)) (.srcPut s _ _) fun _ => rfl
    case absent => exact write ((srcWrite_target s v).trans (if_neg outside)) (.evgErr s) (evgEng_evgErr s)
  case outputs =>
    intro old gives
    refine ⟨evout_of_runAll (b := v) (x := 0#32) (c := 0#32) ?write (by rw [and_not_zero, BitVec.or_zero]),
      evout_of_runAll (b := old) (x := a) (c := 0#32) ?set (by rw [and_not_zero]),
      evout_of_runAll (b := old) (x := 0#32) (c := b) ?clear BitVec.or_zero,
      fun l pair => evout_of_runAll (b := old) (x := a) (c := b) ?pairs rfl,
      fun l triple => evout_of_runAll (b := v) (x := a) (c := b) ?triples rfl⟩
    case write => simp [runAll, exec_evgEvoutWrite, clock, sets, clears]
    case set => simp [runAll, exec_evgEvoutset, clock, base, sets, clears, old]
    case clear => simp [runAll, exec_evgEvoutclr, clock, base, sets, clears, old]
    case pairs =>
      obtain rfl | rfl : l = _ ∨ l = _ := by simpa using pair
      all_goals simp [runAll, exec_evgEvoutset, exec_evgEvoutclr, clock, base, sets, clears, old]
    case triples =>
      obtain rfl | rfl | rfl : l = _ ∨ l = _ ∨ l = _ := by simpa using triple
      all_goals simp [runAll, exec_evgEvoutWrite, exec_evgEvoutset, exec_evgEvoutclr, clock, base, sets, clears]

end Sys2Proof.Machine
end

section
/-! Presentations, withdrawals and reports (10 R231-R233; 05 R121). -/

namespace Sys2Proof.Machine

open Sys2Proof

theorem exec_presentation (e : Eng) (s : State) : exec (.presentation e) s = execPresentation e s := rfl
theorem exec_withdrawal (e : Eng) (s : State) : exec (.withdrawal e) s = execWithdrawal e s := rfl
theorem exec_claimReport (e : Eng) (s : State) : exec (.claimReport e) s = execClaimReport e s := rfl
theorem exec_maskShadowUpdate (e : Eng) (s : State) : exec (.maskShadowUpdate e) s = execMaskShadowUpdate e s := rfl

section

variable {s : State} {e : Eng}

/-! ### Presentation and withdrawal -/

/-- A presentation to an engine that has none reserves the release and wakes a `WAITE` that it is above (10 R231, 05 R121). -/
theorem present_idle (n : Nat) (q : BitVec 4) (idle : (evgEng s e.val).pres = none) (free : (engGet s e).held = none) :
    present s e n q =
      engPut (srcPut (evgEngPut s e.val { evgEng s e.val with
          pres := some (BitVec.ofNat 9 n, q), resv := (evgEng s e.val).resv ++ [BitVec.ofNat 9 n] }) n
        { srcGet s n with last := e.val }) e { engGet s e with
          held := some ⟨BitVec.ofNat 9 n, q⟩
          st := if (engGet s e).st = .sleeping ∧ (engGet s e).r.mask.ult q then .running else (engGet s e).st } := by
  simp only [present, idle, Option.isSome_none, Bool.false_eq_true, if_false, engGet_srcPut, engGet_evgEngPut, free]

/-- The release that e is offered is presented. -/
theorem exec_presentation_presents {n : Nat} {q : BitVec 4} (clock : fclkOn s = true) (highest : best s e = some (n, q))
    (idle : (evgEng s e.val).pres = none) (turn : offered s n = some e) : exec (.presentation e) s = .next (present s e n q) := by
  have above : aboveHeld s e q = true := by rw [aboveHeld, idle]
  simp [exec_presentation, execPresentation, highest, clock, above, turn]

/-- A withdrawal takes the presentation from the engine, which reports it RELEASED; its reservation stays until that report (10 R232). -/
theorem withdraw_held {p : BitVec 9 × BitVec 4} {h : Held} (presented : (evgEng s e.val).pres = some p)
    (held : (engGet s e).held = some h) :
    withdraw s e = engPut (pmuAdd (evgEngPut s e.val { evgEng s e.val with pres := none }) 589 1) e
      { engGet s e with held := none, repq := (engGet s e).repq ++ [.released h.src] } := by
  simp only [withdraw, presented, engGet_pmuAdd, engGet_evgEngPut, held]

/-- A presentation that may not stay is withdrawn. -/
theorem exec_withdrawal_withdraws {p : BitVec 9 × BitVec 4} {h : Held} (clock : fclkOn s = true)
    (presented : (evgEng s e.val).pres = some p) (held : (engGet s e).held = some h) (goes : staysPresented s e = false) :
    exec (.withdrawal e) s = .next (withdraw s e) := by
  refine when_eq (by simp [clock, goes]) ?_
  rw [withdraw_held presented held]
  exact ((KeepsWeave.evgEngPut s _ _).trans ((KeepsWeave.pmuAdd _ _ _).trans (.engPut _ e _))).stalled

/-! ### Reports -/

/-- Of an engine with no presentation a CONSUMED report of an internal source takes its release from COUNT, counts a claim and renews the
mask shadow (10 R232, R233). -/
theorem settle_consumed {id : BitVec 9} (m : BitVec 4) (idle : (evgEng s e.val).pres = none) (internal : 257 ≤ id.toNat)
    (counted : (srcGet s id.toNat).count ≠ 0) :
    settle s e (.consumed id m) = pmuAdd (srcPut (evgEngPut s e.val { evgEng s e.val with
        resv := (evgEng s e.val).resv.erase id, claims := (evgEng s e.val).claims + 1, shadow := m }) id.toNat
      { srcGet s id.toNat with count := (srcGet s id.toNat).count - 1 }) 585 1 := by
  simp only [settle, idle, Option.any_none, Bool.false_eq_true, if_false, srcGet_evgEngPut, isLevel_internal internal, counted]

/-- A RELEASED report returns its reservation (10 R232). -/
theorem settle_released (id : BitVec 9) (idle : (evgEng s e.val).pres = none) : settle s e (.released id) =
    pmuAdd (evgEngPut s e.val { evgEng s e.val with resv := (evgEng s e.val).resv.erase id }) 586 1 := by
  simp only [settle, idle, Option.any_none, Bool.false_and, Bool.false_eq_true, if_false]

theorem popReport_eq {r : Report} {l : List Report} (reports : (engGet s e).repq = r :: l) :
    popReport s e = engPut s e { engGet s e with repq := l } := by
  rw [popReport, reports]
  rfl

section

variable {id : BitVec 9} {m : BitVec 4} {l : List Report} (clock : fclkOn s = true)

include clock

theorem exec_claimReport_consumed (reports : (engGet s e).repq = .consumed id m :: l) : exec (.claimReport e) s =
    .next (withdrawIf (settle (engPut s e { engGet s e with repq := l }) e (.consumed id m)) e) := by
  rw [exec_claimReport, execClaimReport, popReport_eq reports, reports]
  exact congrArg _ (if_pos clock)

theorem exec_claimReport_released (reports : (engGet s e).repq = .released id :: l) : exec (.claimReport e) s =
    .next (settle (engPut s e { engGet s e with repq := l }) e (.released id)) := by
  rw [exec_claimReport, execClaimReport, popReport_eq reports, reports]
  exact congrArg _ (if_pos clock)

theorem exec_maskShadowUpdate_moves (reports : (engGet s e).repq = .mask m :: l) : exec (.maskShadowUpdate e) s =
    .next (withdrawIf (settle (engPut s e { engGet s e with repq := l }) e (.mask m)) e) := by
  rw [exec_maskShadowUpdate, execMaskShadowUpdate, popReport_eq reports, reports]
  exact congrArg _ (if_pos clock)

end

end

end Sys2Proof.Machine
end

section
/-! Presentations and reports (O36). -/

namespace Sys2Proof.Machine

open Sys2Proof

/-- Settles O36: an engine's presentation and withdrawal, and each kind of report. -/
theorem eventPresentation : Obligations.EventPresentation := by
  unfold Obligations.EventPresentation
  refine ⟨fun s e n q clock small => ⟨fun highest idle free turn => ?presents, fun presented held goes => ?withdraws⟩,
    fun s e id m l clock => ?reports⟩
  case presents =>
    have above : ((engGet s e).r.mask.ult q = true) = ((engGet s e).r.mask.toNat < q.toNat) := by simp [BitVec.ult]
    refine ⟨_, (exec_presentation_presents clock highest idle turn).trans (congrArg _ (present_idle n q idle free)), ?_⟩
    simp only [evgEng_engPut, evgEng_srcPut, evgEng_evgEngPut, engGet_engPut, srcGet_engPut, srcGet_srcPut, regGet_engPut, above, and_self]
  case withdraws =>
    refine ⟨_, (exec_withdrawal_withdraws clock presented held goes).trans (congrArg _ (withdraw_held presented held)), ?_⟩
    simp only [evgEng_engPut, evgEng_pmuAdd, evgEng_evgEngPut, engGet_engPut, and_self]
  case reports =>
    intro x y g popped idle
    refine ⟨fun reports internal counted => ?consumed, fun reports => ?released, fun reports => ?mask⟩
    case consumed =>
      rw [exec_claimReport_consumed clock reports, settle_consumed (s := popped) m idle internal counted, withdrawIf_none]
      · rfl
      · rw [evgEng_pmuAdd, evgEng_srcPut, evgEng_evgEngPut]
        exact idle
    case released =>
      rw [exec_claimReport_released clock reports, settle_released (s := popped) id idle]
      rfl
    case mask =>
      rw [exec_maskShadowUpdate_moves clock reports, settle, withdrawIf_none]
      · rfl
      · rw [evgEng_evgEngPut]
        exact idle

end Sys2Proof.Machine
end

section
/-! Timers, watchdogs, comparators and mailboxes (10 R242, R243, R246). -/

namespace Sys2Proof.Machine

open Sys2Proof

theorem exec_intervalTimerExpiry (e : Eng) (s : State) : exec (.intervalTimerExpiry e) s = execIntervalTimerExpiry e s := rfl
theorem exec_watchdogFirstExpiry (e : Eng) (s : State) : exec (.watchdogFirstExpiry e) s = execWatchdogFirstExpiry e s := rfl
theorem exec_watchdogSecondExpiry (e : Eng) (s : State) : exec (.watchdogSecondExpiry e) s = execWatchdogSecondExpiry e s := rfl
theorem exec_comparatorMatch (k : Fin 4) (s : State) : exec (.comparatorMatch k) s = execComparatorMatch k s := rfl
theorem exec_tmrGtimeloRead (s : State) : exec .tmrGtimeloRead s = execTmrGtimeloRead s := rfl

theorem wdDue_of_expired {t : Timer} (runs : t.wdperiod ≠ 0) (out : t.wdcount = 0) : wdDue t = true := by
  rw [wdDue, bne_iff_ne.2 runs, out]
  rfl

section

variable {s : State} {e : Eng} (clock : fclkOn s = true)

include clock

/-! ### An engine's timer and watchdog -/

theorem exec_intervalTimerExpiry_due (runs : (tmrGet s e.val).period ≠ 0) (out : (tmrGet s e.val).count = 0) :
    exec (.intervalTimerExpiry e) s = .next (raiseSrc (fresh (tmrPut s e.val { tmrGet s e.val with
      count := (tmrGet s e.val).period, texp := true }) (tmrStat e.val) 0) (257 + e.val)) := by
  refine when_eq ?_ ((KeepsWeave.tmrPut s _ _).trans ((KeepsWeave.fresh _ _ _).trans (.raiseSrc _ _))).stalled
  rw [clock, bne_iff_ne.2 runs, out]
  rfl

section

variable (runs : (tmrGet s e.val).wdperiod ≠ 0) (out : (tmrGet s e.val).wdcount = 0)

include runs out

/-- The first expiry makes WATCHDOG pending on a running engine (10 R242). -/
theorem exec_watchdogFirstExpiry_due (first : (tmrGet s e.val).wdsecond = false) (running : (engGet s e).st = .running) :
    exec (.watchdogFirstExpiry e) s = .next (engPut (fresh (tmrPut s e.val { tmrGet s e.val with
      wdcount := (tmrGet s e.val).wdperiod, wd1 := true, wdsecond := true }) (tmrStat e.val) 1) e { engGet s e with wdog := true }) := by
  have pending : ((engGet s e).wdog || (engGet s e).st == .running || (engGet s e).st == .sleeping) = true := by simp [running]
  rw [exec_watchdogFirstExpiry, execWatchdogFirstExpiry]
  dsimp only
  rw [pending]
  refine when_eq ?_ ((KeepsWeave.tmrPut s _ _).trans ((KeepsWeave.fresh _ _ _).trans (.engPut _ e _))).stalled
  rw [clock, wdDue_of_expired runs out, first]
  rfl

/-- A later expiry raises the engine's source (10 R242). -/
theorem exec_watchdogSecondExpiry_due (second : (tmrGet s e.val).wdsecond = true) :
    exec (.watchdogSecondExpiry e) s = .next (raiseSrc (fresh (tmrPut s e.val { tmrGet s e.val with
      wdcount := (tmrGet s e.val).wdperiod, wd2 := true }) (tmrStat e.val) 2) (257 + e.val)) := by
  refine when_eq ?_ ((KeepsWeave.tmrPut s _ _).trans ((KeepsWeave.fresh _ _ _).trans (.raiseSrc _ _))).stalled
  rw [clock, wdDue_of_expired runs out, second]
  rfl

end

/-! ### The complex's time and mailboxes -/

/-- A read of the global time's low half captures the high half (10 R246). -/
theorem exec_tmrGtimeloRead_captures : exec .tmrGtimeloRead s = .next { s with
    tmr := { s.tmr with gtimehi := (s.tmr.gtime >>> 32).setWidth 32 }, lastRead := s.tmr.gtime.setWidth 32 } := by
  rw [exec_tmrGtimeloRead, execTmrGtimeloRead, fld_low_half, fld_high_half]
  exact when_eq clock rfl

/-- A comparator that the time has reached raises its source, and is due no more (10 R243). -/
theorem exec_comparatorMatch_due {k : Fin 4} (due : s.tmr.due.getLsbD k.val = true) : exec (.comparatorMatch k) s =
    .next (raiseSrc { s with tmr := { s.tmr with due := s.tmr.due &&& ~~~(1#4 <<< k.val) } } (377 + k.val)) := by
  rw [exec_comparatorMatch, execComparatorMatch, setBit_false]
  exact when_eq (by rw [clock, due]; rfl) (KeepsWeave.raiseSrc _ _).stalled

end

end Sys2Proof.Machine
end

section
/-! Timers and mailboxes (O37). -/

namespace Sys2Proof.Machine

open Sys2Proof

/-- Settles O37: the expiries of an engine's timer and watchdog, the writes that restart them, and the complex's time and mailboxes. -/
theorem timersAndMailboxes : Obligations.TimersAndMailboxes := by
  unfold Obligations.TimersAndMailboxes
  refine ⟨fun s e v clock => ?timers, fun s k v clock => ?time⟩
  case timers =>
    exact ⟨exec_intervalTimerExpiry_due clock, exec_watchdogFirstExpiry_due clock, exec_watchdogSecondExpiry_due clock, when_eq clock rfl,
      when_eq clock rfl, when_eq clock rfl⟩
  case time =>
    exact ⟨exec_tmrGtimeloRead_captures clock, exec_comparatorMatch_due clock, when_eq clock (KeepsWeave.raiseSrc _ _).stalled⟩

end Sys2Proof.Machine
end

section
/-! A line that lands in its cache (11 R259, 08 R176): the way it takes, and the engine that it leaves. -/

namespace Sys2Proof.Machine

open Sys2Proof

theorem exec_lineFillLands (e : Eng) (side : CacheSide) (l : LineAddr) (s : State) :
    exec (.lineFillLands e side l) s = execLineFillLands e side l s := rfl

/-! ### The way and the fills in progress -/

/-- Way w is the lowest invalid one of a set. -/
def FirstInvalid (t : Tab CLine) (k w : Nat) : Prop :=
  w < 4 ∧ tfind t (4 * k + w) = none ∧ ∀ v < w, (tfind t (4 * k + v)).isSome = true

theorem victim_firstInvalid {t : Tab CLine} {k w : Nat} (lru : Tab (List Nat)) (first : FirstInvalid t k w) : victim t lru k = w := by
  obtain ⟨below, free, full⟩ := first
  have found : (List.range 4).find? (fun v => (tfind t (4 * k + v)).isNone) = some w := by
    rw [List.find?_range_eq_some]
    refine ⟨by simp [free], List.mem_range.2 below, fun v hv => ?_⟩
    have taken := full v hv
    cases hline : tfind t (4 * k + v) with
    | none => simp [hline] at taken
    | some c => rfl
  simp only [victim, found]

theorem find_fillsDel (fs : List Fill) (side : CacheSide) (l : LineAddr) :
    (fillsDel fs side l).find? (fun f => f.line == l && f.side == side) = none := by
  rw [List.find?_eq_none]
  intro f hf
  rw [Bool.not_eq_true, ← Bool.not_eq_true']
  exact (List.mem_filter.1 hf).2

/-! ### The engine once the line is in -/

/-- The engine once a line has filled way w of its D-cache set, clean. -/
def dataFilled (g : Engine) (l : LineAddr) (d : LineData) (w : Nat) : Engine :=
  { g with m := { g.m with
      fills := fillsDel g.m.fills .data l, dc := tput g.m.dc (4 * setOf l + w) { line := l, data := d, dirty := 0 },
      dlru := touch g.m.dlru (setOf l) w } }

/-- The engine once a line has filled way w of its I-cache set and entered the line buffer. -/
def instrFilled (g : Engine) (l : LineAddr) (d : LineData) (w : Nat) : Engine :=
  { g with m := lbufPut { g.m with
      fills := fillsDel g.m.fills .instr l, ic := tput g.m.ic (4 * setOf l + w) { line := l, data := d, dirty := 0 },
      ilru := touch g.m.ilru (setOf l) w } l d }

section
variable {s : State} {e : Eng} {l : LineAddr} {f : Fill} {d : LineData} {w : Nat}
  (clock : eclkOn s = true) (landed : f.st = .landed d)
include clock landed

theorem exec_lineFillLands_data (fill : fillOf (engGet s e) .data l = some f) (calm : (engGet s e).anchor = none)
    (absent : wayOf (engGet s e).m.dc l = none) (first : FirstInvalid (engGet s e).m.dc (setOf l) w) :
    exec (.lineFillLands e .data l) s = .next (engPut s e (dataFilled (engGet s e) l d w)) := by
  have way := victim_firstInvalid (engGet s e).m.dlru first
  obtain ⟨-, free, -⟩ := first
  simp [exec_lineFillLands, execLineFillLands, engineOn, clock, landed, fill, calm, absent, way, free, dcPut, setFills, dataFilled]

theorem exec_lineFillLands_instr (fill : fillOf (engGet s e) .instr l = some f)
    (first : FirstInvalid (engGet s e).m.ic (setOf l) w) :
    exec (.lineFillLands e .instr l) s = .next (engPut s e (instrFilled (engGet s e) l d w)) := by
  have way := victim_firstInvalid (engGet s e).m.ilru first
  simp [exec_lineFillLands, execLineFillLands, engineOn, clock, landed, fill, way, instrFilled]

end

end Sys2Proof.Machine
end

section
/-! Reads of a walk (11 R252, 20 R440, R441, R446): what the port of a descriptor's address answers, and the read of one descriptor. -/

namespace Sys2Proof.Machine

open Sys2Proof

/-! ### Where reads are noted -/

@[simp] theorem engGet_readNote (s : State) (who : ReadFor) (k : Nat) (a : Option (Option LineData)) (e : Eng) :
    engGet (readNote s who k a) e = engGet s e := rfl

@[simp] theorem engGet_readsEnd (s : State) (who : ReadFor) (e : Eng) : engGet (readsEnd s who) e = engGet s e := rfl

@[simp] theorem regGet_readsEnd (s : State) (who : ReadFor) (e : Eng) : regGet (readsEnd s who) e = regGet s e := rfl

theorem engGet_mptPut (s : State) (n : Nat) (x : Mpt) (e : Eng) : engGet (mptPut s n x) e = engGet s e := by
  unfold mptPut
  split <;> rfl

theorem mptPut_reads (s : State) (n : Nat) (x : Mpt) : (mptPut s n x).reads = s.reads := by
  unfold mptPut
  split <;> rfl

theorem readOf_none {s : State} {who : ReadFor} (unasked : ∀ y ∈ s.reads, y.who ≠ who) (k : Nat) : readOf s who k = none := by
  rw [readOf, List.find?_eq_none]
  intro y hy
  simp [unasked y hy]

theorem reads_none_dropped {s : State} {who : ReadFor} (unasked : ∀ y ∈ s.reads, y.who ≠ who) :
    s.reads.any (fun x => x.who == who && x.drop) = false := by
  rw [List.any_eq_false]
  intro y hy
  simp [unasked y hy]

theorem readOf_readNote {s : State} {who : ReadFor} (unasked : ∀ y ∈ s.reads, y.who ≠ who) (k : Nat) (a : Option (Option LineData)) :
    readOf (readNote s who k a) who k = some { who := who, k := k, ans := a } := by
  have before : s.reads.find? (fun x => x.who == who && x.k == k && !x.drop) = none := readOf_none unasked k
  simp [readOf, readNote, List.find?_append, before]

/-! ### The port's answer -/

/-- The bytes of a line lie in the same port's window. -/
theorem decodePort_linePA (s : State) (pa : PAddr) : decodePort s (linePA (lineOf pa)) = decodePort s pa := by
  have base : (linePA (lineOf pa)).toNat = pa.toNat / 64 * 64 := by
    have small := pa.isLt
    have line : (lineOf pa).toNat = pa.toNat / 64 := by
      simp only [lineOf, fld, BitVec.extractLsb'_toNat, Nat.shiftRight_eq_div_pow]
      omega
    refine (BitVec.toNat_append _ _).trans ?_
    rw [line, Nat.shiftLeft_eq]
    exact Nat.or_zero _
  have same : (linePA (lineOf pa)).toNat / 0x1000000 = pa.toNat / 0x1000000 := by omega
  simp only [decodePort, same]

/-- A port's error changes no engine. -/
theorem engGet_portError (s : State) (n : Nat) (l : LineAddr) (err : BitVec 2) (e : Eng) : engGet (portError s n l err) e = engGet s e := by
  rw [portError, raiseIf_eq, fresh_eq]
  exact engGet_mptPut s n _ e

theorem mpSend_lineOf {s : State} {pa : PAddr} {n : Nat} (port : decodePort s pa = some n) (write : Bool) (mst : Nat) (data : LineData)
    (mask : BitVec 64) (owner : MpOwner) :
    mpSend s write (lineOf pa) mst data mask owner = mpSendTo s n write (lineOf pa) mst data mask owner := by
  simp only [mpSend, decodePort_linePA, port]

section
variable {s t : State} {who : ReadFor} {k mst n : Nat} {pa : PAddr} (unasked : ∀ y ∈ s.reads, y.who ≠ who)
  (port : decodePort s pa = some n)
include unasked port

theorem askRead_sent (sent : mpSendTo s n false (lineOf pa) mst 0 0 (.read who k) = .sent t) :
    askRead s who k mst (lineOf pa) = (readNote t who k none, none) := by
  simp only [askRead, readOf_none unasked, reads_none_dropped unasked, mpSend_lineOf port, sent, Bool.false_eq_true, if_false]

/-- A port out of use enters the error (20 R446). -/
theorem askRead_refused (off : (mptGet s n).en = false) : askRead s who k mst (lineOf pa) =
    (readNote (portError s n (lineOf pa) 2) who k (some none), some none) := by
  have refuses : mpSendTo s n false (lineOf pa) mst 0 0 (.read who k) = .refused (portError s n (lineOf pa) 2) := by
    simp [mpSendTo, off]
  simp only [askRead, readOf_none unasked, reads_none_dropped unasked, mpSend_lineOf port, refuses, Bool.false_eq_true, if_false]

end

/-- The request of a read, under transaction ID id. -/
def readReq (l : LineAddr) (mst id : Nat) (who : ReadFor) (k : Nat) : MpReq :=
  ⟨BitVec.ofNat 8 id, false, l, BitVec.ofNat 7 mst, 0, 0, .read who k, false⟩

/-- An engine's read in a slot that it owns joins the queue of its port, and changes no engine. -/
theorem mpSendTo_read {s : State} {e : Eng} {n k id : Nat} {l : LineAddr} {who : ReadFor} (on : (mptGet s n).en = true)
    (slot : slotFor s (portTable n) e.val false = some true) (free : freeId (mptGet s n) = some id)
    (room : (mptGet s n).reqq.length ≤ 15) :
    ∃ t, mpSendTo s n false l e.val 0 0 (.read who k) = .sent t ∧
      (mptGet t n).reqq = (mptGet s n).reqq ++ [readReq l e.val id who k] ∧ t.reads = s.reads ∧ engGet t e = engGet s e := by
  have mine : e.val < 64 := e.isLt
  have owned : ownedOnly e.val = true := by simp [ownedOnly, mine]
  have serves : mpSlot s n e.val (.read who k) = some (slotTake s ⟨portTable n, e.val, true, none⟩) := by
    simp [mpSlot, outServe, owned, slot]
  obtain ⟨prog, used, stalled, taken⟩ := slotTake_takesSlots s (u := ⟨portTable n, e.val, true, none⟩) mine
  have queue : ¬ 16 ≤ (mptGet s n).reqq.length := by omega
  refine ⟨mpPut (slotTake s ⟨portTable n, e.val, true, none⟩) n false l e.val 0 0 (.read who k) id, ?_, ?_, ?_, ?_⟩
  · simp [mpSendTo, on, free, queue, serves]
  · simp only [mpPut, Bool.false_eq_true, if_false, mptGet_mptPut]
    rw [taken]
    rfl
  · simp only [mpPut, Bool.false_eq_true, if_false, mptPut_reads]
    rw [taken]
  · simp only [mpPut, Bool.false_eq_true, if_false, engGet_mptPut]
    rw [taken]
    rfl

/-! ### One descriptor -/

/-- An aligned descriptor within its line. -/
theorem descAt_aligned {pa : PAddr} (aligned : pa.toNat % 8 = 0) (L : LineData) :
    descAt pa L = BitVec.ofNat 64 (L.toNat / 2 ^ (8 * (pa.toNat % 64))) := by
  have place : pa.toNat % 64 / 8 * 8 = pa.toNat % 64 := by omega
  apply BitVec.eq_of_toNat_eq
  rw [descAt, place, lineBytes, leNat_toBytes, BitVec.toNat_ofNat, BitVec.toNat_ofNat]
  exact Nat.mod_mod _ _

section
variable {s : State} {e : Eng} {pa : PAddr} {n : Nat}

theorem readDesc_answered {x : PortRead} {a : Option LineData} (made : readOf s (.walk e) n = some x) (answer : x.ans = some a) :
    readDesc s e pa n = .ok s (n + 1) (a.map (descAt pa)) := by
  simp only [readDesc, made, answer]

/-- A line that has come back holds an aligned descriptor at its address. -/
theorem readDesc_line {x : PortRead} {L : LineData} (aligned : pa.toNat % 8 = 0) (made : readOf s (.walk e) n = some x)
    (answer : x.ans = some (some L)) :
    readDesc s e pa n = .ok s (n + 1) (some (BitVec.ofNat 64 (L.toNat / 2 ^ (8 * (pa.toNat % 64))))) := by
  rw [readDesc_answered made answer, Option.map_some, descAt_aligned aligned]

section
variable {p : Nat} (unasked : ∀ y ∈ s.reads, y.who ≠ .walk e) (out : inWindow s pa = false) (port : decodePort s pa = some p)
include unasked out port

theorem readDesc_sent {t : State} (sent : mpSendTo s p false (lineOf pa) e.val 0 0 (.read (.walk e) n) = .sent t) :
    readDesc s e pa n = .wait (readNote t (.walk e) n none) := by
  simp only [readDesc, readOf_none unasked, out, askRead_sent unasked port sent, Bool.false_eq_true, if_false]

theorem readDesc_refused (off : (mptGet s p).en = false) :
    readDesc s e pa n = .ok (readNote (portError s p (lineOf pa) 2) (.walk e) n (some none)) (n + 1) none := by
  simp only [readDesc, readOf_none unasked, out, askRead_refused unasked port off, Bool.false_eq_true, if_false, Option.map_none]

end

end

end Sys2Proof.Machine
end

section
/-! Walks of stage 1 (11 R248-R255, R258): the first descriptor's reading decides a walk that it ends; what a walk leaves. -/

namespace Sys2Proof.Machine

open Sys2Proof

theorem exec_translationWalk_good (e : Eng) (acc : AccKind) (va : Word) (s : State) :
    exec (.translationWalk e acc va .good) s = .next (walkOn e acc va s) := rfl

/-! ### Descriptors (11 R249, R250) -/

theorem descOf_invalid {k : TableKind} {s2 : Bool} {d : BitVec 64} (invalid : fld d 0 2 = 0) : descOf k s2 d = .bad 1 := by
  simp [descOf, invalid]

/-- A well-formed leaf of a level that maps 2 MiB, which grants a read. -/
theorem descOf_leaf {d : BitVec 64} (leaf : fld d 0 2 = 1) (read : d.getLsbD 2 = true) (low : fld d 7 5 = 0) (high : fld d 44 12 = 0)
    (base : fld d 12 9 = 0) : descOf .middle false d = .leaf 2 := by
  simp [descOf, leaf, read, low, high, base]

section
variable {s t : State} {e : Eng} {pa ia : PAddr} {n r level : Nat} {k : TableKind} {tw s2 : Bool} {d : BitVec 64}

theorem walkStep_waits (waits : readDesc s e pa n = .wait t) : walkStep s e pa n k level tw s2 ia = .wait t := by
  rw [walkStep, waits]
  rfl

/-- A read's error response is a fault of KIND 4. -/
theorem walkStep_error (error : readDesc s e pa n = .ok t r none) :
    walkStep s e pa n k level tw s2 ia = .bad t (walkDetail 4 level tw s2) ia := by
  rw [walkStep, error]
  rfl

theorem walkStep_bad {kind : Nat} (read : readDesc s e pa n = .ok t r (some d)) (bad : descOf k s2 d = .bad kind) :
    walkStep s e pa n k level tw s2 ia = .bad t (walkDetail kind level tw s2) ia := by
  simp only [walkStep, read, Walked.bind, bad]

theorem walkStep_leaf {z : BitVec 2} (read : readDesc s e pa n = .ok t r (some d)) (leaf : descOf k s2 d = .leaf z) :
    walkStep s e pa n k level tw s2 ia = .ok t r (d, .leaf z) := by
  simp only [walkStep, read, Walked.bind, leaf]

end

/-! ### The entry of a 2 MiB leaf (11 R251, R255) -/

/-- A 2 MiB page's base, with the low bits of an address. -/
def inPage (base a : PAddr) : PAddr := (base &&& ~~~(BitVec.ofNat 44 (2 ^ 21 - 1))) ||| (a &&& BitVec.ofNat 44 (2 ^ 21 - 1))

theorem getLsbD_inPage (base a : PAddr) {i : Nat} (hi : i < 44) :
    (inPage base a).getLsbD i = if i < 21 then a.getLsbD i else base.getLsbD i := by
  rw [inPage, BitVec.getLsbD_or, BitVec.getLsbD_and, BitVec.getLsbD_and, BitVec.getLsbD_not, BitVec.getLsbD_ofNat,
    Nat.testBit_two_pow_sub_one]
  by_cases low : i < 21 <;> simp [low, hi]

theorem getLsbD_descAddr (d : BitVec 64) {i : Nat} (above : 12 ≤ i) (hi : i < 44) : (descAddr d).getLsbD i = d.getLsbD i := by
  have place : 12 + (i - 12) = i := by omega
  have inside : i - 12 < 32 := by omega
  refine BitVec.getLsbD_append.trans ?_
  rw [if_neg (Nat.not_lt.2 above), fld, BitVec.getLsbD_extractLsb', decide_eq_true inside, Bool.true_and, place]

/-- The entry that a 2 MiB leaf of stage 1 makes (11 R255). -/
def leafEntry (s : State) (e : Eng) (va : Word) (d : BitVec 64) : TlbEntry :=
  let out := leafOut d 2 (va.setWidth 44)
  walkEntry (instTag s e) va out out (some ⟨out, 2, d⟩) none

section
variable {s : State} {e : Eng} {va : Word} {d : BitVec 64}

theorem leafEntry_hits : (leafEntry s e va d).hits (instTag s e) va = true := by
  simp [leafEntry, walkEntry, TlbEntry.hits]

theorem leafEntry_grants {priv : BitVec 2} (read : d.getLsbD 2 = true) (above : priv ≠ 0) :
    (leafEntry s e va d).grants .read priv = (true, true) := by
  simp only [TlbEntry.grants, leafEntry, walkEntry, Option.map_some, Option.map_none, Option.getD_some, Option.getD_none, read,
    bne_iff_ne.2 above, Bool.true_or, Bool.and_self]

/-- The leaf's base with the low 21 bits of the address. -/
theorem leafEntry_out : (leafEntry s e va d).out va =
    BitVec.ofNat 44 (d.toNat / 2 ^ 21 % 2 ^ 23 * 2 ^ 21 + va.toNat % 2 ^ 21) := by
  apply BitVec.eq_of_getLsbD_eq
  intro i hi
  have sum : (BitVec.ofNat 44 (d.toNat / 2 ^ 21 % 2 ^ 23 * 2 ^ 21 + va.toNat % 2 ^ 21)).getLsbD i =
      if i < 21 then va.getLsbD i else d.getLsbD i := by
    rw [BitVec.getLsbD_ofNat, decide_eq_true hi, Bool.true_and, Nat.mul_comm, Nat.testBit_two_pow_mul_add _ (Nat.mod_lt _ (by decide))]
    split
    next low => rw [Nat.testBit_mod_two_pow, decide_eq_true low, Bool.true_and, BitVec.testBit_toNat]
    next high =>
      have inside : i - 21 < 23 := by omega
      rw [Nat.testBit_mod_two_pow, Nat.testBit_div_two_pow, Nat.sub_add_cancel (by omega), decide_eq_true inside, Bool.true_and,
        BitVec.testBit_toNat]
  have entry : (leafEntry s e va d).out va = inPage (inPage (descAddr d) (va.setWidth 44)) (va.setWidth 44) := rfl
  rw [sum, entry, getLsbD_inPage _ _ hi]
  split
  next low => rw [BitVec.getLsbD_setWidth, decide_eq_true hi, Bool.true_and]
  next high => rw [getLsbD_inPage _ _ hi, if_neg high, getLsbD_descAddr d (by omega) hi]

end

/-! ### A walk of stage 1 alone (11 R247, R252) -/

/-- The address of stage 1's first descriptor (11 R248). -/
def firstDesc (s : State) (e : Eng) (va : Word) : PAddr := fld (regGet s e).sp.xlt1Eff 2 30 ++ (fld va 21 11 ++ (0 : BitVec 3))

theorem firstDesc_aligned (s : State) (e : Eng) (va : Word) : (firstDesc s e va).toNat % 8 = 0 := by
  have index : (fld va 21 11 ++ (0 : BitVec 3)).toNat = (fld va 21 11).toNat * 8 := by
    rw [BitVec.toNat_append, Nat.shiftLeft_eq]
    exact Nat.or_zero _
  have whole : (firstDesc s e va).toNat = (fld (regGet s e).sp.xlt1Eff 2 30).toNat * 2 ^ 14 + (fld va 21 11).toNat * 8 := by
    refine (BitVec.toNat_append _ _).trans ?_
    rw [← Nat.shiftLeft_add_eq_or_of_lt (BitVec.isLt _), index, Nat.shiftLeft_eq]
  omega

theorem stage2_off {s : State} {e : Eng} (off : (regGet s e).sp.xctlEff.getLsbD 1 = false) (ia : PAddr) (n : Nat) (tw : Bool) :
    stage2 s e ia n tw = .ok s n (ia, none) := by
  simp only [stage2, off, Bool.not_false, if_true]

section
variable {s t : State} {e : Eng} {va : Word} {d : BitVec 64} (alone : (regGet s e).sp.xctlEff = 1)
include alone

theorem stages_alone : (regGet s e).sp.xctlEff.getLsbD 0 = true ∧ (regGet s e).sp.xctlEff.getLsbD 1 = false := by
  rw [alone]
  exact ⟨rfl, rfl⟩

/-- No stage 2 translates the address of a table. -/
theorem tableAddr_alone (ia : PAddr) (n : Nat) : tableAddr s e ia n = .ok s n ia := by
  simp only [tableAddr, stage2_off (stages_alone alone).2, Walked.bind]

theorem walkAll_waits (step : walkStep s e (firstDesc s e va) 0 .middle 1 false false (va.setWidth 44) = .wait t) :
    walkAll s e va = .wait t := by
  unfold firstDesc at step
  simp only [walkAll, stage1, (stages_alone alone).1, tableAddr_alone alone, step, Walked.bind, Bool.not_true, Bool.false_eq_true, if_false]

theorem walkAll_bad {detail : BitVec 8} {ia : PAddr}
    (step : walkStep s e (firstDesc s e va) 0 .middle 1 false false (va.setWidth 44) = .bad t detail ia) :
    walkAll s e va = .bad t detail ia := by
  unfold firstDesc at step
  simp only [walkAll, stage1, (stages_alone alone).1, tableAddr_alone alone, step, Walked.bind, Bool.not_true, Bool.false_eq_true, if_false]

theorem walkAll_leaf {n : Nat}
    (step : walkStep s e (firstDesc s e va) 0 .middle 1 false false (va.setWidth 44) = .ok s n (d, .leaf 2)) :
    walkAll s e va = .ok s n (leafEntry s e va d) := by
  obtain ⟨on, off⟩ := stages_alone alone
  unfold firstDesc at step
  simp only [walkAll, stage1, on, tableAddr_alone alone, step, stage2_off off, Walked.bind, Bool.not_true, Bool.false_eq_true, if_false]
  rfl

end

/-! ### What a walk leaves (11 R253, R255, R258) -/

/-- The engine once a walk for an access has made an entry. -/
def walkDone (g : Engine) (acc : AccKind) (y : TlbEntry) : Engine := { g with walk := none, m := firstPut (tlb2Put g.m y) acc y }

section
variable {s t : State} {e : Eng} {acc : AccKind} {va : Word} {priv : BitVec 2} (clock : eclkOn s = true)
  (asked : (engGet s e).walk = some (acc, va, priv))
include clock asked

theorem walkOn_waits (waits : walkAll s e va = .wait t) : walkOn e acc va s = t := by
  simp [walkOn, engineOn, clock, asked, waits]

theorem walkOn_bad {d : BitVec 8} {ia : PAddr} (bad : walkAll s e va = .bad t d ia) :
    walkOn e acc va s = readsEnd (engPut t e (walkFault (engGet t e) acc va d ia)) (.walk e) := by
  simp [walkOn, engineOn, clock, asked, bad]

theorem walkOn_granted {n : Nat} {y : TlbEntry} (complete : walkAll s e va = .ok t n y) (grants : y.grants acc priv = (true, true)) :
    walkOn e acc va s = readsEnd (engPut t e (walkDone (engGet t e) acc y)) (.walk e) := by
  simp [walkOn, engineOn, clock, asked, complete, grants, walkDone]

end

end Sys2Proof.Machine
end

section
/-! A write of `ENG.XINV` (11 R257): what it empties at a boundary. -/

namespace Sys2Proof.Machine

open Sys2Proof

theorem exec_engXinvGo (e : Eng) (op : BitVec 2) (inst : BitVec 6) (s : State) :
    exec (.engXinvGo e op inst) s = execEngXinvGo e op inst s := rfl

/-! ### Sets of a table -/

/-- A table holds the default where it lists nothing. -/
theorem tget_unlisted {α : Type} {d : α} {t : Tab α} {k : Nat} (unlisted : k ∉ t.map (·.1)) : tget d t k = d := by
  induction t with
  | nil => rfl
  | cons p r ih =>
    obtain ⟨other, rest⟩ : k ≠ p.1 ∧ k ∉ r.map (·.1) := by simpa using unlisted
    rw [tget, if_neg (Ne.symm other), ih rest]

/-- Every index of a list is set to the default, and what held the default still does. -/
theorem tget_foldl_cleared {α β : Type} [DecidableEq α] (d : α) (l : List (Nat × β)) {t : Tab α} {k : Nat}
    (cleared : k ∈ l.map (·.1) ∨ tget d t k = d) : tget d (l.foldl (fun t p => tset d t p.1 d) t) k = d := by
  induction l generalizing t with
  | nil => simpa using cleared
  | cons p r ih =>
    rw [List.foldl_cons]
    refine ih ?_
    by_cases here : k = p.1
    · exact .inr (by rw [here, tget_tset_same])
    · rw [tget_tset_ne _ _ _ here]
      exact cleared.imp_left fun listed => by simpa [here] using listed

/-- An invalidation of everything empties the TLBs (11 R257, OP 1). -/
theorem tlbDrop_all (m : EngMem) (inst : BitVec 6) :
    (tlbDrop m 1 inst).itlb = [] ∧ (tlbDrop m 1 inst).dtlb = [] ∧ ∀ k, tget [] (tlbDrop m 1 inst).tlb2 k = [] := by
  refine ⟨rfl, rfl, fun k => tget_foldl_cleared [] m.tlb2 ?_⟩
  by_cases listed : k ∈ m.tlb2.map (·.1)
  · exact .inl listed
  · exact .inr (tget_unlisted listed)

/-! ### The write -/

/-- The engine once a write of OP 1 has acted at a boundary, with no store in its buffer. -/
def xinvDone (g : Engine) (inst : BitVec 6) : Engine :=
  let g1 := discard { g with xop := 1, xinst := inst, xgo := true, xwait := true }
  { g1 with m := tlbDrop g1.m 1 inst, xwait := false, xleft := 0, xgo := false }

/-- Nothing speculative is discarded from an engine that is not speculative. -/
theorem discard_r {g : Engine} (path : g.wrong = none) (calm : g.ra = none) : (discard g).r = g.r := by
  simp [discard, path, calm, setFills, setSb]

theorem exec_engXinvGo_boundary {s : State} {e : Eng} {inst : BitVec 6} (clock : eclkOn s = true) (there : engExists s e.val = true)
    (idle : (engGet s e).xgo = false) (boundary : boundaryNow s (engGet s e) = true) (empty : (engGet s e).m.sb = []) :
    exec (.engXinvGo e 1 inst) s = .next (engPut s e (xinvDone (engGet s e) inst)) := by
  simp [exec_engXinvGo, execEngXinvGo, clock, there, xinvWrite, idle, boundary, xinvAct, xinvDone, discard, setFills, setSb, empty]

end Sys2Proof.Machine
end

section
/-! Line fills, walks of stage 1 and TLB invalidation (O29). -/

namespace Sys2Proof.Machine

open Sys2Proof

section
variable {s t : State} {e : Eng} {va : Word} {priv : BitVec 2} (clock : eclkOn s = true)
  (asked : (engGet s e).walk = some (.read, va, priv)) (alone : (regGet s e).sp.xctlEff = 1)
include clock asked alone

/-- A fault of stage 1 that ends the walk of a read waits for that access (11 R258). -/
theorem exec_translationWalk_bad {d : BitVec 8} {ia : PAddr} (first : d.getLsbD 7 = false) (kept : engGet t e = engGet s e)
    (step : walkStep s e (firstDesc s e va) 0 .middle 1 false false (va.setWidth 44) = .bad t d ia) :
    exec (.translationWalk e .read va .good) s = .next (readsEnd (engPut t e { engGet s e with
      walk := none, wfault := some (.read, va, d, none) }) (.walk e)) := by
  rw [exec_translationWalk_good, walkOn_bad clock asked (walkAll_bad alone step), kept]
  simp only [walkFault, first, Bool.false_eq_true, if_false]

theorem exec_translationWalk_waits
    (read : readDesc s e (firstDesc s e va) 0 = .wait t) : exec (.translationWalk e .read va .good) s = .next t := by
  rw [exec_translationWalk_good, walkOn_waits clock asked (walkAll_waits alone (walkStep_waits read))]

theorem exec_translationWalk_leaf {d : BitVec 64} {n : Nat} (read : readDesc s e (firstDesc s e va) 0 = .ok s n (some d))
    (leaf : descOf .middle false d = .leaf 2) (grants : d.getLsbD 2 = true) (above : priv ≠ 0) :
    exec (.translationWalk e .read va .good) s =
      .next (readsEnd (engPut s e (walkDone (engGet s e) .read (leafEntry s e va d))) (.walk e)) := by
  rw [exec_translationWalk_good, walkOn_granted clock asked (walkAll_leaf alone (walkStep_leaf read leaf)) (leafEntry_grants grants above)]

end

/-- Settles O29: a line takes the lowest invalid way of its set; the first descriptor's reading decides a walk; an invalidation acts at a
boundary. -/
theorem translationAndFills : Obligations.TranslationAndFills := by
  unfold Obligations.TranslationAndFills
  refine ⟨fun s e l f d clock landed calm => ?fills, fun s e va priv L n k x => ?walks, fun s e inst clock there => ?invalidation⟩
  case fills =>
    refine ⟨fun fill absent w below free full => ?_, fun fill w below free full => ?_⟩
    · refine ⟨_, exec_lineFillLands_data clock landed fill calm absent ⟨below, free, full⟩, ?_, ?_, ?_, ?_⟩
      · rw [engGet_engPut]
        exact tfind_tput_same _ _ _
      · rw [engGet_engPut]
        exact find_fillsDel _ _ _
      · rw [regGet_engPut]
        rfl
      · rfl
    · refine ⟨_, exec_lineFillLands_instr clock landed fill ⟨below, free, full⟩, ?_, ?_, ?_, ?_⟩
      · rw [engGet_engPut]
        exact tfind_tput_same _ _ _
      · rw [engGet_engPut]
        rfl
      · rw [engGet_engPut]
        exact find_fillsDel _ _ _
      · rw [regGet_engPut]
        rfl
  case walks =>
    intro g table d done clock asked alone above out
    have aligned : table.toNat % 8 = 0 := firstDesc_aligned s e va
    refine ⟨fun port unasked => ⟨fun on slot free room => ?sent, fun off => ?refused⟩,
      fun made answer => ⟨fun leaf read low high base => ?leaf, fun invalid => ?invalid⟩, fun made answer => ?error⟩
    case sent =>
      obtain ⟨t, sent, queue, reads, engine⟩ := mpSendTo_read (k := 0) (l := lineOf table) (who := .walk e) on slot free room
      have waits := exec_translationWalk_waits clock asked alone (readDesc_sent unasked out port sent)
      exact ⟨_, readReq (lineOf table) e.val k (.walk e) 0, waits, queue, rfl, rfl, rfl, rfl,
        readOf_readNote (by rwa [reads]) 0 none, engine⟩
    case refused =>
      exact exec_translationWalk_bad clock asked alone rfl (engGet_portError s n _ 2 e)
        (walkStep_error (readDesc_refused unasked out port off))
    case leaf =>
      have maps := exec_translationWalk_leaf clock asked alone (readDesc_line aligned made answer)
        (descOf_leaf leaf read low high base) read above
      refine ⟨_, leafEntry s e va d, maps, ?_, ?_, ?_, leafEntry_hits, leafEntry_out, ?_⟩
      all_goals simp only [engGet_readsEnd, regGet_readsEnd, engGet_engPut, regGet_engPut]
      all_goals rfl
    case invalid =>
      exact exec_translationWalk_bad clock asked alone rfl rfl (walkStep_bad (readDesc_line aligned made answer) (descOf_invalid invalid))
    case error =>
      exact exec_translationWalk_bad clock asked alone rfl rfl (walkStep_error (readDesc_answered made answer))
  case invalidation =>
    intro g idle boundary path calm empty
    refine ⟨_, exec_engXinvGo_boundary clock there idle boundary empty, ?_⟩
    simp only [engGet_engPut, regGet_engPut]
    obtain ⟨instr, data, second⟩ := tlbDrop_all (discard { g with xop := 1, xinst := inst, xgo := true, xwait := true }).m inst
    exact ⟨instr, data, second, rfl, rfl, discard_r path calm⟩

end Sys2Proof.Machine
end
